-- ==== Sys2Proof/Word.lean ====
section
/-! DEFINITION. The plain types of the device's values: bytes, registers, addresses, lane masks, and four-lane vectors. -/

namespace Sys2Proof

/-- One byte of memory (R10). -/
abbrev Byte := BitVec 8
/-- A 32-bit register or instruction word. -/
abbrev Word := BitVec 32
/-- A 64-bit operand, special register or address. -/
abbrev Dword := BitVec 64
/-- A set of the four lanes of a slice, bit i for lane i (R20, R49). -/
abbrev Mask := BitVec 4

/-- One value for each of the four lanes of a slice (R13). -/
structure Lanes (α : Type) where
  l0 : α
  l1 : α
  l2 : α
  l3 : α
  deriving DecidableEq, Repr

/-- The value of lane `i`; an index above 3 names lane 3. -/
def Lanes.get {α : Type} (x : Lanes α) : Nat → α
  | 0 => x.l0
  | 1 => x.l1
  | 2 => x.l2
  | _ => x.l3

/-- `x` with lane `i` replaced. -/
def Lanes.set {α : Type} (x : Lanes α) (i : Nat) (a : α) : Lanes α :=
  match i with
  | 0 => { x with l0 := a }
  | 1 => { x with l1 := a }
  | 2 => { x with l2 := a }
  | _ => { x with l3 := a }

/-- The same value in every lane. -/
def Lanes.all {α : Type} (a : α) : Lanes α := ⟨a, a, a, a⟩

/-- One value per lane from a function of the lane index. -/
def Lanes.ofFn {α : Type} (f : Nat → α) : Lanes α := ⟨f 0, f 1, f 2, f 3⟩

/-- `y` in the lanes of `m`, `x` in the others. -/
def Lanes.merge {α : Type} (m : Mask) (x y : Lanes α) : Lanes α :=
  ⟨if m.getLsbD 0 then y.l0 else x.l0, if m.getLsbD 1 then y.l1 else x.l1,
   if m.getLsbD 2 then y.l2 else x.l2, if m.getLsbD 3 then y.l3 else x.l3⟩

/-- The lane indices of a mask, ascending. -/
def Mask.lanes (m : Mask) : List Nat := (List.range 4).filter (fun i => m.getLsbD i)

/-- The mask of one lane. -/
def Mask.one (i : Nat) : Mask := BitVec.ofNat 4 (2 ^ i)

/-- The mask of the lanes for which `f` holds. -/
def Mask.ofFn (f : Nat → Bool) : Mask :=
  (if f 0 then 1 else 0) ||| (if f 1 then 2 else 0) ||| (if f 2 then 4 else 0) ||| (if f 3 then 8 else 0)

/-- A fixed number of like things, by index. -/
structure Bank (α : Type) (n : Nat) where
  cells : List α
  size : cells.length = n
  deriving DecidableEq, Repr

namespace Bank

variable {α β : Type} {n : Nat}

/-- The same thing at every index. -/
def all (n : Nat) (a : α) : Bank α n := ⟨List.replicate n a, List.length_replicate⟩

/-- The thing at an index, `a` where there is none. -/
def getD (b : Bank α n) (i : Nat) (a : α) : α := b.cells.getD i a

/-- One thing replaced. -/
def set (b : Bank α n) (i : Nat) (a : α) : Bank α n := ⟨b.cells.set i a, (List.length_set ..).trans b.size⟩

/-- One thing changed. -/
def modify (b : Bank α n) (i : Nat) (f : α → α) : Bank α n := ⟨b.cells.modify i f, (List.length_modify ..).trans b.size⟩

/-- Every thing changed. -/
def map (b : Bank α n) (f : α → β) : Bank β n := ⟨b.cells.map f, (List.length_map ..).trans b.size⟩

/-- Every thing changed by a function of its index. -/
def mapIdx (b : Bank α n) (f : Nat → α → β) : Bank β n := ⟨b.cells.mapIdx f, List.length_mapIdx.trans b.size⟩

/-- The things with their indices. -/
def zipIdx (b : Bank α n) : List (α × Nat) := b.cells.zipIdx

end Bank

end Sys2Proof
end

