-- ==== Sys2Proof/Machine/Number.lean ====
section
/-! DEFINITION. Exact numbers, the IEEE formats, rounding and the exception flags (R71 to R73, R78 to R81, R86, R97). -/

namespace Sys2Proof.Machine

/-- The six flags of `XF` in the bit order of R27. -/
abbrev Flags := BitVec 6

/-- Invalid operation. -/
def flagNV : Flags := 1
/-- Division by zero. -/
def flagDZ : Flags := 2
/-- Overflow. -/
def flagOF : Flags := 4
/-- Underflow. -/
def flagUF : Flags := 8
/-- Inexact. -/
def flagNX : Flags := 16
/-- A narrowing conversion under mode A saturated. -/
def flagSAT : Flags := 32

/-- `f` when `c` holds, no flag otherwise. -/
def flagIf (c : Bool) (f : Flags) : Flags := if c then f else 0

/-- The five rounding modes of R78 that name a rule of their own. -/
inductive Rounding where
  | rne | rtz | rdn | rup | rna
  deriving DecidableEq, Repr

/-- The mode of a code of R78; DYN and the reserved codes never reach here. -/
def Rounding.ofCode : Nat → Rounding
  | 0 => .rne
  | 1 => .rtz
  | 2 => .rdn
  | 3 => .rup
  | _ => .rna

/-- An exact value: a NaN (signalling or quiet), an infinity, or `±mag * 2^exp` (a zero keeps its sign). -/
inductive Num where
  | nan (signalling : Bool)
  | inf (neg : Bool)
  | fin (neg : Bool) (mag : Nat) (exp : Int)
  deriving DecidableEq, Repr

/-- The number of binary digits of `n`. -/
def bitLen (n : Nat) : Nat := if n = 0 then 0 else Nat.log2 n + 1

/-- `mag * 2^exp` as a whole number of `2^unit`, rounded by the sign-aware rule of R79, and whether that was inexact. -/
def roundUnit (rm : Rounding) (neg : Bool) (mag : Nat) (exp unit : Int) : Nat × Bool :=
  if unit ≤ exp then (mag * 2 ^ (exp - unit).toNat, false)
  else
    let k := min (unit - exp).toNat (bitLen mag + 2)
    let q := mag / 2 ^ k
    let r := mag % 2 ^ k
    let half := 2 ^ (k - 1)
    let up : Bool :=
      match rm with
      | .rne => decide (half < r) || (r == half && q % 2 == 1)
      | .rna => decide (half ≤ r)
      | .rtz => false
      | .rdn => neg && r != 0
      | .rup => !neg && r != 0
    (if up then q + 1 else q, r != 0)

/-- An IEEE format: exponent and fraction widths (R71). -/
structure FloatFmt where
  ebits : Nat
  mbits : Nat
  deriving DecidableEq, Repr

def fmtF16 : FloatFmt := ⟨5, 10⟩
def fmtBF16 : FloatFmt := ⟨8, 7⟩
def fmtF32 : FloatFmt := ⟨8, 23⟩
def fmtF64 : FloatFmt := ⟨11, 52⟩

/-- The exponent bias. -/
def FloatFmt.bias (F : FloatFmt) : Int := 2 ^ (F.ebits - 1) - 1
/-- Width in bits. -/
def FloatFmt.width (F : FloatFmt) : Nat := 1 + F.ebits + F.mbits
/-- The exponent of the unit in the last place of subnormals. -/
def FloatFmt.minUnit (F : FloatFmt) : Int := 1 - F.bias - F.mbits
/-- The canonical NaN (R71, R73). -/
def FloatFmt.canonNaN (F : FloatFmt) : Nat := (2 ^ F.ebits - 1) * 2 ^ F.mbits + 2 ^ (F.mbits - 1)
/-- The bits of an infinity. -/
def FloatFmt.infBits (F : FloatFmt) (neg : Bool) : Nat :=
  (if neg then 2 ^ (F.ebits + F.mbits) else 0) + (2 ^ F.ebits - 1) * 2 ^ F.mbits
/-- The bits of the largest finite value. -/
def FloatFmt.maxBits (F : FloatFmt) (neg : Bool) : Nat := F.infBits neg - 1

/-- The exact value that the low bits of `x` hold in format `F`. -/
def FloatFmt.decode (F : FloatFmt) (x : Nat) : Num :=
  let frac := x % 2 ^ F.mbits
  let e := x / 2 ^ F.mbits % 2 ^ F.ebits
  let neg := x / 2 ^ (F.ebits + F.mbits) % 2 == 1
  if e = 2 ^ F.ebits - 1 then
    if frac = 0 then .inf neg else .nan (decide (frac < 2 ^ (F.mbits - 1)))
  else if e = 0 then .fin neg frac F.minUnit
  else .fin neg (2 ^ F.mbits + frac) ((e : Int) - F.bias - F.mbits)

/-- The bits of a finite magnitude `n * 2^unit` that the format holds exactly. -/
def FloatFmt.packFinite (F : FloatFmt) (neg : Bool) (n : Nat) (unit : Int) : Nat :=
  let sign := if neg then 2 ^ (F.ebits + F.mbits) else 0
  if n < 2 ^ F.mbits then sign + n
  else if n = 2 ^ (F.mbits + 1) then
    sign + ((unit - F.minUnit + 2).toNat) * 2 ^ F.mbits
  else sign + ((unit - F.minUnit + 1).toNat) * 2 ^ F.mbits + (n - 2 ^ F.mbits)

/-- The value R81 delivers on overflow. -/
def FloatFmt.overflowBits (F : FloatFmt) (rm : Rounding) (neg : Bool) : Nat :=
  match rm with
  | .rne | .rna => F.infBits neg
  | .rtz => F.maxBits neg
  | .rdn => if neg then F.infBits true else F.maxBits false
  | .rup => if neg then F.maxBits true else F.infBits false

/-- The result of `round_fmt`: the delivered bits, the flags, and whether R81 applied. -/
structure Rounded where
  bits : Nat
  flags : Flags
  overflow : Bool
  deriving DecidableEq, Repr

/-- `round_fmt` of R97: an exact value delivered in format `F`, with OF, UF and NX (R72, R81). -/
def FloatFmt.round (F : FloatFmt) (rm : Rounding) : Num → Rounded
  | .nan _ => ⟨F.canonNaN, 0, false⟩
  | .inf neg => ⟨F.infBits neg, 0, false⟩
  | .fin neg mag exp =>
    if mag = 0 then ⟨if neg then 2 ^ (F.ebits + F.mbits) else 0, 0, false⟩
    else
      let top : Int := (bitLen mag : Int) - 1 + exp
      if top > F.bias then ⟨F.overflowBits rm neg, flagOF ||| flagNX, true⟩
      else
        let u : Int := top - F.mbits
        let y := roundUnit rm neg mag exp u
        if top = F.bias ∧ y.1 = 2 ^ (F.mbits + 1) then ⟨F.overflowBits rm neg, flagOF ||| flagNX, true⟩
        else
          let unit := max u F.minUnit
          let d := roundUnit rm neg mag exp unit
          let carried : Int := if y.1 = 2 ^ (F.mbits + 1) then top + 1 else top
          let tiny : Bool := decide (carried < 1 - F.bias)
          ⟨F.packFinite neg d.1 unit, flagIf d.2 flagNX ||| flagIf (d.2 && tiny) flagUF, false⟩

/-- A value and the flags raised in forming it. -/
structure Flagged where
  num : Num
  flags : Flags
  deriving DecidableEq, Repr

/-- NV of a signalling NaN operand (R73). -/
def Num.sigFlag : Num → Flags
  | .nan s => flagIf s flagNV
  | _ => 0

/-- The sign of a value; NaN counts as positive. -/
def Num.isNeg : Num → Bool
  | .nan _ => false
  | .inf n => n
  | .fin n _ _ => n

def Num.isNaN : Num → Bool
  | .nan _ => true
  | _ => false

def Num.isZero : Num → Bool
  | .fin _ m _ => m == 0
  | _ => false

def Num.isInf : Num → Bool
  | .inf _ => true
  | _ => false

/-- `-a`, sign only. -/
def Num.negate : Num → Num
  | .nan s => .nan s
  | .inf n => .inf (!n)
  | .fin n m e => .fin (!n) m e

/-- The magnitude, sign cleared. -/
def Num.abs : Num → Num
  | .nan s => .nan s
  | .inf _ => .inf false
  | .fin _ m e => .fin false m e

/-- An integer as a value (zero is +0). -/
def Num.ofInt (i : Int) : Num := .fin (decide (i < 0)) i.natAbs 0

/-- The exact product; NV for 0 times infinity and for a signalling operand (R73). -/
def Num.mul (a b : Num) : Flagged :=
  let f := a.sigFlag ||| b.sigFlag
  match a, b with
  | .nan _, _ => ⟨.nan false, f⟩
  | _, .nan _ => ⟨.nan false, f⟩
  | .inf n, .inf n' => ⟨.inf (n != n'), f⟩
  | .inf n, .fin n' m _ => if m = 0 then ⟨.nan false, f ||| flagNV⟩ else ⟨.inf (n != n'), f⟩
  | .fin n m _, .inf n' => if m = 0 then ⟨.nan false, f ||| flagNV⟩ else ⟨.inf (n != n'), f⟩
  | .fin n m e, .fin n' m' e' => ⟨.fin (n != n') (m * m') (e + e'), f⟩

/-- `±mag * 2^exp` as an integer number of `2^unit`, for `unit ≤ exp`. -/
def scaledInt (neg : Bool) (mag : Nat) (exp unit : Int) : Int :=
  let v : Int := (mag : Int) * 2 ^ (exp - unit).toNat
  if neg then -v else v

/-- The exact sum; a zero sum of operands of opposite sign is -0 under RDN alone (R79). -/
def Num.add (rm : Rounding) (a b : Num) : Flagged :=
  let f := a.sigFlag ||| b.sigFlag
  match a, b with
  | .nan _, _ => ⟨.nan false, f⟩
  | _, .nan _ => ⟨.nan false, f⟩
  | .inf n, .inf n' => if n = n' then ⟨.inf n, f⟩ else ⟨.nan false, f ||| flagNV⟩
  | .inf n, .fin _ _ _ => ⟨.inf n, f⟩
  | .fin _ _ _, .inf n => ⟨.inf n, f⟩
  | .fin n m e, .fin n' m' e' =>
    if m = 0 then
      if m' = 0 then ⟨.fin (if n = n' then n else rm == .rdn) 0 0, f⟩ else ⟨.fin n' m' e', f⟩
    else if m' = 0 then ⟨.fin n m e, f⟩
    else
      let u := min e e'
      let s := scaledInt n m e u + scaledInt n' m' e' u
      if s = 0 then ⟨.fin (rm == .rdn) 0 0, f⟩
      else ⟨.fin (decide (s < 0)) s.natAbs u, f⟩

/-- Terms added in the order given, the last two first. R79 states the sign of an exact zero sum for two operands; of three terms and more the model takes what its rule gives at each addition, -0 under RDN and +0 otherwise where signs are mixed (DESIGN CHOICE, log 93). -/
def Num.sumInOrder (rm : Rounding) : List Flagged → Flagged
  | [] => ⟨.fin false 0 0, 0⟩
  | [x] => x
  | x :: y :: rest =>
    let t := Num.sumInOrder rm (y :: rest)
    let s := Num.add rm x.num t.num
    ⟨s.num, x.flags ||| t.flags ||| s.flags⟩

/-- Whether terms hold both infinities. -/
def bothInfinities (xs : List Flagged) : Bool := xs.any (fun x => x.num == .inf false) && xs.any (fun x => x.num == .inf true)

/-- The exact sum of several values. The order of the terms moves no bit of it: a sum that holds both infinities is NaN with NV, wherever a NaN stands among them (R73, R86). -/
def Num.sum (rm : Rounding) (xs : List Flagged) : Flagged :=
  let t := Num.sumInOrder rm xs
  ⟨t.num, t.flags ||| flagIf (bothInfinities xs) flagNV⟩

/-- A positive real in the open interval `(q, q + 1) * 2^unit`, or `q * 2^unit` when exact, by a last odd digit. -/
def stickyMag (q : Nat) (exact : Bool) : Nat := 2 * q + (if exact then 0 else 1)

/-- The quotient of R113 and R114, carried far enough that one rounding of it is the rounding of the exact quotient. -/
def Num.div (a b : Num) : Flagged :=
  let f := a.sigFlag ||| b.sigFlag
  match a, b with
  | .nan _, _ => ⟨.nan false, f⟩
  | _, .nan _ => ⟨.nan false, f⟩
  | .inf _, .inf _ => ⟨.nan false, f ||| flagNV⟩
  | .inf n, .fin n' _ _ => ⟨.inf (n != n'), f⟩
  | .fin n _ _, .inf n' => ⟨.fin (n != n') 0 0, f⟩
  | .fin n m e, .fin n' m' e' =>
    if m' = 0 then
      if m = 0 then ⟨.nan false, f ||| flagNV⟩ else ⟨.inf (n != n'), f ||| flagDZ⟩
    else if m = 0 then ⟨.fin (n != n') 0 0, f⟩
    else
      let k := bitLen m' + 128
      let q := m * 2 ^ k / m'
      let r := m * 2 ^ k % m'
      ⟨.fin (n != n') (stickyMag q (r == 0)) (e - e' - k - 1), f⟩

/-- One binary digit of an integer square root, from the high end. -/
def isqrtStep (x : Nat) : Nat → Nat → Nat
  | 0, r => r
  | i + 1, r => isqrtStep x i (if (r + 2 ^ i) * (r + 2 ^ i) ≤ x then r + 2 ^ i else r)

/-- The integer square root, rounded down. -/
def isqrt (x : Nat) : Nat := isqrtStep x (bitLen x / 2 + 1) 0

/-- The square root of R113 and R114, carried as `Num.div` carries its quotient. -/
def Num.sqrt (a : Num) : Flagged :=
  match a with
  | .nan s => ⟨.nan false, flagIf s flagNV⟩
  | .inf n => if n then ⟨.nan false, flagNV⟩ else ⟨.inf false, 0⟩
  | .fin n m e =>
    if m = 0 then ⟨.fin n 0 0, 0⟩
    else if n then ⟨.nan false, flagNV⟩
    else
      let odd := e % 2
      let x := m * 2 ^ (odd.toNat + 256)
      let q := isqrt x
      ⟨.fin false (stickyMag q (q * q == x)) ((e - odd) / 2 - 128 - 1), 0⟩

/-- The reciprocal square root of R113 and R114: the root of the reciprocal, formed from one integer root. -/
def Num.rsqrt (a : Num) : Flagged :=
  match a with
  | .nan s => ⟨.nan false, flagIf s flagNV⟩
  | .inf n => if n then ⟨.nan false, flagNV⟩ else ⟨.fin false 0 0, 0⟩
  | .fin n m e =>
    if m = 0 then ⟨.inf n, flagDZ⟩
    else if n then ⟨.nan false, flagNV⟩
    else
      -- 1/sqrt(m * 2^e) = sqrt(2^(2k) / m') / 2^k * 2^(-h) with m' = m * 2^(e mod 2)
      let odd := e % 2
      let m' := m * 2 ^ odd.toNat
      let k := bitLen m' + 128
      let q := isqrt (2 ^ (2 * k) / m')
      ⟨.fin false (stickyMag q (q * q * m' == 2 ^ (2 * k))) (-((e - odd) / 2) - k - 1), 0⟩

/-- `a * 2^b` (FSCALE, R114). -/
def Num.scale (a : Num) (b : Int) : Flagged :=
  match a with
  | .nan s => ⟨.nan false, flagIf s flagNV⟩
  | .inf n => ⟨.inf n, 0⟩
  | .fin n m e => ⟨.fin n m (e + b), 0⟩

/-- The value rounded to an integer (FRND, R113, R114), with NX when that moved it. -/
def Num.integral (rm : Rounding) (a : Num) : Flagged :=
  match a with
  | .nan s => ⟨.nan false, flagIf s flagNV⟩
  | .inf n => ⟨.inf n, 0⟩
  | .fin n m e =>
    let r := roundUnit rm n m e 0
    if r.2 then ⟨.fin n r.1 0, flagNX⟩ else ⟨.fin n m e, 0⟩

/-- The order of two values that are not NaN, with -0 equal to +0. -/
def Num.cmp (a b : Num) : Ordering :=
  match a, b with
  | .inf n, .inf n' => if n = n' then .eq else if n then .lt else .gt
  | .inf n, _ => if n then .lt else .gt
  | _, .inf n => if n then .gt else .lt
  | .fin n m e, .fin n' m' e' =>
    let u := min e e'
    compare (scaledInt n m e u) (scaledInt n' m' e' u)
  | _, _ => .eq

/-- `a < b` in the order of FMIN and FMAX, where -0 is less than +0 (R115). -/
def Num.ltSigned (a b : Num) : Bool :=
  match a.cmp b with
  | .lt => true
  | .gt => false
  | .eq => a.isNeg && !b.isNeg

/-- Whether `|a| < 2^k`. -/
def Num.absLtPow (a : Num) (k : Int) : Bool :=
  match a with
  | .fin _ m e => m == 0 || decide ((bitLen m : Int) + e ≤ k)
  | _ => false

end Sys2Proof.Machine
end

