-- ==== Sys2Proof/Machine/Convert.lean ====
section
/-! DEFINITION. Format codes, conversions between formats, saturation, the Darro policy and BX blocks (R67 to R69, R74 to R77, R79, R82 to R85, R117). -/

namespace Sys2Proof.Machine

/-- The IEEE format of a format code of R67, when it names one. -/
def floatOfCode : Nat → Option FloatFmt
  | 8 => some fmtF16
  | 9 => some fmtBF16
  | 10 => some fmtF32
  | 11 => some fmtF64
  | _ => none

/-- The width in bits of a scalar format code of R67; 0 for the block and reserved codes. -/
def codeWidth : Nat → Nat
  | 0 | 4 => 8
  | 1 | 5 | 8 | 9 => 16
  | 2 | 6 | 10 => 32
  | 3 | 7 | 11 => 64
  | _ => 0

/-- Whether a format code names a signed integer (R67). -/
def codeSigned (c : Nat) : Bool := decide (c ≤ 3)

/-- Whether a format code names an integer (R67). -/
def codeIsInt (c : Nat) : Bool := decide (c ≤ 7)

/-- The fraction width m of a BX format code of R67. -/
def bxBits : Nat → Nat
  | 12 => 2
  | 13 => 4
  | 14 => 7
  | _ => 0

/-- The signed value of the low `w` bits of `x`. -/
def signedOf (w x : Nat) : Int :=
  let v := x % 2 ^ w
  if 2 ^ w ≤ 2 * v then (v : Int) - (2 : Int) ^ w else (v : Int)

/-- The low `w` bits of an integer. -/
def wrapInt (w : Nat) (i : Int) : Nat := (i % (2 : Int) ^ w).toNat

/-- The exact value held in a register operand under a scalar format code (R69, R71). -/
def decodeCode (c x : Nat) : Num :=
  match floatOfCode c with
  | some F => F.decode x
  | none => if codeSigned c then Num.ofInt (signedOf (codeWidth c) x) else Num.ofInt ((x % 2 ^ codeWidth c : Nat) : Int)

/-- How a conversion treats values out of range (R82, R83): the saturation mode, or the policy of an OVF prefix. -/
structure Saturation where
  /-- `FMT`.SATM is 1: mode B. -/
  modeB : Bool
  /-- The Darro policy, when an OVF prefix is present. -/
  policy : Option Nat
  deriving DecidableEq, Repr

/-- A converted element: its bits, its flags, and whether it met the case of R83 under the trapping policy. -/
structure Converted where
  bits : Nat
  flags : Flags
  met : Bool
  deriving DecidableEq, Repr

/-- The smallest and largest values of an integer format. -/
def intRange (signed : Bool) (w : Nat) : Int × Int :=
  if signed then (-(2 : Int) ^ (w - 1), (2 : Int) ^ (w - 1) - 1) else (0, (2 : Int) ^ w - 1)

/-- A saturated integer (R82), with the flags of mode A. -/
def saturateInt (signed : Bool) (w : Nat) (neg modeB : Bool) : Converted :=
  let r := intRange signed w
  ⟨wrapInt w (if neg then r.1 else r.2), if modeB then 0 else flagSAT ||| flagNX, false⟩

/-- Conversion of an exact value into an integer format (R79, R82, R117). -/
def toIntFmt (signed : Bool) (w : Nat) (rm : Rounding) (modeB : Bool) : Num → Converted
  | .nan _ => ⟨0, if modeB then 0 else flagNV, false⟩
  | .inf neg => saturateInt signed w neg modeB
  | .fin neg mag exp =>
    let r := roundUnit rm neg mag exp 0
    let v : Int := if neg then -(r.1 : Int) else (r.1 : Int)
    let range := intRange signed w
    if range.1 ≤ v ∧ v ≤ range.2 then ⟨wrapInt w v, flagIf r.2 flagNX, false⟩
    else saturateInt signed w neg modeB

/-- Conversion of an exact value into an IEEE format, under the policy of an OVF prefix when there is one (R81, R83). -/
def toFloatFmt (F : FloatFmt) (rm : Rounding) (sat : Saturation) (v : Num) : Converted :=
  let r := F.round rm v
  let sig := v.sigFlag
  match r.overflow, sat.policy with
  | true, some 0 => ⟨F.maxBits v.isNeg, flagOF ||| flagNX, false⟩
  | true, some 1 => ⟨F.infBits v.isNeg, flagOF ||| flagNX, false⟩
  | true, some 2 => ⟨F.canonNaN, flagNV, false⟩
  | true, some _ => ⟨r.bits, 0, true⟩
  | _, _ => ⟨r.bits, sig ||| r.flags, false⟩

/-- Conversion of an exact value into a scalar format code (R117, R118). -/
def toCode (c : Nat) (rm : Rounding) (sat : Saturation) (v : Num) : Converted :=
  match floatOfCode c with
  | some F => toFloatFmt F rm sat v
  | none => toIntFmt (codeSigned c) (codeWidth c) rm sat.modeB v

/-- The value of a scalar format as it stands in a register: signed narrow integers extend their sign (R69). -/
def extendCode (c x : Nat) : Nat :=
  if codeSigned c && decide (codeWidth c < 32) then wrapInt 32 (signedOf (codeWidth c) x) else x % 2 ^ codeWidth c

/-- The value of element `i` of a BX block held as its bits (R74, R75). -/
def bxElement (m block i : Nat) : Num :=
  let e := block % 256
  if e = 255 then .nan false
  else
    let lam := block / 2 ^ (8 + 2 * (i / 4)) % 4
    let el := block / 2 ^ (16 + i * (m + 1)) % 2 ^ (m + 1)
    .fin (el / 2 ^ m == 1) (el % 2 ^ m) ((e : Int) - 127 - lam - m)

/-- The floor of log2 of a finite nonzero magnitude, and 254 for an infinity, which E is clipped below. -/
def bxLog : Num → Option Int
  | .nan _ => none
  | .inf _ => some 254
  | .fin _ m e => if m = 0 then none else some ((bitLen m : Int) - 1 + e)

/-- The larger of two optional logarithms. -/
def maxLog : Option Int → Option Int → Option Int
  | some a, some b => some (max a b)
  | some a, none => some a
  | none, b => b

/-- The shared exponent of `bx_encode`, when some value is not zero. -/
def bxExponent (xs : List Num) : Option Nat :=
  match (xs.map bxLog).foldl maxLog none with
  | none => none
  | some l => some (max 0 (min 254 (l + 128))).toNat

/-- The quad shift of `bx_encode`. -/
def bxShift (e : Nat) (quad : List Num) : Nat :=
  let fits (t : Nat) : Bool := quad.all (fun q => q.absLtPow ((e : Int) - 127 - t))
  if fits 3 then 3 else if fits 2 then 2 else if fits 1 then 1 else 0

/-- One element of `bx_encode` that is inside the BX range. -/
def bxRound (m : Nat) (rm : Rounding) (e lam : Nat) (x : Num) : Converted :=
  match x with
  | .fin neg mag exp =>
    let unit : Int := (e : Int) - 127 - lam - m
    let r := roundUnit rm neg mag exp unit
    let f := if r.1 = 2 ^ m then 2 ^ m - 1 else r.1
    let inexact := r.2 || r.1 == 2 ^ m
    ⟨(if neg then 2 ^ m else 0) + f, flagIf inexact flagNX ||| flagIf (f == 0 && mag != 0) flagUF, false⟩
  | _ => ⟨0, 0, false⟩

/-- The NaN block of R75 and R76. -/
def bxNaNBlock : Nat := 255

/-- Whether a value lies beyond the BX range: a magnitude of 2^127 or more, or an infinity (R76, R82). -/
def bxBeyond (x : Num) : Bool := !x.isNaN && !x.absLtPow 127

/-- The bits of a block assembled from its exponent, quad shifts and elements, element `i` first in the list from `i`. -/
def bxElements (m : Nat) : Nat → List Converted → Nat
  | _, [] => 0
  | i, c :: cs => c.bits * 2 ^ (16 + i * (m + 1)) + bxElements m (i + 1) cs

/-- `bx_encode` of R76 with `bx_overflow` of R82 or, under an OVF prefix, R83; mode B is silent on a NaN (R82), a policy is not (R83). -/
def bxEncode (m : Nat) (rm : Rounding) (sat : Saturation) (xs : List Num) : Converted :=
  if xs.any Num.isNaN then ⟨bxNaNBlock, if sat.policy.isNone && sat.modeB then 0 else (xs.map Num.sigFlag).foldl (· ||| ·) 0, false⟩
  else
    match bxExponent xs with
    | none => ⟨bxElements m 0 (xs.map (fun x => ⟨if x.isNeg then 2 ^ m else 0, 0, false⟩)), 0, false⟩
    | some e =>
      let beyond := xs.any bxBeyond
      match beyond, sat.policy with
      | true, some 1 => ⟨bxNaNBlock, flagOF ||| flagNX, false⟩
      | true, some 2 => ⟨bxNaNBlock, flagNV, false⟩
      | true, some 3 => ⟨bxNaNBlock, 0, true⟩
      | _, _ =>
        let lam (j : Nat) : Nat := bxShift e ((xs.drop (4 * j)).take 4)
        let excess : Flags :=
          match sat.policy with
          | some _ => flagOF ||| flagNX
          | none => if sat.modeB then 0 else flagSAT ||| flagNX
        let els := (List.range 16).map (fun i =>
          let x := xs.getD i (.fin false 0 0)
          if bxBeyond x then ⟨(if x.isNeg then 2 ^ m else 0) + (2 ^ m - 1), excess, false⟩
          else bxRound m rm e (lam (i / 4)) x)
        ⟨e + lam 0 * 2 ^ 8 + lam 1 * 2 ^ 10 + lam 2 * 2 ^ 12 + lam 3 * 2 ^ 14 + bxElements m 0 els,
          (els.map Converted.flags).foldl (· ||| ·) 0, false⟩

/-- Bytes of one BX block (R74). -/
def bxBytes (m : Nat) : Nat := 2 + 2 * (m + 1)

/-- Alignment in bytes of a BX block (R74). -/
def bxAlign : Nat → Nat
  | 2 => 8
  | 4 => 4
  | _ => 2

end Sys2Proof.Machine
end

