-- ==== Sys2Proof/Syntax.lean ====
section
/-! DEFINITION. The instruction set as data: words cut into their fields, prefixes, and the device's events with their parameters (R39 to R58, opcode table). -/

namespace Sys2Proof

/-- The five assigned prefix kinds of R50. -/
inductive PrefixKind where
  | rnd | ovf | xi | scp | spc
  deriving DecidableEq, Repr

/-- A prefix word: its kind and bits [31:5] (R50). -/
structure Prefix where
  kind : PrefixKind
  val : BitVec 27
  deriving DecidableEq, Repr

/-- The fields of a W-form instruction but for its opcode and kind (R45). -/
structure WForm where
  mod : BitVec 14
  nf : Bool
  etc : Bool
  etb : Bool
  eta : Bool
  c : BitVec 8
  b : BitVec 8
  a : BitVec 8
  d : BitVec 8
  neg : Bool
  pred : BitVec 3
  deriving DecidableEq, Repr

/-- The fields of a C-form instruction but for its opcode and kind (R43). -/
structure CForm where
  b : BitVec 6
  a : BitVec 8
  d : BitVec 8
  deriving DecidableEq, Repr

/-- The words of an instruction group that decodes to no instruction: its prefix words and its last word, one or two words wide. -/
structure RawGroup where
  prefixes : List Word
  wide : Bool
  word : BitVec 64
  deriving DecidableEq, Repr

/-- A slice place: the group that holds it and its slice index in the group. -/
structure SliceRef where
  gid : Nat
  idx : Nat
  deriving DecidableEq, Repr

/-- A core: its die and its index in the die. -/
structure CoreRef where
  die : Nat
  core : Nat
  deriving DecidableEq, Repr

/-- Page permissions and capability (R381). -/
structure Perm where
  r : Bool
  w : Bool
  x : Bool
  fe : Bool
  deriving DecidableEq, Repr

/-- Where a migratable page lives (R390). -/
inductive PageHome where
  | unpop | dev | host | moving
  deriving DecidableEq, Repr

/-- A MAP command: one page, its size code, frame and attributes, the first state of a migratable page, and whether its tag shadow starts empty (R379, R381, R390, R394). -/
structure MapCommand where
  va : Dword
  size : Nat
  frame : Nat
  perm : Perm
  mig : Bool
  home : PageHome
  emptyShadow : Bool
  deriving DecidableEq, Repr

/-- One valid entry of the region table (R396); `base` in GiB, `size` in GiB minus 1. -/
structure RegionEntry where
  kind : Nat
  stackMask : BitVec 16
  hdie : Nat
  port : Nat
  sofs : Nat
  size : Nat
  base : Nat
  deriving DecidableEq, Repr

/-- A request to a base die: its stack, requester port, tag, generation and stack line address; the byte mask of a masked write; and the data and full/empty bits that a write brings (R400). -/
structure BaseRequest where
  stack : Nat
  port : Nat
  tag : Nat
  gen : Nat
  line : Nat
  mask : BitVec 128
  data : List Byte
  marks : BitVec 16
  deriving DecidableEq, Repr

/-- The key of a level object: its level code and the ids it uses (R360). -/
structure LevelKey where
  level : Nat
  job : Nat
  phase : Nat
  graph : Nat
  launch : Nat
  deriving DecidableEq, Repr

/-- A partition-create command (R373): its dies, queue-area capacity in records, and the GiB of device memory for its tables. -/
structure PartitionCommand where
  num : Nat
  dies : BitVec 8
  queueCap : Nat
  table : Nat
  deriving DecidableEq, Repr

/-- A fabric peer entry (R447). -/
structure PeerEntry where
  valid : Bool
  package : Nat
  part : Nat
  job : Nat
  deriving DecidableEq, Repr

/-- An entry of a structure under parity, which holds a copy of what another place holds: a line of the L1, a translation, a table entry of a walk cache, a panel, a stage, or the coupling store (R412). -/
inductive ParityEntry where
  | l1 (c : CoreRef) (line : Nat)
  | tlb (c : CoreRef) (part vpage : Nat)
  | walk (part entry : Nat)
  | panel (c : CoreRef) (start : Nat)
  | stage (c : CoreRef) (x : Nat)
  | store (c : CoreRef)
  deriving DecidableEq, Repr

/-- Where an uncorrectable error strikes (R412, R416). -/
inductive ErrorSite where
  | memory (pa : Nat)
  | scr (gid offset : Nat)
  | cls (die cluster offset : Nat)
  | chp (die offset : Nat)
  | laneStore (r : SliceRef) (lane offset : Nat)
  | register (r : SliceRef) (spec lane : Nat)
  | tile (c : CoreRef) (tile row col : Nat)
  | coins (c : CoreRef) (coinGroup : Nat)
  | parity (e : ParityEntry)
  | sliceControl (r : SliceRef)
  | coreShared (c : CoreRef)
  | dieShared (die : Nat)
  | controlDie
  deriving DecidableEq, Repr

/-- What the hardware tests of one boot find (R419): compute dies that pass, whether HBM, UCIe and the region table come up, which ports train, and the host ranges they announce. -/
structure BootOutcome where
  dies : BitVec 8
  hbm : Bool
  ucie : Bool
  region : Bool
  ports : BitVec 2
  hostRanges : List RegionEntry
  deriving DecidableEq, Repr, Inhabited

/-- A flit as a link receiver sees it: its sequence number and whether its CRC holds (R448). -/
structure Flit where
  seq : Nat
  crcOk : Bool
  ack : Nat
  deriving DecidableEq, Repr

/-- One route: the paths toward a package, each the links that it takes, by package and number, from the source on (R451). -/
structure RouteEntry where
  package : Nat
  paths : List (List (Nat × Nat))
  deriving DecidableEq, Repr

/-- A job-level barrier arrival of a group carried to the coordinator (R459). -/
structure JobArrival where
  package : Nat
  part : Nat
  job : Nat
  id : Nat
  expected : Nat
  gid : Nat
  deriving DecidableEq, Repr

/-- What a fabric packet carries (R451, R455, R459). -/
inductive Payload where
  /-- bytes of a `PUTS` for a virtual address of the peer partition, with the poison mark of each -/
  | write (part : Nat) (va : Dword) (data : List Byte) (marks : List Bool)
  /-- the signal of a `PUTS`: the counter and what is subtracted -/
  | signal (part : Nat) (va : Dword) (n : Nat)
  /-- the read of one lane of a `GETR` -/
  | read (part : Nat) (va : Dword) (bytes : Nat) (r : SliceRef) (lane tag : Nat)
  /-- the answer to a read: the bytes and their poison mark, or a failure -/
  | reply (r : SliceRef) (lane tag : Nat) (data : List Byte) (poison : Bool) (ok : Bool)
  | barrier (m : JobArrival)
  /-- the coordinator's answer to groups of the package: a completed generation, or code 6 -/
  | barrierDone (gids : List Nat) (misuse : Bool)
  deriving DecidableEq, Repr

/-- A fabric packet (R451, R452). -/
structure Packet where
  src : Nat
  dst : Nat
  seq : Nat
  ordered : Bool
  payload : Payload
  deriving DecidableEq, Repr

/-- The instruction set and the device's events: one constructor for each row of the opcode table.
W-form constructors carry the prefixes of their group and the fields of R45, C-form ones the fields of R43;
events carry what selects their occurrence. -/
inductive Instr where
  /-- R98. Compact no-operation that only advances the PC. -/
  | nopC (p : List Prefix) (w : CForm)
  /-- R98. Wide no-operation that only advances the PC. -/
  | nop (p : List Prefix) (w : WForm)
  /-- R99. Compact move of operand a to d without interpreting bits. -/
  | movC (p : List Prefix) (w : CForm)
  /-- R99. Wide move of a 32- or 64-bit operand to d. -/
  | mov (p : List Prefix) (w : WForm)
  /-- R99. Per-lane selection between a and b under a mask register. -/
  | sel (p : List Prefix) (w : WForm)
  /-- R100. Compact integer add modulo 2^32. -/
  | iaddC (p : List Prefix) (w : CForm)
  /-- R100. Integer add modulo 2^w. -/
  | iadd (p : List Prefix) (w : WForm)
  /-- R100. Compact integer subtract. -/
  | isubC (p : List Prefix) (w : CForm)
  /-- R100. Integer subtract modulo 2^w. -/
  | isub (p : List Prefix) (w : WForm)
  /-- R100. Compact integer multiply, low bits. -/
  | imulC (p : List Prefix) (w : CForm)
  /-- R100. Integer multiply, low w bits. -/
  | imul (p : List Prefix) (w : WForm)
  /-- R100. High half of the exact integer product. -/
  | imulh (p : List Prefix) (w : WForm)
  /-- R100. Integer multiply-add, low w bits. -/
  | imad (p : List Prefix) (w : WForm)
  /-- R100. Integer divide truncated toward zero. -/
  | idiv (p : List Prefix) (w : WForm)
  /-- R100. Integer remainder with the dividend's sign. -/
  | irem (p : List Prefix) (w : WForm)
  /-- R100. Compact integer minimum. -/
  | iminC (p : List Prefix) (w : CForm)
  /-- R100. Integer minimum, signed or unsigned. -/
  | imin (p : List Prefix) (w : WForm)
  /-- R100. Compact integer maximum. -/
  | imaxC (p : List Prefix) (w : CForm)
  /-- R100. Integer maximum, signed or unsigned. -/
  | imax (p : List Prefix) (w : WForm)
  /-- R100. Integer absolute value. -/
  | iabs (p : List Prefix) (w : WForm)
  /-- R104. Integer compare into a mask register, optionally combined. -/
  | icmp (p : List Prefix) (w : WForm)
  /-- R105. Compact bitwise AND. -/
  | andC (p : List Prefix) (w : CForm)
  /-- R105. Bitwise AND. -/
  | and (p : List Prefix) (w : WForm)
  /-- R105. Compact bitwise OR. -/
  | orC (p : List Prefix) (w : CForm)
  /-- R105. Bitwise OR. -/
  | or (p : List Prefix) (w : WForm)
  /-- R105. Compact bitwise XOR. -/
  | xorC (p : List Prefix) (w : CForm)
  /-- R105. Bitwise XOR. -/
  | xor (p : List Prefix) (w : WForm)
  /-- R105. Compact bitwise complement. -/
  | notC (p : List Prefix) (w : CForm)
  /-- R105. Bitwise complement. -/
  | not (p : List Prefix) (w : WForm)
  /-- R105. Compact shift left. -/
  | shlC (p : List Prefix) (w : CForm)
  /-- R105. Shift left, zero when the amount reaches the width. -/
  | shl (p : List Prefix) (w : WForm)
  /-- R105. Compact logical shift right. -/
  | shrC (p : List Prefix) (w : CForm)
  /-- R105. Logical shift right with zero fill. -/
  | shr (p : List Prefix) (w : WForm)
  /-- R105. Compact arithmetic shift right. -/
  | sarC (p : List Prefix) (w : CForm)
  /-- R105. Arithmetic shift right with sign fill. -/
  | sar (p : List Prefix) (w : WForm)
  /-- R105. Rotate left by b mod w. -/
  | rot (p : List Prefix) (w : WForm)
  /-- R106. Bit-field extract under a position/length descriptor. -/
  | bfx (p : List Prefix) (w : WForm)
  /-- R106. Bit-field insert under a descriptor. -/
  | bfi (p : List Prefix) (w : WForm)
  /-- R107. Population count. -/
  | popc (p : List Prefix) (w : WForm)
  /-- R107. Count leading zeros. -/
  | clz (p : List Prefix) (w : WForm)
  /-- R107. Bit reversal. -/
  | brev (p : List Prefix) (w : WForm)
  /-- R103. Forms a 64-bit address from base and scaled index. -/
  | lea (p : List Prefix) (w : WForm)
  /-- R110. Exchanges values between present lanes of the gang. -/
  | lxch (p : List Prefix) (w : WForm)
  /-- R111. Gang vote into an s register. -/
  | poll (p : List Prefix) (w : WForm)
  /-- R112. Gang reduction on the fixed binary tree. -/
  | gfold (p : List Prefix) (w : WForm)
  /-- R108. Byte permutation of a pair under a selector. -/
  | bperm (p : List Prefix) (w : WForm)
  /-- R113. Compact f32 add rounded once. -/
  | faddC (p : List Prefix) (w : CForm)
  /-- R113. Floating add rounded once. -/
  | fadd (p : List Prefix) (w : WForm)
  /-- R113. Compact f32 subtract. -/
  | fsubC (p : List Prefix) (w : CForm)
  /-- R113. Floating subtract rounded once. -/
  | fsub (p : List Prefix) (w : WForm)
  /-- R113. Compact f32 multiply. -/
  | fmulC (p : List Prefix) (w : CForm)
  /-- R113. Floating multiply rounded once. -/
  | fmul (p : List Prefix) (w : WForm)
  /-- R113. Fused multiply-add with one rounding. -/
  | ffma (p : List Prefix) (w : WForm)
  /-- R115. Compact f32 minimum. -/
  | fminC (p : List Prefix) (w : CForm)
  /-- R115. Floating minimum with NaN rules. -/
  | fmin (p : List Prefix) (w : WForm)
  /-- R115. Compact f32 maximum. -/
  | fmaxC (p : List Prefix) (w : CForm)
  /-- R115. Floating maximum with NaN rules. -/
  | fmax (p : List Prefix) (w : WForm)
  /-- R113. Floating divide rounded once. -/
  | fdiv (p : List Prefix) (w : WForm)
  /-- R113. Floating square root. -/
  | fsqrt (p : List Prefix) (w : WForm)
  /-- R113. Floating reciprocal. -/
  | frcp (p : List Prefix) (w : WForm)
  /-- R113. Floating reciprocal square root. -/
  | frsq (p : List Prefix) (w : WForm)
  /-- R113. f32 base-2 exponential. -/
  | fexp2 (p : List Prefix) (w : WForm)
  /-- R113. f32 base-2 logarithm. -/
  | flog2 (p : List Prefix) (w : WForm)
  /-- R113. f32 sin(pi*a). -/
  | fsin (p : List Prefix) (w : WForm)
  /-- R113. f32 cos(pi*a). -/
  | fcos (p : List Prefix) (w : WForm)
  /-- R104. Floating compare into a mask register. -/
  | fcmp (p : List Prefix) (w : WForm)
  /-- R116. Classifies a floating value into one bit. -/
  | fclass (p : List Prefix) (w : WForm)
  /-- R117. Converts between integer and IEEE formats. -/
  | cvt (p : List Prefix) (w : WForm)
  /-- R118. Narrowing conversion with packing and Darro policy. -/
  | cvtn (p : List Prefix) (w : WForm)
  /-- R119. Packs 16 registers into one BX block. -/
  | packbx (p : List Prefix) (w : WForm)
  /-- R119. Unpacks one BX block into 16 registers. -/
  | unpkbx (p : List Prefix) (w : WForm)
  /-- R113. Rounds to an integral value in the same format. -/
  | frnd (p : List Prefix) (w : WForm)
  /-- R113. Multiplies by 2^b. -/
  | fscale (p : List Prefix) (w : WForm)
  /-- R120. Two-element half-precision dot product into f32. -/
  | fdot2 (p : List Prefix) (w : WForm)
  /-- R120. Four-element half-precision dot product into f32. -/
  | fdot4 (p : List Prefix) (w : WForm)
  /-- R120. Four-element byte dot product into 32 bits. -/
  | idot4 (p : List Prefix) (w : WForm)
  /-- R122. Seeds the lane random state from a key and lane number. -/
  | rsplit (p : List Prefix) (w : WForm)
  /-- R122. Steps the xorshift state and returns bits. -/
  | rnext (p : List Prefix) (w : WForm)
  /-- R122. Steps the state and returns a uniform f32. -/
  | runif (p : List Prefix) (w : WForm)
  /-- R102. Add or subtract with carry in a mask register. -/
  | iaddx (p : List Prefix) (w : WForm)
  /-- R125. Relative branch of the whole slice. -/
  | bra (p : List Prefix) (w : WForm)
  /-- R125. Indirect branch through an s pair. -/
  | brx (p : List Prefix) (w : WForm)
  /-- R126. Conditional branch of the slice or gang on a mask test. -/
  | cbr (p : List Prefix) (w : WForm)
  /-- R125. Call with link in an s pair. -/
  | call (p : List Prefix) (w : WForm)
  /-- R125. Return through an s pair or XPC. -/
  | ret (p : List Prefix) (w : WForm)
  /-- R128. Divides active lanes into two paths and pushes mask-stack entries. -/
  | split (p : List Prefix) (w : WForm)
  /-- R129. Compact end of a divergent path, popping the mask stack. -/
  | joinC (p : List Prefix) (w : CForm)
  /-- R129. Ends a divergent path, popping the mask stack. -/
  | join (p : List Prefix) (w : WForm)
  /-- R127. Decrements a counter and branches while nonzero. -/
  | loop (p : List Prefix) (w : WForm)
  /-- R134. Divides the subgang into one subgang per slice. -/
  | part (p : List Prefix) (w : WForm)
  /-- R135. Gang barrier that rejoins the gang. -/
  | regang (p : List Prefix) (w : WForm)
  /-- R136. Names one lane of the slice or gang. -/
  | elect (p : List Prefix) (w : WForm)
  /-- R131. Compact retirement of the active lanes. -/
  | exitC (p : List Prefix) (w : CForm)
  /-- R131. Retires the lanes of the effective mask. -/
  | exit (p : List Prefix) (w : WForm)
  /-- R144. Software trap with a code. -/
  | trap (p : List Prefix) (w : WForm)
  /-- R144. Breakpoint trap with a code. -/
  | bkpt (p : List Prefix) (w : WForm)
  /-- R138. Reads a special register. -/
  | srd (p : List Prefix) (w : WForm)
  /-- R138. Writes a special register. -/
  | swr (p : List Prefix) (w : WForm)
  /-- R139. Writes chosen fields of FMT. -/
  | setfmt (p : List Prefix) (w : WForm)
  /-- R147. Opens an idempotent region. -/
  | region (p : List Prefix) (w : WForm)
  /-- R140. Compact end of the gang's issue run. -/
  | yieldC (p : List Prefix) (w : CForm)
  /-- R140. Ends the gang's current issue run. -/
  | yield (p : List Prefix) (w : WForm)
  /-- R192. Declares the gang's lease, optionally requesting reactivation. -/
  | lease (p : List Prefix) (w : WForm)
  /-- R193. Queries lease headroom, effective lease, counts or fit. -/
  | leaseq (p : List Prefix) (w : WForm)
  /-- R157. Per-lane plain load. -/
  | ld (p : List Prefix) (w : WForm)
  /-- R157. Per-lane plain store. -/
  | st (p : List Prefix) (w : WForm)
  /-- R164. Load that waits for a full word. -/
  | ldw (p : List Prefix) (w : WForm)
  /-- R164. Load that waits for full and empties the word. -/
  | ldc (p : List Prefix) (w : WForm)
  /-- R164. Store that waits for empty and fills the word. -/
  | stf (p : List Prefix) (w : WForm)
  /-- R164. Reads a word's full/empty bit. -/
  | feq (p : List Prefix) (w : WForm)
  /-- R164. Sets a word's full/empty bit. -/
  | feset (p : List Prefix) (w : WForm)
  /-- R162. Binds a translation window. -/
  | bwin (p : List Prefix) (w : WForm)
  /-- R162. Invalidates one or all windows. -/
  | bwrel (p : List Prefix) (w : WForm)
  /-- R175. Prefetches lines into a cache level. -/
  | pref (p : List Prefix) (w : WForm)
  /-- R176. Orders the slice's accesses at a scope. -/
  | fence (p : List Prefix) (w : WForm)
  /-- R157. Scalar load of one uniform address. -/
  | lds (p : List Prefix) (w : WForm)
  /-- R224. Posts a linear, 2D or converting copy. -/
  | cpy (p : List Prefix) (w : WForm)
  /-- R224. Posts a gather copy under an index list. -/
  | cpyg (p : List Prefix) (w : WForm)
  /-- R225. Posts a reducing copy into glb. -/
  | cpyr (p : List Prefix) (w : WForm)
  /-- R230. Seals the slice's current copy batch. -/
  | cseal (p : List Prefix) (w : WForm)
  /-- R230. Waits until at most N sealed copy batches are unfinished. -/
  | cwait (p : List Prefix) (w : WForm)
  /-- R212. Initialises a group queue. -/
  | qinit (p : List Prefix) (w : WForm)
  /-- R213. Pushes an entry, waiting for allowance. -/
  | qpush (p : List Prefix) (w : WForm)
  /-- R213. Pops an entry, waiting for a grant. -/
  | qpop (p : List Prefix) (w : WForm)
  /-- R214. Reads the head entry without waiting. -/
  | qpeek (p : List Prefix) (w : WForm)
  /-- R216. Resets a byte-counting barrier. -/
  | binit (p : List Prefix) (w : WForm)
  /-- R217. Posts a phase's expected byte count. -/
  | bexp (p : List Prefix) (w : WForm)
  /-- R217. Makes an arrival of bytes on a barrier phase. -/
  | barv (p : List Prefix) (w : WForm)
  /-- R218. Waits for a barrier phase to complete. -/
  | bwait (p : List Prefix) (w : WForm)
  /-- R221. Compact group barrier. -/
  | gsyncC (p : List Prefix) (w : CForm)
  /-- R221. Group barrier with armed-flag check. -/
  | gsync (p : List Prefix) (w : WForm)
  /-- R209. Starts refill of scratchpad pages, optionally waiting. -/
  | sppin (p : List Prefix) (w : WForm)
  /-- R209. Unpins scratchpad pages, writing back or dropping. -/
  | spunp (p : List Prefix) (w : WForm)
  /-- R300. Posts a multicast of a scratchpad region to sibling groups. -/
  | mcast (p : List Prefix) (w : WForm)
  /-- R304. Hierarchical barrier at a chosen level. -/
  | hbar (p : List Prefix) (w : WForm)
  /-- R243. Reads and posts a layout record. -/
  | mlay (p : List Prefix) (w : WForm)
  /-- R247. Posts a load of a B panel into the weight buffer. -/
  | mldb (p : List Prefix) (w : WForm)
  /-- R248. Posts a copy of an A operand into a stage. -/
  | mlda (p : List Prefix) (w : WForm)
  /-- R249. Posts zeroing of accumulator tiles. -/
  | mzero (p : List Prefix) (w : WForm)
  /-- R250. Posts A x B accumulation into a tile. -/
  | mma (p : List Prefix) (w : WForm)
  /-- R256. Posts application of a mask program to a tile. -/
  | mmam (p : List Prefix) (w : WForm)
  /-- R256. Reads and posts a mask program into a slot. -/
  | mmask (p : List Prefix) (w : WForm)
  /-- R253. Posts a store of a tile to scratchpad. -/
  | mst (p : List Prefix) (w : WForm)
  /-- R253. Posts a load of a tile from scratchpad. -/
  | mldc (p : List Prefix) (w : WForm)
  /-- R249. Posts a tile transpose. -/
  | mtrans (p : List Prefix) (w : WForm)
  /-- R248. Posts a gather of rows into a stage. -/
  | mgather (p : List Prefix) (w : WForm)
  /-- R239. Seals the open matrix batch. -/
  | mbatch (p : List Prefix) (w : WForm)
  /-- R239. Waits for a matrix batch and delivers flags and failures. -/
  | mwait (p : List Prefix) (w : WForm)
  /-- R257. Posts a small tensor contraction. -/
  | stc (p : List Prefix) (w : WForm)
  /-- R254. Posts a read of tile elements into lanes. -/
  | maccr (p : List Prefix) (w : WForm)
  /-- R268. Posts a coupling-image load into the Mint. -/
  | mncpl (p : List Prefix) (w : WForm)
  /-- R270. Posts a bias load. -/
  | mnbias (p : List Prefix) (w : WForm)
  /-- R271. Posts clamping of coins. -/
  | mnclamp (p : List Prefix) (w : WForm)
  /-- R271. Posts freeing of coins. -/
  | mnfree (p : List Prefix) (w : WForm)
  /-- R270. Posts a new inverse temperature. -/
  | mnbeta (p : List Prefix) (w : WForm)
  /-- R277. Posts a mode-block write. -/
  | mnmode (p : List Prefix) (w : WForm)
  /-- R275. Posts n sweeps. -/
  | mnsweep (p : List Prefix) (w : WForm)
  /-- R276. Posts n select-one steps. -/
  | mnpick (p : List Prefix) (w : WForm)
  /-- R278. Posts a read and clear of the sample counters. -/
  | mnread (p : List Prefix) (w : WForm)
  /-- R279. Posts a load or store of coin states. -/
  | mnstate (p : List Prefix) (w : WForm)
  /-- R280. Waits for the slice's Mint commands and delivers failures. -/
  | mnwait (p : List Prefix) (w : WForm)
  /-- R286. Posts an assayer reset or full Mint reset. -/
  | mnreset (p : List Prefix) (w : WForm)
  /-- R315. Atomic read-modify-write returning the old value. -/
  | atom (p : List Prefix) (w : WForm)
  /-- R315. Atomic read-modify-write without return. -/
  | atomr (p : List Prefix) (w : WForm)
  /-- R322. Runs an atomic routine on a locked line per lane. -/
  | atomp (p : List Prefix) (w : WForm)
  /-- R317. Atomic bit-field insert. -/
  | bfins (p : List Prefix) (w : WForm)
  /-- R317. Atomic find-clear-and-set. -/
  | bffcs (p : List Prefix) (w : WForm)
  /-- R317. Atomic OR limited by population. -/
  | bfpls (p : List Prefix) (w : WForm)
  /-- R323. Begins a transaction. -/
  | txb (p : List Prefix) (w : WForm)
  /-- R323. Requests commit of the open transaction. -/
  | txc (p : List Prefix) (w : WForm)
  /-- R323. Aborts the open transaction explicitly. -/
  | txa (p : List Prefix) (w : WForm)
  /-- R318. 128-bit compare and swap. -/
  | atomw (p : List Prefix) (w : WForm)
  /-- R372. Reads, checks and enqueues a continuation record. -/
  | spawn (p : List Prefix) (w : WForm)
  /-- R372. Decrements a join counter at the control die. -/
  | jdec (p : List Prefix) (w : WForm)
  /-- R372. Waits for a counter or a level to complete. -/
  | jwait (p : List Prefix) (w : WForm)
  /-- R372. Enqueues n units from a template. -/
  | launch (p : List Prefix) (w : WForm)
  /-- R372. Cancels a named level. -/
  | cancel (p : List Prefix) (w : WForm)
  /-- R372. Sets the unit's tile done bit. -/
  | tdone (p : List Prefix) (w : WForm)
  /-- R372. Waits for a tile's done or error bit. -/
  | twait (p : List Prefix) (w : WForm)
  /-- R372. Changes the priority of a level's queued records. -/
  | prio (p : List Prefix) (w : WForm)
  /-- R455. Posts a put to a fabric peer with optional signal. -/
  | puts (p : List Prefix) (w : WForm)
  /-- R455. Per-lane remote read from a fabric peer. -/
  | getr (p : List Prefix) (w : WForm)
  /-- R455. Waits for a local counter to satisfy a comparison. -/
  | sigw (p : List Prefix) (w : WForm)
  /-- R56. A group with a reserved-length word, reserved prefix kind or unassigned opcode. -/
  | illegalInstructionGroup (g : RawGroup)
  /-- R22. A long-latency producer's value arrives and the register becomes full. -/
  | loadValueArrival (r : SliceRef) (k : Nat)
  /-- R169. A woken lane reissues its full/empty request at the home. -/
  | feReissue (r : SliceRef) (lane : Nat)
  /-- R170. Cycle or race limit of a full/empty wait reached; trap 0x06. -/
  | retryBudgetExhausted (r : SliceRef)
  /-- R171. A parked instruction replays its unfinished lanes. -/
  | faultReplay (r : SliceRef)
  /-- R163. Background re-translation of a stale window. -/
  | windowRetranslation (r : SliceRef) (k : Nat)
  /-- R390. A device migration request is admitted at the directory. -/
  | migrationRequest (part vpage : Nat)
  /-- R390. A page move ends and the new leaf is written. -/
  | moveComplete (part vpage : Nat)
  /-- R392. PINUNTIL is reached and the page is unpinned. -/
  | pinExpiry (part vpage : Nat)
  /-- R395. The control die performs a form or atomic on a host page. -/
  | pinnedRemoteService (k : Nat)
  /-- R400. Read reply reaches the requester port. -/
  | rdr (stack port tag : Nat)
  /-- R400. Write acknowledgement reaches the requester port. -/
  | wack (stack port tag : Nat)
  /-- R206. A copy's bytes land in a destination line. -/
  | copyLineLands (at_ : CoreRef) (id piece : Nat)
  /-- R231. A parked copy resumes after its fault is resolved. -/
  | copyResume (at_ : CoreRef) (id : Nat)
  /-- R207. A scratchpad line returns from its backing page. -/
  | refill (gid page line : Nat)
  /-- R209. Deferred unpin work of the scratchpad controller. -/
  | unpinWriteback (gid page : Nat)
  /-- R238. The matrix engine executes its next queued command. -/
  | matrixCommandExecute (at_ : CoreRef)
  /-- R265. The Mint executes its next queued command. -/
  | mintCommandExecute (at_ : CoreRef)
  /-- R275. One sweep of the Mint over its colour phases. -/
  | mintSweep (at_ : CoreRef)
  /-- R276. One select-one step of the Mint. -/
  | mintPickStep (at_ : CoreRef)
  /-- R409. A publication packet reaches a subscriber. -/
  | labelArrival (k : Nat)
  /-- R408. A subscription reaches its publisher. -/
  | subscription (k : Nat)
  /-- R410. A stall lasts TMO cycles and the command fails. -/
  | clearingTimeout (at_ : CoreRef)
  /-- R305. A waiting arrival takes a freed slot. -/
  | hbarSlotAdmit (k : Nat)
  /-- R297. A cluster reservation lapses after 2^14 cycles. -/
  | reservationLapse (k : Nat)
  /-- R325. A conflict detected at the home aborts a transaction. -/
  | conflict (r : SliceRef)
  /-- R326. The commit unit writes or aborts a transaction. -/
  | commit (die : Nat)
  /-- R187. Per-cycle activation of dormant gangs. -/
  | leaseActivation (at_ : CoreRef)
  /-- R195. Per-cycle choice of a subgang by each issue pipe. -/
  | issueSelection (at_ : CoreRef) (pipe : Nat)
  /-- R188. A gang whose slices waited 512 cycles becomes dormant. -/
  | gangIdle (gid gang : Nat)
  /-- R189. Window end halves LOST, clears holds and may demote. -/
  | leaseWindowEnd (at_ : CoreRef)
  /-- R361. An enqueue waiting for queue area proceeds. -/
  | enqueueAreaWaitEnd (k : Nat)
  /-- R364. A queue manager places a ready record on cores. -/
  | placement (die : Nat)
  /-- R365. A group completes and releases its resources. -/
  | groupCompletion (gid : Nat)
  /-- R366. Control die sets bits, counts errors and decrements counters. -/
  | unitCompletion (uid : Nat)
  /-- R368. A termination round for a dynamic graph. -/
  | tokenRound (part : Nat) (key : LevelKey)
  /-- R370. A unit's budget is exceeded; cause 0x1A. -/
  | cycleBudget (uid : Nat)
  /-- R146. A pending cancel is taken at a cancel point or wait. -/
  | cancelTaken (r : SliceRef)
  /-- R419. Boot sequence from ROM through READY. -/
  | controlDieReset (boot : BootOutcome)
  /-- R451. A packet without acknowledgement after 200 µs is resent. -/
  | packetRetransmit (dst seq : Nat)
  /-- R452. A fabric packet is performed at its destination. -/
  | packetArrival (p : Packet)
  /-- R459. A job-level arrival reaches the coordinator. -/
  | jobBarrierMessage (m : JobArrival)
  /-- R461. A host answers a back-invalidate for device memory exposed as HDM-DB, letting a waiting system-scope release complete. -/
  | backInvalidateResponse (k : Nat)
  /-- R387. Host answer that releases agents parked on a page. -/
  | resolve (part seq : Nat)
  /-- R387. Host answer that makes parked agents fail unresolvably. -/
  | fail (part seq : Nat)
  /-- R383. A walker completes a TLB-miss walk, setting A and D. -/
  | pageWalk (at_ : CoreRef) (va : Dword) (write : Bool)
  /-- R390. A host driver request for a page. -/
  | hostMigrationRequest (part vpage : Nat)
  /-- R379. Smivik command creating a mapping. -/
  | map (part : Nat) (m : MapCommand)
  /-- R388. Smivik command removing a mapping. -/
  | unmap (part : Nat) (va : Dword)
  /-- R388. Smivik command changing permissions. -/
  | protect (part : Nat) (va : Dword) (perm : Perm)
  /-- R398. Firmware rewrites the region table under a new generation. -/
  | regionTableRewrite (entries : List RegionEntry)
  /-- R400. Line read request at a base die. -/
  | rd (q : BaseRequest)
  /-- R400. Whole-line write request at a base die. -/
  | wr (q : BaseRequest)
  /-- R402. Masked write request at a base die. -/
  | wrm (q : BaseRequest)
  /-- R399. Base die scrubs lines of its stack. -/
  | scrub (stack line : Nat)
  /-- R361. Host enqueues a record through Smivik. -/
  | hostEnqueue (part : Nat) (addr : Dword)
  /-- R369. Smivik command cancelling a level. -/
  | hostCancel (part : Nat) (key : LevelKey)
  /-- R373. Firmware creates a partition and its areas. -/
  | partitionCreate (port : Nat) (c : PartitionCommand)
  /-- R369. Teardown cancels every level of a partition. -/
  | partitionTeardown (port part : Nat)
  /-- R374. Firmware halts a partition and swaps its context out. -/
  | preempt (part : Nat)
  /-- R374. Firmware restores a partition and restarts placement. -/
  | resume (part : Nat)
  /-- R376. Semaphore acquire bit write. -/
  | acq (ports : List Nat) (sem : Nat)
  /-- R376. Semaphore release bit write. -/
  | rel (port sem : Nat)
  /-- R376. A host port link reset releases its semaphores. -/
  | portLinkReset (port : Nat)
  /-- R320. Host loads an atomic routine slot. -/
  | routineSlotLoad (port part slot : Nat) (body : List Word)
  /-- R392. Host sets N, W and T. -/
  | thrashParameters (part n w t : Nat)
  /-- R185. Firmware writes a core's lease control register. -/
  | lctlWrite (part : Nat) (at_ : CoreRef) (value : Word)
  /-- R447. Firmware writes a fabric peer entry. -/
  | peerTableWrite (part index : Nat) (entry : PeerEntry)
  /-- R11. Write to a register with no behaviour of its own. -/
  | registerWrite (port offset : Nat) (value : Word)
  /-- R406. Firmware refreshes TOFS and TRATE on a die. -/
  | timeRefresh (die : Nat) (tofs trate : Dword)
  /-- R416. An uncorrectable error is poisoned or contained. -/
  | uncorrectableError (site : ErrorSite)
  /-- R412. A corrected error is counted. -/
  | correctedError (unit structure_ row : Nat)
  /-- R417. Control die reads corrected-error counts every 1 ms. -/
  | errorCountPoll
  /-- R328. A compute die resets and its partition ends. -/
  | dieReset (die : Nat) (planned : Bool)
  /-- R422. Host boots an image from the recovery mailbox. -/
  | recoveryBoot (port : Nat)
  /-- R423. New image written to the idle slot and marked preferred. -/
  | firmwareUpdate (port : Nat) (image : List Byte)
  /-- R423. Host COMMIT advances the rollback counter. -/
  | firmwareCommit (port : Nat)
  /-- R425. Firmware returns a signed report for a nonce. -/
  | attestationReport (port : Nat) (nonce : List Byte)
  /-- R426. Host sets a lower module power cap. -/
  | moduleCap (caps : List (Nat × Nat))
  /-- R427. Every 10 µs each die adjusts its clock step. -/
  | stepControl (die milliwatts temp : Nat)
  /-- R428. Base die changes refresh or bandwidth at temperature. -/
  | baseDieThermal (stack temp : Nat)
  /-- R448. A link receiver accepts or discards a flit. -/
  | flitReceive (link : Nat) (flit : Flit)
  /-- R449. A link retrains after failures or loss of lock. -/
  | linkRetrain (link : Nat)
  /-- R449. Smivik command bringing a failed link up. -/
  | linkBringUp (link : Nat)
  /-- R411. A die-to-die link retrains, holding packets. -/
  | ucieRetrain (link : Nat)
  /-- R451. Control dies recompute routes after a link failure. -/
  | routeRecompute (routes : List RouteEntry)
  /-- R451. End-to-end acknowledgement reaches the source. -/
  | packetAcknowledged (dst seq : Nat) (failed : Bool)
  /-- R461. Host read of device memory. -/
  | cxlMemRead (port : Nat) (pa : Nat) (bytes : Nat)
  /-- R461. Host write of device memory. -/
  | cxlMemWrite (port : Nat) (pa : Nat) (data : List Byte) (poison : Bool)
  /-- R449. A fabric link finishes a retrain attempt, clears RETR, returns to UP and replays from the first unacknowledged flit. -/
  | retrainComplete (link : Nat) (ok : Bool) (peer : Nat)
  /-- R411. A die-to-die UCIe link finishes retraining and replays the packets it held. -/
  | ucieRetrainEnd (link : Nat)
  deriving DecidableEq, Repr

end Sys2Proof
end

