-- ==== Sys2Proof/Decode.lean ====
section
/-! DEFINITION. The decoder, total on any bytes, and the encoder, from the encoding tables of the spec (R39 to R58). -/

namespace Sys2Proof

/-- The three-bit code of a prefix kind (R50). -/
def PrefixKind.code : PrefixKind → BitVec 3
  | .rnd => 0
  | .ovf => 1
  | .xi => 2
  | .scp => 3
  | .spc => 4

/-- The prefix kind of a code; 0b101 to 0b111 are reserved (R50). -/
def prefixKindOf (c : BitVec 3) : Option PrefixKind :=
  if c = 0 then some .rnd
  else if c = 1 then some .ovf
  else if c = 2 then some .xi
  else if c = 3 then some .scp
  else if c = 4 then some .spc
  else none

/-- A prefix word (R50). -/
def prefixWord (p : Prefix) : Word := p.val ++ p.kind.code ++ 2#2

/-- The prefix a word holds, when its kind is not reserved (R50). -/
def prefixOf (w : Word) : Option Prefix :=
  match prefixKindOf (w.extractLsb' 2 3) with
  | some k => some ⟨k, w.extractLsb' 5 27⟩
  | none => none

/-- The prefixes of words, none when one is of a reserved kind. -/
def prefixesOf : List Word → Option (List Prefix)
  | [] => some []
  | w :: ws =>
    match prefixOf w, prefixesOf ws with
    | some p, some ps => some (p :: ps)
    | _, _ => none

/-- A boolean field of one bit. -/
def bitOf (b : Bool) : BitVec 1 := BitVec.ofBool b

/-- The 64 bits of a W-form instruction (R45). -/
def wideBits (op : BitVec 8) (w : WForm) : BitVec 64 :=
  w.mod ++ bitOf w.nf ++ bitOf w.etc ++ bitOf w.etb ++ bitOf w.eta ++ w.c ++ w.b ++ w.a ++ w.d ++ bitOf w.neg ++ w.pred ++ op ++ 1#2

/-- The fields of a W-form instruction (R45). -/
def wideFields (x : BitVec 64) : WForm :=
  { mod := x.extractLsb' 50 14, nf := x.getLsbD 49, etc := x.getLsbD 48, etb := x.getLsbD 47, eta := x.getLsbD 46,
    c := x.extractLsb' 38 8, b := x.extractLsb' 30 8, a := x.extractLsb' 22 8, d := x.extractLsb' 14 8,
    neg := x.getLsbD 13, pred := x.extractLsb' 10 3 }

/-- The word of a C-form instruction (R43). -/
def compactWord (op : BitVec 8) (w : CForm) : Word := w.b ++ w.a ++ w.d ++ op ++ 0#2

/-- The fields of a C-form instruction (R43). -/
def compactFields (x : Word) : CForm := ⟨x.extractLsb' 26 6, x.extractLsb' 18 8, x.extractLsb' 10 8⟩

/-- The two words of a wide instruction, first word first (R45). -/
def wideWords (x : BitVec 64) : List Word := [x.extractLsb' 0 32, x.extractLsb' 32 32]

/-- A wide instruction from its two words. -/
def joinWide (w0 w1 : Word) : BitVec 64 := w1 ++ w0

/-- The W-form instruction of an opcode (R58); none is unassigned. -/
def wideInstr (op : BitVec 8) (p : List Prefix) (w : WForm) : Option Instr :=
  match op.toNat with
  | 0x00 => some (.nop p w)
  | 0x01 => some (.mov p w)
  | 0x02 => some (.sel p w)
  | 0x03 => some (.iadd p w)
  | 0x04 => some (.isub p w)
  | 0x05 => some (.imul p w)
  | 0x06 => some (.imulh p w)
  | 0x07 => some (.imad p w)
  | 0x08 => some (.idiv p w)
  | 0x09 => some (.irem p w)
  | 0x0A => some (.imin p w)
  | 0x0B => some (.imax p w)
  | 0x0C => some (.iabs p w)
  | 0x0D => some (.icmp p w)
  | 0x0E => some (.and p w)
  | 0x0F => some (.or p w)
  | 0x10 => some (.xor p w)
  | 0x11 => some (.not p w)
  | 0x12 => some (.shl p w)
  | 0x13 => some (.shr p w)
  | 0x14 => some (.sar p w)
  | 0x15 => some (.rot p w)
  | 0x16 => some (.bfx p w)
  | 0x17 => some (.bfi p w)
  | 0x18 => some (.popc p w)
  | 0x19 => some (.clz p w)
  | 0x1A => some (.brev p w)
  | 0x1B => some (.lea p w)
  | 0x1C => some (.lxch p w)
  | 0x1D => some (.poll p w)
  | 0x1E => some (.gfold p w)
  | 0x1F => some (.bperm p w)
  | 0x20 => some (.fadd p w)
  | 0x21 => some (.fsub p w)
  | 0x22 => some (.fmul p w)
  | 0x23 => some (.ffma p w)
  | 0x24 => some (.fmin p w)
  | 0x25 => some (.fmax p w)
  | 0x26 => some (.fdiv p w)
  | 0x27 => some (.fsqrt p w)
  | 0x28 => some (.frcp p w)
  | 0x29 => some (.frsq p w)
  | 0x2A => some (.fexp2 p w)
  | 0x2B => some (.flog2 p w)
  | 0x2C => some (.fsin p w)
  | 0x2D => some (.fcos p w)
  | 0x2E => some (.fcmp p w)
  | 0x2F => some (.fclass p w)
  | 0x30 => some (.cvt p w)
  | 0x31 => some (.cvtn p w)
  | 0x32 => some (.packbx p w)
  | 0x33 => some (.unpkbx p w)
  | 0x34 => some (.frnd p w)
  | 0x35 => some (.fscale p w)
  | 0x36 => some (.fdot2 p w)
  | 0x37 => some (.fdot4 p w)
  | 0x38 => some (.idot4 p w)
  | 0x39 => some (.rsplit p w)
  | 0x3A => some (.rnext p w)
  | 0x3B => some (.runif p w)
  | 0x3C => some (.iaddx p w)
  | 0x40 => some (.bra p w)
  | 0x41 => some (.brx p w)
  | 0x42 => some (.cbr p w)
  | 0x43 => some (.call p w)
  | 0x44 => some (.ret p w)
  | 0x45 => some (.split p w)
  | 0x46 => some (.join p w)
  | 0x47 => some (.loop p w)
  | 0x48 => some (.part p w)
  | 0x49 => some (.regang p w)
  | 0x4A => some (.elect p w)
  | 0x4B => some (.exit p w)
  | 0x4C => some (.trap p w)
  | 0x4D => some (.bkpt p w)
  | 0x4E => some (.srd p w)
  | 0x4F => some (.swr p w)
  | 0x50 => some (.setfmt p w)
  | 0x51 => some (.region p w)
  | 0x52 => some (.yield p w)
  | 0x53 => some (.lease p w)
  | 0x54 => some (.leaseq p w)
  | 0x60 => some (.ld p w)
  | 0x61 => some (.st p w)
  | 0x62 => some (.ldw p w)
  | 0x63 => some (.ldc p w)
  | 0x64 => some (.stf p w)
  | 0x65 => some (.feq p w)
  | 0x66 => some (.feset p w)
  | 0x67 => some (.bwin p w)
  | 0x68 => some (.bwrel p w)
  | 0x69 => some (.pref p w)
  | 0x6A => some (.fence p w)
  | 0x6B => some (.lds p w)
  | 0x70 => some (.cpy p w)
  | 0x71 => some (.cpyg p w)
  | 0x72 => some (.cpyr p w)
  | 0x73 => some (.cseal p w)
  | 0x74 => some (.cwait p w)
  | 0x75 => some (.qinit p w)
  | 0x76 => some (.qpush p w)
  | 0x77 => some (.qpop p w)
  | 0x78 => some (.qpeek p w)
  | 0x79 => some (.binit p w)
  | 0x7A => some (.bexp p w)
  | 0x7B => some (.barv p w)
  | 0x7C => some (.bwait p w)
  | 0x7D => some (.gsync p w)
  | 0x7E => some (.sppin p w)
  | 0x7F => some (.spunp p w)
  | 0x80 => some (.mcast p w)
  | 0x81 => some (.hbar p w)
  | 0x90 => some (.mlay p w)
  | 0x91 => some (.mldb p w)
  | 0x92 => some (.mlda p w)
  | 0x93 => some (.mzero p w)
  | 0x94 => some (.mma p w)
  | 0x95 => some (.mmam p w)
  | 0x96 => some (.mmask p w)
  | 0x97 => some (.mst p w)
  | 0x98 => some (.mldc p w)
  | 0x99 => some (.mtrans p w)
  | 0x9A => some (.mgather p w)
  | 0x9B => some (.mbatch p w)
  | 0x9C => some (.mwait p w)
  | 0x9D => some (.stc p w)
  | 0x9E => some (.maccr p w)
  | 0xB0 => some (.mncpl p w)
  | 0xB1 => some (.mnbias p w)
  | 0xB2 => some (.mnclamp p w)
  | 0xB3 => some (.mnfree p w)
  | 0xB4 => some (.mnbeta p w)
  | 0xB5 => some (.mnmode p w)
  | 0xB6 => some (.mnsweep p w)
  | 0xB7 => some (.mnpick p w)
  | 0xB8 => some (.mnread p w)
  | 0xB9 => some (.mnstate p w)
  | 0xBA => some (.mnwait p w)
  | 0xBB => some (.mnreset p w)
  | 0xC0 => some (.atom p w)
  | 0xC1 => some (.atomr p w)
  | 0xC2 => some (.atomp p w)
  | 0xC3 => some (.bfins p w)
  | 0xC4 => some (.bffcs p w)
  | 0xC5 => some (.bfpls p w)
  | 0xC6 => some (.txb p w)
  | 0xC7 => some (.txc p w)
  | 0xC8 => some (.txa p w)
  | 0xC9 => some (.atomw p w)
  | 0xD0 => some (.spawn p w)
  | 0xD1 => some (.jdec p w)
  | 0xD2 => some (.jwait p w)
  | 0xD3 => some (.launch p w)
  | 0xD4 => some (.cancel p w)
  | 0xD5 => some (.tdone p w)
  | 0xD6 => some (.twait p w)
  | 0xD7 => some (.prio p w)
  | 0xE0 => some (.puts p w)
  | 0xE1 => some (.getr p w)
  | 0xE2 => some (.sigw p w)
  | _ => none

/-- The C-form instruction of an opcode (R58); none is unassigned or not C-capable. -/
def compactInstr (op : BitVec 8) (p : List Prefix) (w : CForm) : Option Instr :=
  match op.toNat with
  | 0x00 => some (.nopC p w)
  | 0x01 => some (.movC p w)
  | 0x03 => some (.iaddC p w)
  | 0x04 => some (.isubC p w)
  | 0x05 => some (.imulC p w)
  | 0x0A => some (.iminC p w)
  | 0x0B => some (.imaxC p w)
  | 0x0E => some (.andC p w)
  | 0x0F => some (.orC p w)
  | 0x10 => some (.xorC p w)
  | 0x11 => some (.notC p w)
  | 0x12 => some (.shlC p w)
  | 0x13 => some (.shrC p w)
  | 0x14 => some (.sarC p w)
  | 0x20 => some (.faddC p w)
  | 0x21 => some (.fsubC p w)
  | 0x22 => some (.fmulC p w)
  | 0x24 => some (.fminC p w)
  | 0x25 => some (.fmaxC p w)
  | 0x46 => some (.joinC p w)
  | 0x4B => some (.exitC p w)
  | 0x52 => some (.yieldC p w)
  | 0x7D => some (.gsyncC p w)
  | _ => none

/-- The opcode of an instruction and its fields: wide, compact, or an illegal group; none for an event (R58). -/
inductive Fields where
  | wide (op : BitVec 8) (p : List Prefix) (w : WForm)
  | compact (op : BitVec 8) (p : List Prefix) (w : CForm)
  | raw (g : RawGroup)
  | event
  deriving DecidableEq, Repr

/-- The fields of an instruction (R58). -/
def Instr.fields : Instr → Fields
  | .nopC p w => .compact 0x00 p w
  | .nop p w => .wide 0x00 p w
  | .movC p w => .compact 0x01 p w
  | .mov p w => .wide 0x01 p w
  | .sel p w => .wide 0x02 p w
  | .iaddC p w => .compact 0x03 p w
  | .iadd p w => .wide 0x03 p w
  | .isubC p w => .compact 0x04 p w
  | .isub p w => .wide 0x04 p w
  | .imulC p w => .compact 0x05 p w
  | .imul p w => .wide 0x05 p w
  | .imulh p w => .wide 0x06 p w
  | .imad p w => .wide 0x07 p w
  | .idiv p w => .wide 0x08 p w
  | .irem p w => .wide 0x09 p w
  | .iminC p w => .compact 0x0A p w
  | .imin p w => .wide 0x0A p w
  | .imaxC p w => .compact 0x0B p w
  | .imax p w => .wide 0x0B p w
  | .iabs p w => .wide 0x0C p w
  | .icmp p w => .wide 0x0D p w
  | .andC p w => .compact 0x0E p w
  | .and p w => .wide 0x0E p w
  | .orC p w => .compact 0x0F p w
  | .or p w => .wide 0x0F p w
  | .xorC p w => .compact 0x10 p w
  | .xor p w => .wide 0x10 p w
  | .notC p w => .compact 0x11 p w
  | .not p w => .wide 0x11 p w
  | .shlC p w => .compact 0x12 p w
  | .shl p w => .wide 0x12 p w
  | .shrC p w => .compact 0x13 p w
  | .shr p w => .wide 0x13 p w
  | .sarC p w => .compact 0x14 p w
  | .sar p w => .wide 0x14 p w
  | .rot p w => .wide 0x15 p w
  | .bfx p w => .wide 0x16 p w
  | .bfi p w => .wide 0x17 p w
  | .popc p w => .wide 0x18 p w
  | .clz p w => .wide 0x19 p w
  | .brev p w => .wide 0x1A p w
  | .lea p w => .wide 0x1B p w
  | .lxch p w => .wide 0x1C p w
  | .poll p w => .wide 0x1D p w
  | .gfold p w => .wide 0x1E p w
  | .bperm p w => .wide 0x1F p w
  | .faddC p w => .compact 0x20 p w
  | .fadd p w => .wide 0x20 p w
  | .fsubC p w => .compact 0x21 p w
  | .fsub p w => .wide 0x21 p w
  | .fmulC p w => .compact 0x22 p w
  | .fmul p w => .wide 0x22 p w
  | .ffma p w => .wide 0x23 p w
  | .fminC p w => .compact 0x24 p w
  | .fmin p w => .wide 0x24 p w
  | .fmaxC p w => .compact 0x25 p w
  | .fmax p w => .wide 0x25 p w
  | .fdiv p w => .wide 0x26 p w
  | .fsqrt p w => .wide 0x27 p w
  | .frcp p w => .wide 0x28 p w
  | .frsq p w => .wide 0x29 p w
  | .fexp2 p w => .wide 0x2A p w
  | .flog2 p w => .wide 0x2B p w
  | .fsin p w => .wide 0x2C p w
  | .fcos p w => .wide 0x2D p w
  | .fcmp p w => .wide 0x2E p w
  | .fclass p w => .wide 0x2F p w
  | .cvt p w => .wide 0x30 p w
  | .cvtn p w => .wide 0x31 p w
  | .packbx p w => .wide 0x32 p w
  | .unpkbx p w => .wide 0x33 p w
  | .frnd p w => .wide 0x34 p w
  | .fscale p w => .wide 0x35 p w
  | .fdot2 p w => .wide 0x36 p w
  | .fdot4 p w => .wide 0x37 p w
  | .idot4 p w => .wide 0x38 p w
  | .rsplit p w => .wide 0x39 p w
  | .rnext p w => .wide 0x3A p w
  | .runif p w => .wide 0x3B p w
  | .iaddx p w => .wide 0x3C p w
  | .bra p w => .wide 0x40 p w
  | .brx p w => .wide 0x41 p w
  | .cbr p w => .wide 0x42 p w
  | .call p w => .wide 0x43 p w
  | .ret p w => .wide 0x44 p w
  | .split p w => .wide 0x45 p w
  | .joinC p w => .compact 0x46 p w
  | .join p w => .wide 0x46 p w
  | .loop p w => .wide 0x47 p w
  | .part p w => .wide 0x48 p w
  | .regang p w => .wide 0x49 p w
  | .elect p w => .wide 0x4A p w
  | .exitC p w => .compact 0x4B p w
  | .exit p w => .wide 0x4B p w
  | .trap p w => .wide 0x4C p w
  | .bkpt p w => .wide 0x4D p w
  | .srd p w => .wide 0x4E p w
  | .swr p w => .wide 0x4F p w
  | .setfmt p w => .wide 0x50 p w
  | .region p w => .wide 0x51 p w
  | .yieldC p w => .compact 0x52 p w
  | .yield p w => .wide 0x52 p w
  | .lease p w => .wide 0x53 p w
  | .leaseq p w => .wide 0x54 p w
  | .ld p w => .wide 0x60 p w
  | .st p w => .wide 0x61 p w
  | .ldw p w => .wide 0x62 p w
  | .ldc p w => .wide 0x63 p w
  | .stf p w => .wide 0x64 p w
  | .feq p w => .wide 0x65 p w
  | .feset p w => .wide 0x66 p w
  | .bwin p w => .wide 0x67 p w
  | .bwrel p w => .wide 0x68 p w
  | .pref p w => .wide 0x69 p w
  | .fence p w => .wide 0x6A p w
  | .lds p w => .wide 0x6B p w
  | .cpy p w => .wide 0x70 p w
  | .cpyg p w => .wide 0x71 p w
  | .cpyr p w => .wide 0x72 p w
  | .cseal p w => .wide 0x73 p w
  | .cwait p w => .wide 0x74 p w
  | .qinit p w => .wide 0x75 p w
  | .qpush p w => .wide 0x76 p w
  | .qpop p w => .wide 0x77 p w
  | .qpeek p w => .wide 0x78 p w
  | .binit p w => .wide 0x79 p w
  | .bexp p w => .wide 0x7A p w
  | .barv p w => .wide 0x7B p w
  | .bwait p w => .wide 0x7C p w
  | .gsyncC p w => .compact 0x7D p w
  | .gsync p w => .wide 0x7D p w
  | .sppin p w => .wide 0x7E p w
  | .spunp p w => .wide 0x7F p w
  | .mcast p w => .wide 0x80 p w
  | .hbar p w => .wide 0x81 p w
  | .mlay p w => .wide 0x90 p w
  | .mldb p w => .wide 0x91 p w
  | .mlda p w => .wide 0x92 p w
  | .mzero p w => .wide 0x93 p w
  | .mma p w => .wide 0x94 p w
  | .mmam p w => .wide 0x95 p w
  | .mmask p w => .wide 0x96 p w
  | .mst p w => .wide 0x97 p w
  | .mldc p w => .wide 0x98 p w
  | .mtrans p w => .wide 0x99 p w
  | .mgather p w => .wide 0x9A p w
  | .mbatch p w => .wide 0x9B p w
  | .mwait p w => .wide 0x9C p w
  | .stc p w => .wide 0x9D p w
  | .maccr p w => .wide 0x9E p w
  | .mncpl p w => .wide 0xB0 p w
  | .mnbias p w => .wide 0xB1 p w
  | .mnclamp p w => .wide 0xB2 p w
  | .mnfree p w => .wide 0xB3 p w
  | .mnbeta p w => .wide 0xB4 p w
  | .mnmode p w => .wide 0xB5 p w
  | .mnsweep p w => .wide 0xB6 p w
  | .mnpick p w => .wide 0xB7 p w
  | .mnread p w => .wide 0xB8 p w
  | .mnstate p w => .wide 0xB9 p w
  | .mnwait p w => .wide 0xBA p w
  | .mnreset p w => .wide 0xBB p w
  | .atom p w => .wide 0xC0 p w
  | .atomr p w => .wide 0xC1 p w
  | .atomp p w => .wide 0xC2 p w
  | .bfins p w => .wide 0xC3 p w
  | .bffcs p w => .wide 0xC4 p w
  | .bfpls p w => .wide 0xC5 p w
  | .txb p w => .wide 0xC6 p w
  | .txc p w => .wide 0xC7 p w
  | .txa p w => .wide 0xC8 p w
  | .atomw p w => .wide 0xC9 p w
  | .spawn p w => .wide 0xD0 p w
  | .jdec p w => .wide 0xD1 p w
  | .jwait p w => .wide 0xD2 p w
  | .launch p w => .wide 0xD3 p w
  | .cancel p w => .wide 0xD4 p w
  | .tdone p w => .wide 0xD5 p w
  | .twait p w => .wide 0xD6 p w
  | .prio p w => .wide 0xD7 p w
  | .puts p w => .wide 0xE0 p w
  | .getr p w => .wide 0xE1 p w
  | .sigw p w => .wide 0xE2 p w
  | .illegalInstructionGroup g => .raw g
  | .loadValueArrival _ _ => .event
  | .feReissue _ _ => .event
  | .retryBudgetExhausted _ => .event
  | .faultReplay _ => .event
  | .resolve _ _ => .event
  | .fail _ _ => .event
  | .pageWalk _ _ _ => .event
  | .windowRetranslation _ _ => .event
  | .migrationRequest _ _ => .event
  | .hostMigrationRequest _ _ => .event
  | .moveComplete _ _ => .event
  | .pinExpiry _ _ => .event
  | .pinnedRemoteService _ => .event
  | .map _ _ => .event
  | .unmap _ _ => .event
  | .protect _ _ _ => .event
  | .regionTableRewrite _ => .event
  | .rd _ => .event
  | .wr _ => .event
  | .wrm _ => .event
  | .rdr _ _ _ => .event
  | .wack _ _ _ => .event
  | .scrub _ _ => .event
  | .copyLineLands _ _ _ => .event
  | .copyResume _ _ => .event
  | .refill _ _ _ => .event
  | .unpinWriteback _ _ => .event
  | .matrixCommandExecute _ => .event
  | .mintCommandExecute _ => .event
  | .mintSweep _ => .event
  | .mintPickStep _ => .event
  | .labelArrival _ => .event
  | .subscription _ => .event
  | .clearingTimeout _ => .event
  | .hbarSlotAdmit _ => .event
  | .reservationLapse _ => .event
  | .conflict _ => .event
  | .commit _ => .event
  | .leaseActivation _ => .event
  | .issueSelection _ _ => .event
  | .gangIdle _ _ => .event
  | .leaseWindowEnd _ => .event
  | .hostEnqueue _ _ => .event
  | .enqueueAreaWaitEnd _ => .event
  | .placement _ => .event
  | .groupCompletion _ => .event
  | .unitCompletion _ => .event
  | .tokenRound _ _ => .event
  | .cycleBudget _ => .event
  | .cancelTaken _ => .event
  | .hostCancel _ _ => .event
  | .partitionCreate _ _ => .event
  | .partitionTeardown _ _ => .event
  | .preempt _ => .event
  | .resume _ => .event
  | .acq _ _ => .event
  | .rel _ _ => .event
  | .portLinkReset _ => .event
  | .routineSlotLoad _ _ _ _ => .event
  | .thrashParameters _ _ _ _ => .event
  | .lctlWrite _ _ _ => .event
  | .peerTableWrite _ _ _ => .event
  | .registerWrite _ _ _ => .event
  | .timeRefresh _ _ _ => .event
  | .uncorrectableError _ => .event
  | .correctedError _ _ _ => .event
  | .errorCountPoll => .event
  | .dieReset _ _ => .event
  | .controlDieReset _ => .event
  | .recoveryBoot _ => .event
  | .firmwareUpdate _ _ => .event
  | .firmwareCommit _ => .event
  | .attestationReport _ _ => .event
  | .moduleCap _ => .event
  | .stepControl _ _ _ => .event
  | .baseDieThermal _ _ => .event
  | .flitReceive _ _ => .event
  | .linkRetrain _ => .event
  | .linkBringUp _ => .event
  | .ucieRetrain _ => .event
  | .routeRecompute _ => .event
  | .packetRetransmit _ _ => .event
  | .packetArrival _ => .event
  | .packetAcknowledged _ _ _ => .event
  | .jobBarrierMessage _ => .event
  | .cxlMemRead _ _ _ => .event
  | .cxlMemWrite _ _ _ _ => .event
  | .retrainComplete _ _ _ => .event
  | .ucieRetrainEnd _ => .event
  | .backInvalidateResponse _ => .event

/-- Why bytes are no instruction: they end inside a group (R41). -/
inductive DecodeError where
  | truncated
  deriving DecidableEq, Repr

/-- The group of prefix words `pre` and a C-form word. -/
def compactGroup (pre : List Word) (x : Word) : Instr :=
  match prefixesOf pre with
  | some ps => (compactInstr (x.extractLsb' 2 8) ps (compactFields x)).getD (.illegalInstructionGroup ⟨pre, false, x.zeroExtend 64⟩)
  | none => .illegalInstructionGroup ⟨pre, false, x.zeroExtend 64⟩

/-- The group of prefix words `pre` and a W-form instruction. -/
def wideGroup (pre : List Word) (x : BitVec 64) : Instr :=
  match prefixesOf pre with
  | some ps => (wideInstr (x.extractLsb' 2 8) ps (wideFields x)).getD (.illegalInstructionGroup ⟨pre, true, x⟩)
  | none => .illegalInstructionGroup ⟨pre, true, x⟩

/-- One instruction group from words, `pre` being the prefix words already read, and the words after it (R39, R41).
A run of prefix words belongs to the first word after it that is not a prefix (R52). -/
def decodeFrom (pre : List Word) : List Word → Except DecodeError (Instr × List Word)
  | [] => .error .truncated
  | x :: rest =>
    match (x.extractLsb' 0 2).toNat with
    | 0 => .ok (compactGroup pre x, rest)
    | 1 =>
      match rest with
      | [] => .error .truncated
      | y :: rest' => .ok (wideGroup pre (joinWide x y), rest')
    | 2 => decodeFrom (pre ++ [x]) rest
    | _ => .ok (.illegalInstructionGroup ⟨pre, false, x.zeroExtend 64⟩, rest)

/-- One instruction group from words. -/
def decodeWords (ws : List Word) : Except DecodeError (Instr × List Word) := decodeFrom [] ws

/-- The four little-endian bytes of a word (R39). -/
def wordBytes (x : Word) : List Byte := [x.extractLsb' 0 8, x.extractLsb' 8 8, x.extractLsb' 16 8, x.extractLsb' 24 8]

/-- The whole words that bytes hold, little-endian (R39); up to three last bytes hold none. -/
def bytesWords : List Byte → List Word
  | b0 :: b1 :: b2 :: b3 :: rest => (b3 ++ b2 ++ b1 ++ b0) :: bytesWords rest
  | _ => []

/-- One instruction group from bytes, and its length in bytes. -/
def decode (bs : List Byte) : Except DecodeError (Instr × Nat) :=
  match decodeWords (bytesWords bs) with
  | .ok (i, rest) => .ok (i, 4 * ((bytesWords bs).length - rest.length))
  | .error e => .error e

/-- The words of an instruction, and none for an event. -/
def encode (i : Instr) : List Word :=
  match i.fields with
  | .wide op p w => p.map prefixWord ++ wideWords (wideBits op w)
  | .compact op p w => p.map prefixWord ++ [compactWord op w]
  | .raw g => g.prefixes ++ (if g.wide then wideWords g.word else [g.word.extractLsb' 0 32])
  | .event => []

/-- The words of a number whose bit 0 is the least of the first word, with words of zeros after them. -/
def tableWords (nbits w : Nat) : List Word := (List.range ((nbits + 31) / 32 + 2)).map (fun k => BitVec.ofNat 32 (w / 2 ^ (32 * k)))

/-- The instruction the decoder reads from bits numbered as the opcode table numbers them. -/
def decodeTableWord (nbits w : Nat) : Option Instr :=
  match decode ((tableWords nbits w).flatMap wordBytes) with
  | .ok (i, _) => some i
  | .error _ => none

end Sys2Proof
end

