-- ==== Sys2Proof/Config.lean ====
section
/-! DEFINITION. What the spec leaves open, as values nothing can evaluate: the schedule, elapsed time, physical noise, hardware upsets, and unstated layouts. Each value is applied to the state's `fresh` counter, so every use has a value of its own. -/

namespace Sys2Proof.Config

/-- Which of the events that may happen next happens (R12, R174, R224, R343): the schedule of the device. DESIGN CHOICE, log 3. -/
opaque choice : Nat → Nat

/-- Arithmetic cycles that pass in one step of the model (R7). DESIGN CHOICE, log 4. -/
opaque elapsedCycles : Nat → Nat

/-- Nanoseconds of the control die that pass in one step of the model (R403). DESIGN CHOICE, log 4. -/
opaque elapsedNanos : Nat → Nat

/-- The 64 bits of physical noise of one draw of a Mint (R274, R276). DESIGN CHOICE, log 12. -/
opaque mintNoise : Nat → BitVec 64

/-- Whether an upset of the hardware makes the two slices of a shadow pair disagree where they are compared, and if so the kind of disagreement and the lane (R200). DESIGN CHOICE, log 14. -/
opaque shadowUpset : Nat → Option (Nat × Nat)

/-- A path signature after a group, from the one before it, the next PC and the active mask; R199 gives its width and what it is made of, and no function. DESIGN CHOICE, log 14. -/
opaque pathSignature : BitVec 32 → BitVec 64 → BitVec 4 → BitVec 32

/-- A 64-bit value that the spec leaves open, for the use numbered by the second argument at one value of `fresh`. DESIGN CHOICE, log 13, 15, 39, 46, 66, 69, 70, 75, 77, 92. -/
opaque openValue : Nat → Nat → BitVec 64

/-- The 8 SEC-DED check bits of an 8-byte word of device memory; R393 names the code's kind and gives no matrix. DESIGN CHOICE, log 79. -/
opaque wordCheck : BitVec 64 → BitVec 8

/-- The SEC-DED code over a line's 16 full/empty bits and its poison bit, whose width R393 does not give. DESIGN CHOICE, log 79. -/
opaque lineCheck : BitVec 16 → Bool → Nat

/-- The register of a port's management block, by port and offset, that a word of the device-register window shows (R378). DESIGN CHOICE, log 66. -/
opaque registerAt : Nat → Option (Nat × Nat)

/-- The set, modulo 1,024, that a line takes in its L2 slice (R308). DESIGN CHOICE, log 40. -/
opaque l2Set : Nat → Nat

/-- The set, modulo 65,536, that a line of a stack takes in the LLC (R399). DESIGN CHOICE, log 40. -/
opaque llcSet : Nat → Nat

/-- The hop count that a die's topology table lists between two of its stops, by their numbers; R465 gives its bound alone. DESIGN CHOICE, log 86. -/
opaque topology : Nat → Nat → Nat

/-- What R420 names in a firmware image, whose places the spec does not give: the body's length, SVN, KI and the key table. -/
structure ImageFields where
  bodyLength : Nat
  svn : Nat
  key : Nat
  keys : List (List Byte)
  deriving DecidableEq, Repr, Inhabited

/-- The fields of a firmware image. DESIGN CHOICE, log 10. -/
opaque imageFields : List Byte → ImageFields

/-- What byte `k` of the `n` bytes of the partition tables that a report digests is combined with (R425). DESIGN CHOICE, log 10. -/
opaque tableMask : Nat → Nat → BitVec 8

/-- What the hardware tests of a boot find (R419). DESIGN CHOICE, log 3. -/
opaque bootOutcome : Nat → BootOutcome

/-- Whether the device is the XF-M8, which behaves as the XF-P8 but for the ordering code that its report and its certificate name (R2, R424, R425). DESIGN CHOICE, log 20. -/
opaque isModule : Bool

/-- The bytes of a Varlia certificate over a public key, a serial number and an ordering code; R424 gives neither its layout nor Varlia's key. DESIGN CHOICE, log 20. -/
opaque varliaCertificate : List Byte → List Byte → Nat → List Byte

end Sys2Proof.Config
end

