-- ==== Sys2Proof/Machine/State.lean ====
section
/-! DEFINITION. The state of the device as plain data: slices, gangs, groups, cores, dies, the control die, memory and the outside world's open requests; why a step stops; and the state after reset. -/

namespace Sys2Proof.Machine

/-! ### Memory -/

/-- A span of memory: bytes that are not zero, aligned 8-byte words whose full/empty bit is empty, and poisoned units,
each list strictly rising. A unit of poison is a 128 B line of `glb` and an 8-byte word elsewhere (R412). -/
structure Memory where
  bytes : List Host.Cell
  empties : List Nat
  poison : List Nat
  deriving DecidableEq, Repr

/-- Memory with every byte zero, every word full and nothing poisoned. -/
def Memory.blank : Memory := ⟨[], [], []⟩

/-- The five address spaces of R50. -/
inductive Space where
  | glb | scr | cls | chp | lane
  deriving DecidableEq, Repr

/-! ### Slices -/

/-- A lane register: four values, four full bits, and the poison marks with their origins (R17, R22, R413). -/
structure VReg where
  val : Lanes Word
  full : Mask
  poison : Lanes (Option Dword)
  deriving DecidableEq, Repr

/-- A slice register (R18, R22, R413). -/
structure SReg where
  val : Word
  full : Bool
  poison : Option Dword
  deriving DecidableEq, Repr

/-- A valid translation window (R162); `used` holds after a use while stale (R163). -/
structure Window where
  vbase : Dword
  frame : Nat
  limit : Nat
  read : Bool
  write : Bool
  host : Bool
  fe : Bool
  stale : Bool
  used : Bool
  deriving DecidableEq, Repr

/-- A mask-stack entry (R33). -/
structure StackEntry where
  pc : Dword
  mask : Mask
  fmt : BitVec 10
  deriving DecidableEq, Repr

/-- The trap record (R37, R142). -/
structure TrapRecord where
  xpc : Dword
  xcause : Word
  xaddr : Dword
  xmask : Word
  xinfo : Word
  deriving DecidableEq, Repr

/-- `FERETRY` with the cycle count of the current wait (R170). -/
structure Retry where
  cexp : Nat
  wlim : Nat
  used : Nat
  cycles : Nat
  deriving DecidableEq, Repr

/-- An open transaction (R323 to R325, R342): the abort address, what the abort restores, the lines of the set with whether each was written, the bytes it has loaded from memory, the buffered bytes, the lines a poisoned store marks, and whether a conflict has met it. -/
structure Transaction where
  abortPc : Dword
  depth : Nat
  active : Mask
  fmt : BitVec 10
  lines : List (Nat × Bool)
  reads : List Nat
  buffer : List Host.Cell
  poisoned : List Nat
  conflict : Bool
  deriving DecidableEq, Repr

/-- A value on its way to a register: destination specifier, number of registers, lane, the words, and a poison mark (R22). -/
structure Owed where
  dst : Nat
  regs : Nat
  lane : Nat
  words : List Word
  poison : Option Dword
  deriving DecidableEq, Repr

/-- What a memory access does at its word (R157, R164, R313). -/
inductive AccessOp where
  | load | feq | store | ldw | ldc | stf | feset
  | atom (op ty : Nat) | routine (slot : Nat) | bfins | bffcs | bfpls | atomw
  deriving DecidableEq, Repr

/-- Where one lane of a memory instruction stands: inactive, to be translated, waiting for the answer to a page fault or a migration, waiting for presence, translated and held until every lane of its atomic is (R314), on a park list, woken, waiting for the control die on a pinned-remote page, or performed (R159, R160, R169, R171, R395). -/
inductive LaneState where
  | off | todo | faulted (seq : Nat) | migrating (vpage turn : Nat) | absent | held | parked | woken | remote | done
  deriving DecidableEq, Repr

/-- A memory instruction with its captured operands (R154, R171); `hint` is its home-die hint (R161), `wrote` the physical address in `glb` that each performed lane of a store has written (R158), and `behind` the lower slices of its gang that issued the same atomic with it and had then still to act on a unit it names (R315). -/
structure Access where
  op : AccessOp
  returns : Bool
  space : Space
  size : Nat
  signed : Bool
  dst : Nat
  regs : Nat
  bcast : Mask
  ea : Lanes Dword
  b : Lanes (BitVec 128)
  c : Lanes (BitVec 128)
  poison : Lanes (Option Dword)
  window : Option Nat
  hint : Option Nat
  scope : Nat
  acquire : Bool
  release : Bool
  wrote : Lanes (Option Nat)
  behind : List Nat
  lanes : Lanes LaneState
  addr : Dword
  next : Dword
  deriving DecidableEq, Repr

/-- Why an agent cannot go on: an unanswered fault, a migration, an absent scratchpad line (R159, R160, R171); for a packet performed, lines that the host ports have still to give back (R461), or room in the stream to a package (R452). -/
inductive Block where
  | fault (seq : Nat)
  | migration (vpage turn : Nat)
  | presence (page : Nat)
  | hosts (lines : List Nat)
  | room (package : Nat)
  deriving DecidableEq, Repr

/-- A trap as it is raised: cause, `XADDR`, `XMASK` and `XINFO` (R142). -/
structure Trap where
  cause : Nat
  addr : Dword
  lanes : Mask
  info : Word
  deriving DecidableEq, Repr

/-- What a slice waits for (R133). `abortDrain` names the misuse trap that follows an abort, with its group's address (R324); `next` is where it continues, `eff` the lanes of the waiting instruction; `failed` is the trap that an answer FAIL brings (R387). -/
inductive Wait where
  | access (a : Access)
  | replay (b : Block) (failed : Trap)
  | fetch (b : Block) (failed : Trap)
  | handler (b : Block) (cause : Nat)
  | regang (eff : Mask)
  | leaseReq
  | commit (eff : Mask)
  | abortDrain (then_ : Option (Dword × Trap))
  | restartDrain
  | gsync (eff : Mask) (next : Dword)
  | hbar (level id expected : Nat) (eff : Mask) (next : Dword) (counted : Bool)
  | bwait (addr : Nat) (phase : Nat) (eff : Mask) (next : Dword)
  | cseal (d : Option Nat) (eff : Mask) (next : Dword)
  | cwait (n : Nat) (eff : Mask) (next : Dword)
  | sppin (first count : Nat) (eff : Mask) (next : Dword)
  | qpush (q : Nat) (words : List Word) (poison : List (Option Dword)) (eff : Mask) (next : Dword)
  | qpop (q dst regs : Nat) (eff : Mask) (next : Dword)
  | mbatch (eff : Mask) (barrier : Option (Nat × Nat × Nat)) (d : Option Nat) (next : Dword)
  | mwait (n : Nat) (eff : Mask) (next : Dword)
  | mnwait (eff : Mask) (next : Dword)
  | jwaitCounter (addr : Dword) (eff : Mask) (next : Dword)
  | jwaitLevel (key : LevelKey) (eff : Mask) (next : Dword)
  | twait (addr : Dword) (tile d : Nat) (eff : Mask) (next : Dword)
  | sigw (addr : Dword) (eq : Bool) (target : Dword) (d : Option Nat) (eff : Mask) (next : Dword)
  | release (lines : List Nat) (acquire : Bool) (next : Dword)
  | queueArea (eff : Mask) (next : Dword)
  deriving DecidableEq, Repr

/-- A fault, flag set or misuse of a copy not yet delivered to its issuer (R227, R232). `phase` is the tag of the phase that counts the copy, 4 for none; `age` counts the phases of its barrier completed from that one on, so that only a wait for that very phase delivers its flags. -/
structure CopyReport where
  batch : Nat
  order : Nat
  barrier : Option Nat
  phase : Nat
  fault : Option (Dword × Nat)
  misuse : Bool
  flags : Flags
  mask : Mask
  age : Nat
  deriving DecidableEq, Repr

/-- Copy batch state of a slice (R230); its numbers are counted without end, and given modulo 2^32. -/
structure CopyBatches where
  current : Nat
  sealed_ : List Nat
  reports : List CopyReport
  deriving DecidableEq, Repr

/-- A matrix batch: its number, its commands still to complete, its barrier arrival (address, tag, bytes), its flags by lane, and its first failure as an address and a code (R239 to R241). -/
structure MatrixBatch where
  num : Nat
  left : Nat
  barrier : Option (Nat × Nat × Nat)
  flags : Lanes Flags
  error : Option (Dword × Nat)
  deriving DecidableEq, Repr

/-- An open batch with no command. -/
def MatrixBatch.opened (n : Nat) : MatrixBatch := ⟨n, 0, none, Lanes.all 0, none⟩

/-- Matrix batch state of a slice (R239). -/
structure MatrixBatches where
  openCommands : Nat
  sealed_ : List MatrixBatch
  openBatch : MatrixBatch
  deriving DecidableEq, Repr

/-- A Mint failure not yet delivered: cause, XADDR and XINFO (R280). -/
structure MintFailure where
  cause : Nat
  addr : Dword
  info : Word
  deriving DecidableEq, Repr

/-- A remote load in flight (R455): its tag, destination, peer, remote addresses, the lanes not yet answered, failed, and not yet sent, and the values received. -/
structure Getr where
  tag : Nat
  dst : Nat
  regs : Nat
  eff : Mask
  package : Nat
  part : Nat
  addrs : Lanes Dword
  left : Mask
  failed : Mask
  unsent : Mask
  got : List Owed
  acquire : Bool
  scope : Nat
  pc : Dword
  deriving DecidableEq, Repr

/-- A byte that a lane has stored while SPLITs were open whose path B had still to run, as the model keeps it (R130): its space, its home there, its address, what it held, the least depth of the mask stack since then, and the heights of the entries of those paths. -/
structure PathStore where
  space : Space
  home : Nat
  addr : Nat
  was : Byte
  low : Nat
  paths : List Nat
  deriving DecidableEq, Repr

/-- The state of a slice (R15); `retired` holds the lanes that `EXIT` has retired (R131). -/
structure Slice where
  v : List VReg
  s : Bank SReg 64
  m : Bank Mask 8
  w : Bank (Option Window) 8
  pc : Dword
  active : Mask
  stack : List StackEntry
  spilled : Nat
  retired : Mask
  xf : Lanes Flags
  fmt : BitVec 10
  rng : Lanes Dword
  store : Lanes Memory
  trap : TrapRecord
  regpc : Dword
  retry : Retry
  txstat : Word
  tx : Option Transaction
  latch : Option (Dword × Dword)
  copies : CopyBatches
  matrix : MatrixBatches
  mintPosted : Nat
  mintFailures : List MintFailure
  wait : Option Wait
  sub : Nat
  ended : Bool
  owed : List Owed
  getrs : List Getr
  pathStores : List PathStore
  deriving DecidableEq, Repr

/-! ### Gangs and groups -/

/-- A gang (R180 to R189): `waits` names its slices that wait, each with the cycle since when, and `waitSince` the cycle since when all of them do (R188). -/
structure Gang where
  slot : Nat
  age : Nat
  pipe : Nat
  declared : Nat
  lost : Nat
  victims : Nat
  active : Bool
  heldWindows : Nat
  waits : List (Nat × Nat)
  waitSince : Option Nat
  parted : Bool
  deriving DecidableEq, Repr

/-- The state of a scratchpad page (R205, R207, R209): pinned, unpinned with its lines in the backing page, refilling from a line on, or waiting, before its unpin, for the copies with numbers below a bound. -/
inductive PageState where
  | pinned | unpinned | refilling (start : Nat) | unpinning (drop : Bool) (before : Nat)
  deriving DecidableEq, Repr

/-- A queue (R211 to R213): ring base, capacity, entry size, indices, producer range, allowances, the producer tag of each entry, oldest first, and the slices parked at it in order. -/
structure Queue where
  valid : Bool
  base : Nat
  cap : Nat
  wide : Bool
  head : Nat
  tail : Nat
  count : Nat
  plo : Nat
  nprod : Nat
  allowance : List Nat
  tags : List Nat
  pushers : List Nat
  poppers : List Nat
  deriving DecidableEq, Repr

/-- A queue that no `QINIT` has opened (R211). -/
def Queue.closed : Queue := ⟨false, 0, 0, false, 0, 0, 0, 0, 0, [], [], [], []⟩

/-- What a slice holds besides its registers, its mask stack, its format, its random numbers and its lane store, as a group that its primary performs for both slices of a pair may change it (R197, R198). -/
structure Control where
  pc : Dword
  active : Mask
  retired : Mask
  ended : Bool
  m : Bank Mask 8
  w : Bank (Option Window) 8
  xf : Lanes Flags
  regpc : Dword
  retry : Retry
  txstat : Word
  tx : Option Transaction
  latch : Option (Dword × Dword)
  deriving DecidableEq, Repr

/-- What one instruction group leaves to a shadow: its effective mask and its addresses, the values delivered to its primary so far, each a word of a register in a lane, and the primary's control state before it and, once the primary has gone through it, after it (R198, R199). -/
structure QueueEntry where
  mask : Mask
  addrs : Lanes (Option Dword)
  values : List Owed
  was : Control
  now : Option Control
  deriving DecidableEq, Repr

/-- An instruction group that the primaries of some slices of a gang have issued and their shadows have still to go through (R197, R198): its subgang, its address, whether the shadows execute it themselves, whether its values stand in the load-value queue, the registers that they are for, and each slice's entry. -/
structure Trailing where
  gang : Nat
  sub : Nat
  instr : Instr
  addr : Dword
  own : Bool
  queued : Bool
  regs : List Nat
  entries : List (Nat × QueueEntry)
  deriving DecidableEq, Repr

/-- The shadow of a slice: a slice place of its own, its path signature and that of its primary (R197, R199). -/
structure Shadow where
  slice : Slice
  signature : Word
  primary : Word
  deriving DecidableEq, Repr

/-- A group of slices resident on a core (R14, R179, R296). In a launch with shadow execution `shadows` holds the shadow of each slice and `trail` the instruction groups that shadows have still to execute, oldest first, with the entries of their load-value queues. `unpins` are the SPUNPs of pages, with DROP and the bound on their copies, that a pre-emption has put off; `swapped` holds while its partition is in the vaults. -/
structure Group where
  gid : Nat
  uid : Nat
  part : Nat
  die : Nat
  core : Nat
  index : Nat
  regs : Nat
  pages : Nat
  gangSize : Nat
  slices : List Slice
  gangs : List Gang
  scr : Memory
  backing : Memory
  pageState : List PageState
  absent : List Nat
  unpins : List (Nat × Bool × Nat)
  queues : Bank Queue 16
  gsat : Bool
  gsyncGen : Nat
  shadow : Bool
  shadows : List Shadow
  trail : List Trailing
  swapped : Bool
  deriving DecidableEq, Repr

/-! ### Copies -/

/-- The kinds of work of a copy engine (R222, R298, R455). -/
inductive CopyKind where
  | cpy | cpyg | cpyr (op ty : Nat) | mcast | puts (peer : Nat) (ordered : Bool) (dec : Option Nat) (counter : Dword)
  deriving DecidableEq, Repr

/-- A copy in flight (R222 to R233, R300); `fault` is the address and code of what blocks it (R231, R232). -/
structure Copy where
  id : Nat
  kind : CopyKind
  gid : Nat
  idx : Nat
  uid : Nat
  part : Nat
  dsp : Space
  ssp : Space
  dst : Dword
  src : Dword
  rowLen : Nat
  rows : Nat
  dstStride : Nat
  srcStride : Nat
  cvt : Option (Nat × Nat × Nat)
  satB : Bool
  index : Nat
  fe : Nat
  barrier : Option (Nat × Nat)
  batch : Nat
  order : Nat
  scope : Nat
  acquire : Bool
  release : Bool
  nf : Bool
  mask : Mask
  landed : List Nat
  block : Option Block
  flags : Flags
  fault : Option (Dword × Nat)
  misuse : Bool
  receivers : List (Nat × Nat)
  first : Nat
  status : Option Nat
  dones : BitVec 8
  drops : BitVec 8
  deriving DecidableEq, Repr

/-! ### The core -/

/-- A line of an L1, in most-recently-used order: line address, owner slot, stale mark (R182, R210, R462). -/
structure L1Line where
  line : Nat
  owner : Option Nat
  stale : Bool
  deriving DecidableEq, Repr

/-- A TLB entry (R385). -/
structure TlbEntry where
  part : Nat
  vpage : Nat
  frame : Nat
  size : Nat
  perm : Perm
  dirty : Bool
  mig : Bool
  pr : Bool
  host : Bool
  deriving DecidableEq, Repr

/-- The current run of an issue pipe and the subgangs marked spent (R194): gang group id, gang index, subgang label. -/
structure Pipe where
  run : Option (Nat × Nat × Nat)
  issued : Nat
  spent : List (Nat × Nat × Nat)
  deriving DecidableEq, Repr

/-- A pipe with no run. -/
def Pipe.idle : Pipe := ⟨none, 0, []⟩

/-- A predictor entry (R319): index, tag, counter. -/
structure PredictorEntry where
  index : Nat
  tag : Nat
  count : Nat
  deriving DecidableEq, Repr

/-- A layout record held by the engine (R242, R243). -/
structure LayoutRecord where
  base : Nat
  fmt : Nat
  e0 : Nat
  e1 : Nat
  e2 : Nat
  e3 : Nat
  s0 : Int
  s1 : Int
  s2 : Int
  s3 : Int
  deriving DecidableEq, Repr

/-- A group of 16 consecutive elements of a panel's column: its header, and its present elements packed in ascending k, each in its format's width (R246). -/
structure PanelGroup where
  header : Word
  packed : List Nat
  deriving DecidableEq, Repr

/-- A panel of the weight buffer: its place, shape, columns in groups, source, and poisoned columns with their origins (R246, R247, R261, R414). -/
structure Panel where
  start : Nat
  size : Nat
  k : Nat
  fmt : Nat
  cols : List (List PanelGroup)
  source : LayoutRecord
  gid : Nat
  poisoned : List (Nat × Dword)
  deriving DecidableEq, Repr

/-- An A stage: its rows, shape, source with the index list of a gather, and poisoned rows with their origins (R248, R261, R414). -/
structure Stage where
  rows : List (List Num)
  k : Nat
  fmt : Nat
  source : LayoutRecord
  indices : Option (Nat × Nat)
  gid : Nat
  poisoned : List (Nat × Dword)
  deriving DecidableEq, Repr

/-- One operation of a mask program (R255). -/
structure MaskOp where
  op : Nat
  cmb : Nat
  imm : Nat
  deriving DecidableEq, Repr

/-- What a queued matrix command does (R236), its operands as read at issue. -/
inductive MatrixOp where
  | lay (k : Nat) (r : LayoutRecord)
  | ldb (j off : Nat)
  | lda (s j : Nat)
  | zero (tm : Nat)
  | mma (d src off : Nat)
  | mam (d j addr : Nat)
  | mask (j : Nat) (prog : List MaskOp)
  | st (d fmt : Nat) (int : Bool) (addr : Nat) (stride : Int) (rm : Nat) (satB : Bool)
  | ldc (d fmt : Nat) (int : Bool) (addr : Nat) (stride : Int)
  | trans (d s : Nat)
  | gather (s j list count : Nat)
  | stc (axis : Nat) (f64 : Bool) (a b c : Nat) (rm : Nat)
  | accr (k fmt : Nat) (int : Bool) (dst : Nat) (rows cols : List Nat) (rm : Nat) (satB : Bool)
  deriving DecidableEq, Repr

/-- A queued matrix command with its poster (R238 to R241). -/
structure MatrixCommand where
  gid : Nat
  idx : Nat
  uid : Nat
  batch : Nat
  eff : Mask
  nf : Bool
  addr : Dword
  op : MatrixOp
  deriving DecidableEq, Repr

/-- The matrix engine (R234). -/
structure Matrix where
  tiles : List (List Dword)
  tilePoison : List (Nat × Nat × Dword)
  records : List (Option LayoutRecord)
  panels : List Panel
  stages : List (Option Stage)
  masks : List (Option (List MaskOp))
  queue : List MatrixCommand
  confl : Word
  deriving DecidableEq, Repr

/-- The engine after the reset of R235. -/
def Matrix.clear : Matrix :=
  ⟨List.replicate 4 (List.replicate 1024 0), [], List.replicate 8 none, [], [none, none], List.replicate 4 none, [], 0⟩

/-- What a queued Mint command does (R264), its operands as read at issue. -/
inductive MintOp where
  | cpl (a : Dword)
  | bias (a n : Nat)
  | clamp (a : Nat)
  | clampOne (coin : Nat) (v : Bool)
  | free (a : Nat)
  | freeOne (coin : Nat)
  | freeAll
  | beta (b : Word)
  | mode (wn ws wc : Bool) (a : Nat)
  | sweep (n : Nat)
  | pick (n : Nat)
  | read (a dst : Nat)
  | stateLoad (a : Nat)
  | stateStore (a : Nat)
  | reset (all : Bool)
  deriving DecidableEq, Repr

/-- A queued Mint command with its poster (R265, R280). -/
structure MintCommand where
  gid : Nat
  idx : Nat
  uid : Nat
  eff : Mask
  addr : Dword
  op : MintOp
  deriving DecidableEq, Repr

/-- The coupling store: by coin, the local and the boundary slots with their values and indices (R262, R268). -/
structure Couplings where
  locals_ : List (List (Int × Nat))
  bounds : List (List (Int × Nat))
  deriving DecidableEq, Repr

/-- The image record: where the last valid image lies, in which partition, and its header (R262). -/
structure ImageRecord where
  addr : Dword
  part : Nat
  nc : Nat
  nl : Nat
  nb : Nat
  nt : Nat
  ncol : Nat
  deriving DecidableEq, Repr

/-- A valid image quantised: its record, colours, boundary table of die, core and coin, coupling store and JSC (R267, R268). -/
structure LoadedImage where
  record : ImageRecord
  colours : List Nat
  table : List (Nat × Nat × Nat)
  store : Couplings
  jsc : Word
  deriving DecidableEq, Repr

/-- What a mode block writes: the noise mode with its key, SWEEP, and the clearing enable, S and TMO (R277). -/
structure ModeWrite where
  noise : Option (Bool × Dword)
  sweep : Option Word
  clearing : Option (Bool × Nat × Nat)
  deriving DecidableEq, Repr

/-- A command that waits for its subscriptions to be taken: what it does once they are, and whether one was refused (R287, R408). -/
structure Joining where
  cmd : MintCommand
  does : LoadedImage ⊕ ModeWrite
  refused : Bool
  deriving DecidableEq, Repr

/-- A subscription a publisher serves (R408): the subscriber's die and core, and the coins in list order. -/
structure Served where
  die : Nat
  core : Nat
  coins : List Nat
  deriving DecidableEq, Repr

/-- A publication received (R287, R288): publisher, label, and the listed coins' states. -/
structure Received where
  die : Nat
  core : Nat
  label : Word
  states : List (Nat × Bool)
  deriving DecidableEq, Repr

/-- The Mint of a core (R262). `coins`, `clamps` hold bit i for coin i, `probes` the 64 probe coins; `stalled` counts the cycles of a stall, `started` is the last sweep begun since clearing started; `tag` names the partition that loaded the coupling store, `stale` says that the store must be read again before any command (R292); `current` is a sweep or step command under way, with what it has left; `joining` is a command that waits for its subscriptions. -/
structure Mint where
  coins : BitVec 4096
  probes : BitVec 64
  clamps : BitVec 4096
  colours : List Nat
  coupling : Option Couplings
  tag : Option Nat
  stale : Bool
  table : List (Nat × Nat × Nat)
  image : Option ImageRecord
  jsc : Word
  bsc : Word
  biases : List Int
  beta : Word
  kj : Nat
  kb : Nat
  physical : Bool
  key : Dword
  sweep : Word
  counts : List Nat
  scnt : Nat
  clearing : Bool
  staleness : Nat
  tmo : Nat
  subs : List (Nat × Nat × List Nat)
  served : List Served
  received : List Received
  firstLabels : List (Nat × Nat × Word)
  epoch : Nat
  epochs : List (Nat × Nat × Nat)
  lastStates : List (Nat × Nat × Nat × Bool)
  pc : Nat
  pn : Nat
  asyf : Bool
  satf : Bool
  cpv : Bool
  stalls : Nat
  last : Nat
  queue : List MintCommand
  current : Option (MintCommand × Nat)
  joining : Option Joining
  block : Option Block
  stalled : Option Nat
  started : Option Word
  poisoned : List Nat
  deriving DecidableEq, Repr

/-- The Mint after the Mint reset of R263. -/
def Mint.clear : Mint :=
  { coins := 0, probes := 0, clamps := 0, colours := [], coupling := none, tag := none, stale := false, table := [], image := none, jsc := 0, bsc := 0, biases := [], beta := 0, kj := 0, kb := 0,
    physical := false, key := 0, sweep := 0, counts := [], scnt := 0, clearing := false, staleness := 0, tmo := 0, subs := [], served := [],
    received := [], firstLabels := [], epoch := 0, epochs := [], lastStates := [], pc := 0, pn := 0, asyf := false, satf := false, cpv := false, stalls := 0, last := 0,
    queue := [], current := none, joining := none, block := none, stalled := none, started := none, poisoned := [] }

/-- A core (R179 to R202, R385); `window` counts the lease windows that have ended. -/
structure Core where
  clock : Nat
  window : Nat
  lfact : Nat
  lthresh : Nat
  pipes : Bank Pipe 4
  l1 : List L1Line
  victims : List (Nat × Nat)
  windowLost : Nat
  tlb : List TlbEntry
  predictor : List PredictorEntry
  copies : List Copy
  nextAge : Nat
  matrix : Matrix
  mint : Mint
  deriving DecidableEq, Repr

/-! ### The die -/

/-- A cluster reservation (R297): the serial number of the queued record that holds it, its cluster, its priority, the cycle of its start, and whether it has lapsed. -/
structure Reservation where
  serial : Nat
  cluster : Nat
  priority : Nat
  start : Nat
  lapsed : Bool
  deriving DecidableEq, Repr

/-- A line of an L2 (R308, R400): whether it differs from what its base die holds, whether it was allocated on a write and has not been read since, and which of its bytes are then valid. -/
structure L2Line where
  line : Nat
  dirty : Bool
  unread : Bool
  valid : BitVec 128
  deriving DecidableEq, Repr

/-- A compute die (R293 to R297, R307 to R328, R403, R427). -/
structure Die where
  inReset : Bool
  cores : Bank Core 96
  cls : Bank Memory 12
  chp : Memory
  time : Dword
  timeFrac : Nat
  tofs : Dword
  trate : Dword
  cycle : Nat
  l2 : List L2Line
  owned : List (Nat × Nat)
  homeMap : List (Nat × RegionEntry)
  commits : List SliceRef
  reservations : List Reservation
  step : Nat
  temp : Nat
  capped : Bool
  thermal : Bool
  power : Bool
  corrected : List (Nat × Nat)
  deriving DecidableEq, Repr

/-! ### Work -/

/-- A continuation record as read (R358). -/
structure Record where
  addr : Nat
  code : Dword
  frame : Dword
  join : Dword
  completion : Dword
  levels : Dword
  shape : Dword
  placement : Dword
  arg : Dword
  deriving DecidableEq, Repr

/-- A record in a queue (R361 to R363). `order` is the address that sorts it, `bitmap` and `firstArg` those of its launch; `serial` tells it from every other record enqueued, of its address, too. -/
structure Queued where
  part : Nat
  die : Nat
  record : Record
  order : Nat
  armed : Bool
  stamp : Nat
  pops : Nat
  priority : Nat
  bitmap : Option Dword
  firstArg : Dword
  launchUnit : Bool
  launchSerial : Nat
  serial : Nat
  deriving DecidableEq, Repr

/-- A running unit (R358, R366, R369, R370); `stage` is 1 once the first two steps of its completion are done. -/
structure UnitState where
  uid : Nat
  unitId : Nat
  part : Nat
  record : Record
  bitmap : Option Dword
  firstArg : Dword
  launchUnit : Bool
  launchSerial : Nat
  groups : Nat
  cycles : Nat
  pendingCancel : Option Nat
  budgetOut : Bool
  cancelled : Option Nat
  stage : Nat
  deriving DecidableEq, Repr

/-- A termination round of a dynamic graph (R368): the die the token stands at, whether it is black, whether the round is for waiting units, and whether the host or the control die has enqueued during it. -/
structure TokenRound where
  die : Nat
  black : Bool
  waiters : Bool
  host : Bool
  deriving DecidableEq, Repr

/-- A live level object (R360, R368). -/
structure Level where
  part : Nat
  key : LevelKey
  count : Nat
  errors : Nat
  firstCause : Option Nat
  dyn : Bool
  bitmap : Option Dword
  blk : BitVec 8
  token : Option TokenRound
  deriving DecidableEq, Repr

/-- An entry of a level log (R360). -/
structure LevelLogEntry where
  key : LevelKey
  errors : Nat
  firstCause : Option Nat
  deriving DecidableEq, Repr

/-- An enqueue waiting for queue area (R361) or for its join counter (R466); `issuer` is the waiting slice, none for the host, `unread` the address of a host's record that has not been read, and `block` the fault or migration that it waits for. -/
structure WaitingEnqueue where
  part : Nat
  records : List Queued
  issuer : Option SliceRef
  unread : Option Dword
  block : Option Block
  deriving DecidableEq, Repr

/-- A control-die access to a counter or bitmap that waits for the answer to a page fault (R466). -/
structure CounterAccess where
  part : Nat
  va : Dword
  setBits : Option (BitVec 64)
  uid : Option Nat
  block : Block
  deriving DecidableEq, Repr

/-! ### Address spaces and partitions -/

/-- A fault entry (R386). -/
structure FaultEntry where
  seq : Nat
  vpage : Nat
  unitId : Nat
  die : Nat
  core : Nat
  cause : Nat
  kind : Nat
  answer : Option Bool
  deriving DecidableEq, Repr

/-- A directory entry (R390, R392); times in nanoseconds of the control die. `source` and `target` are the ends of a move, `hostHeld` the host's requests that wait for its end, and the frames those that firmware has given the page on each side. -/
structure DirEntry where
  vpage : Nat
  home : PageHome
  source : PageHome
  target : PageHome
  moves : Nat
  wstart : Option Nat
  pinUntil : Nat
  pinned : Bool
  hostHeld : Nat
  devFrame : Option Nat
  hostFrame : Option Nat
  turn : Nat
  deriving DecidableEq, Repr

/-- A page that firmware has mapped: its first address, its frame and its bytes (R379). -/
structure MappedPage where
  va : Nat
  frame : Nat
  bytes : Nat
  deriving DecidableEq, Repr

/-- An active barrier slot of HBAR (R304, R305, R459): its level, place, partition, id and key, the expected and the counted arrivals, and the groups waiting on it. -/
structure BarrierSlot where
  level : Nat
  place : Nat
  part : Nat
  id : Nat
  key : Nat
  expected : Nat
  count : Nat
  waiting : List Nat
  deriving DecidableEq, Repr

/-- A slot of a job's coordinator (R305, R459): the expected and the counted arrivals, and the packages and groups that wait. -/
structure JobSlot where
  job : Nat
  id : Nat
  expected : Nat
  count : Nat
  waiting : List (Nat × Nat)
  deriving DecidableEq, Repr

/-- An entry of a partition's error log (R417). -/
structure ErrorLogEntry where
  cause : Nat
  site : Option ErrorSite
  deriving DecidableEq, Repr

/-- A publication or subscription under way between Mints (R408, R409, R411): from and to a core; `label` is none for a subscription; `first` marks the publication that a subscriber receives first, and `epoch` counts the publisher's restarts, so that the order of arrival decides nothing (R277, R287, R288, R409). -/
structure ClearPacket where
  fromDie : Nat
  fromCore : Nat
  toDie : Nat
  toCore : Nat
  label : Option Word
  coins : List Nat
  states : List Bool
  first : Bool
  epoch : Nat
  heldBy : Option Nat
  deriving DecidableEq, Repr

/-- A partition (R373, R379, R386, R392, R447); `leaving` holds while it is being pre-empted and its context has not left the dies (R374). -/
structure Partition where
  num : Nat
  dies : BitVec 8
  resident : Bool
  leaving : Bool
  ptroot : Nat
  tableNext : Nat
  tableEnd : Nat
  walked : List Nat
  mapped : List MappedPage
  routines : Bank (Option (List Word)) 16
  thrashN : Nat
  thrashW : Nat
  thrashT : Nat
  queueCap : Nat
  faults : List FaultEntry
  nextSeq : Nat
  ending : Bool
  errorLog : List ErrorLogEntry
  levelLog : List LevelLogEntry
  directory : List DirEntry
  peers : Bank PeerEntry 256
  lctl : List (Nat × Nat × Nat × Nat)
  savedCls : List (Nat × Bank Memory 12)
  savedChp : List (Nat × Memory)
  savedCores : List (Nat × Nat × Core)
  savedClear : List ClearPacket
  deriving DecidableEq, Repr

/-- What Smivik still reads of a partition that has ended: its error log and its level log (R360, R417). -/
structure EndedPartition where
  num : Nat
  errorLog : List ErrorLogEntry
  levelLog : List LevelLogEntry
  deriving DecidableEq, Repr

/-- An entry of a park list (R169): the waiting lane, the physical place of its word, whether it waits for full and takes the word, its parking time, whether it has been woken, and whether a shootdown alone has woken it, so that no unit is spent (R173). -/
structure ParkEntry where
  ref : SliceRef
  lane : Nat
  space : Space
  home : Nat
  word : Nat
  wantsFull : Bool
  takes : Bool
  stamp : Nat
  woken : Bool
  free : Bool
  deriving DecidableEq, Repr

/-- A lane of a form or atomic that the control die is to perform on a host page (R395). -/
structure RemoteRequest where
  ref : SliceRef
  lane : Nat
  pa : Nat
  deriving DecidableEq, Repr

/-! ### Base dies -/

/-- A request that an L2 slice or the control die makes of its own (R400): its TYPE, its port, the physical address of its line, and the bytes that a masked write names. -/
structure OwnRequest where
  kind : Nat
  port : Nat
  pa : Nat
  mask : BitVec 128
  deriving DecidableEq, Repr

/-- A request in flight at a base die (R400): its TYPE, its fields, 1 where it is turned away, and what the reply to a read carries. -/
structure BaseFlight where
  kind : Nat
  q : BaseRequest
  status : Nat
  data : List Byte
  marks : BitVec 16
  poison : Bool
  deriving DecidableEq, Repr

/-- A reply of a base die: its TYPE (8 RDR, 9 WACK), the requester's port and tag, STATUS, and what follows the header of a read reply: data, full/empty bits and the poison bit (R400). -/
structure BaseReply where
  type : Nat
  port : Nat
  tag : Nat
  status : Nat
  data : List Byte
  marks : BitVec 16
  poison : Bool
  deriving DecidableEq, Repr

/-- A base die and its stack (R399 to R402, R417, R419, R428): whether it is out of reset, the requests in flight, those that wait at their port for a free tag, and the last reply it sent. -/
structure BaseDie where
  up : Bool
  flights : List BaseFlight
  stalled : List BaseFlight
  replied : Option BaseReply
  llc : List Nat
  doubleRefresh : Bool
  halfBandwidth : Bool
  rowErrors : List (Nat × Nat)
  corrected : List (Nat × Nat)
  spared : List Nat
  scrubbed : List Nat
  deriving DecidableEq, Repr

/-- A region-table rewrite under way (R398): the new entries, the dies and base dies that have acknowledged, and the requests that wait for the new generation: those that have arrived, by kind, and the device's own. -/
structure Rewrite where
  entries : List RegionEntry
  dieAcks : List Nat
  baseAcks : List Nat
  waiting : List (Nat × BaseRequest)
  own : List OwnRequest
  deriving DecidableEq, Repr

/-! ### The fabric -/

/-- A fabric link (R448 to R450). -/
structure Link where
  up : Bool
  retr : Bool
  fail : Bool
  peer : Nat
  retrains : Nat
  crcFails : Nat
  attempts : Nat
  expected : Nat
  nextSeq : Nat
  replay : List Nat
  asked : Option Nat
  deriving DecidableEq, Repr

/-- A link as a control-die reset leaves it (R450). -/
def Link.down : Link := ⟨false, false, false, 0, 0, 0, 0, 0, 0, [], none⟩

/-- A packet the source keeps until its end-to-end acknowledgement (R451): the die, core and number of the copy that it serves, the time it was sent, and the path it was last sent on. -/
structure Kept where
  packet : Packet
  copy : Option (Nat × Nat × Nat)
  since : Nat
  path : Option (List (Nat × Nat))
  deriving DecidableEq, Repr

/-- The receiving end of a stream (R451, R452): the next ordered number, the accepted numbers, and the reorder buffer. -/
structure Inflow where
  src : Nat
  next : Nat
  accepted : List Nat
  reorder : List Packet
  deriving DecidableEq, Repr

/-! ### The whole device -/

/-- A firmware image in a flash slot (R419, R420). -/
structure FlashSlot where
  image : List Byte
  deriving DecidableEq, Repr

/-- What the device has told the host: a reply to a Smivik command or register read, oldest first (R386, R387, R417). -/
inductive HostReply where
  | status (ok : Bool)
  | notReady
  | register (value : Word)
  | report (bytes : List Byte)
  | memory (bytes : List Byte) (poison : Bool)
  | migration (retry : Bool)
  | fatal
  | error (entry : Option ErrorLogEntry)
  | level (entry : Option LevelLogEntry)
  | time (t : Dword)
  deriving DecidableEq, Repr

/-- What the host reads: a register of a port's BAR0 (R11, R376, R421, R429, R450); through Smivik an entry of the error log or the level log of a partition, resident or ended, or of the errors of no partition (R360, R417), the device's time (R407), the Varlia certificate (R424), and what the identity key has signed at this boot (R424). -/
inductive HostRead where
  | register (port offset : Nat)
  | errorEntry (part : Option Nat) (k : Nat)
  | levelEntry (part k : Nat)
  | time
  | varliaCertificate
  | attestationCertificate
  deriving DecidableEq, Repr

/-- The subgang now issuing: group, gang index in the group, subgang label. -/
structure Issuer where
  gid : Nat
  gang : Nat
  sub : Nat
  deriving DecidableEq, Repr

/-- The state of the device. -/
structure State where
  -- the device
  mem : Memory
  groups : List Group
  dies : Bank Die 8
  parks : List ParkEntry
  remotes : List RemoteRequest
  barriers : List BarrierSlot
  hbarWaiting : List (Nat × Nat × Nat × Nat)
  -- the control die
  partitions : List Partition
  ended : List EndedPartition
  units : List UnitState
  queued : List Queued
  levels : List Level
  enqueues : List WaitingEnqueue
  launchClusters : List (Nat × Nat)
  counterAccesses : List CounterAccess
  regions : List RegionEntry
  oldRegions : List RegionEntry
  generation : Nat
  rewrite : Option Rewrite
  bases : Bank BaseDie 16
  sems : Bank Nat 16
  semLastLoser : Bank Nat 16
  bootstat : Word
  portsUp : BitVec 2
  flashA : Option FlashSlot
  flashB : Option FlashSlot
  preferB : Bool
  pendingCommit : Option Nat
  mailbox : List Byte
  flashEvents : Nat
  rollback : Nat
  revoked : BitVec 4
  keyHashes : List (List Byte)
  deviceSecret : List Byte
  identitySeed : List Byte
  serial : List Byte
  fusesLocked : Bool
  attestationSeed : Option (List Byte)
  imageDigest : List Byte
  imageSvn : Nat
  moduleCap : Nat
  now : Nat
  nanos : Nat
  nextGid : Nat
  nextUid : Nat
  nextStamp : Nat
  nextCopy : Nat
  nextLaunch : Nat
  links : Bank Link 24
  routes : List RouteEntry
  package : Nat
  outNext : List (Nat × Nat)
  kept : List Kept
  inflow : List Inflow
  clearPackets : List ClearPacket
  parkedPackets : List (Packet × Block)
  coordinator : List JobSlot
  jobAnswers : List (Nat × List Nat × Bool)
  jobWaiting : List JobArrival
  jobMessages : List JobArrival
  ucie : List Bool
  hostLines : List (Nat × Nat)
  backInvalidates : List Nat
  -- the host's side
  replies : List HostReply
  msix : Nat
  deviceLog : List ErrorLogEntry
  -- the model's own
  agenda : List Instr
  asks : List HostRead
  issuer : Option Issuer
  fresh : Nat
  deriving DecidableEq, Repr

/-! ### Reset -/

/-- A slice as R16 starts it, with `n` lane registers at code pointer `pc`. -/
def Slice.start (n : Nat) (pc : Dword) : Slice :=
  { v := List.replicate n ⟨Lanes.all 0, 15, Lanes.all none⟩, s := Bank.all 64 ⟨0, true, none⟩, m := Bank.all 8 0,
    w := Bank.all 8 none, pc := pc, active := 15, stack := [], spilled := 0, retired := 0, xf := Lanes.all 0, fmt := 0, rng := Lanes.all 0,
    store := Lanes.all Memory.blank, trap := ⟨0, 0, 0, 0, 0⟩, regpc := 0, retry := ⟨24, 1024, 0, 0⟩, txstat := 0, tx := none, latch := none,
    copies := ⟨0, [], []⟩, matrix := ⟨0, [], MatrixBatch.opened 0⟩, mintPosted := 0, mintFailures := [], wait := none, sub := 0,
    ended := false, owed := [], getrs := [], pathStores := [] }

/-- A core after core reset (R37, R185, R235, R263, R319, R385). -/
def Core.reset : Core :=
  { clock := 0, window := 0, lfact := 900, lthresh := 128, pipes := Bank.all 4 Pipe.idle, l1 := [], victims := [], windowLost := 0, tlb := [],
    predictor := [], copies := [], nextAge := 0, matrix := Matrix.clear, mint := Mint.clear }

/-- Compute die `n` as a die reset leaves it (R328, R403), still held in reset. -/
def Die.held : Die :=
  { inReset := true, cores := Bank.all 96 Core.reset, cls := Bank.all 12 Memory.blank, chp := Memory.blank, time := 0, timeFrac := 0, tofs := 0,
    trate := 0x10000000000, cycle := 0, l2 := [], owned := [], homeMap := [], commits := [], reservations := [], step := 16,
    temp := 0, capped := false, thermal := false, power := false, corrected := [] }

/-- A base die after a control-die reset. -/
def BaseDie.start : BaseDie := ⟨false, [], [], none, [], false, false, [], [], [], []⟩

/-- The region-table entry of control-die reset: the whole of device memory (R396). -/
def RegionEntry.deviceMemory : RegionEntry :=
  { kind := 0, stackMask := 0xFFFF, hdie := 0, port := 0, sofs := 0, size := 1023, base := 0 }

/-- The region-table entry of the device registers (R378, R396). -/
def RegionEntry.registers : RegionEntry :=
  { kind := 2, stackMask := 0, hdie := 0, port := 0, sofs := 0, size := 3, base := 0x100000 }

/-- The device at control-die reset, before its boot ROM has run (R376, R396, R419, R421, R426, R450). -/
def State.reset : State :=
  { mem := Memory.blank, groups := [], dies := Bank.all 8 Die.held, parks := [], remotes := [], barriers := [], hbarWaiting := [],
    partitions := [], ended := [], units := [], queued := [], levels := [], enqueues := [], launchClusters := [], counterAccesses := [], regions := [RegionEntry.deviceMemory, RegionEntry.registers], oldRegions := [],
    generation := 0, rewrite := none, bases := Bank.all 16 BaseDie.start, sems := Bank.all 16 0, semLastLoser := Bank.all 16 1,
    bootstat := 0, portsUp := 0, flashA := none, flashB := none, preferB := false, pendingCommit := none, mailbox := [], flashEvents := 0, rollback := 0, revoked := 0,
    keyHashes := List.replicate 4 [], deviceSecret := List.replicate 32 0xFF, identitySeed := List.replicate 32 0, serial := List.replicate 16 0,
    fusesLocked := false, attestationSeed := none, imageDigest := [], imageSvn := 0, moduleCap := 3200, now := 0, nanos := 0, nextGid := 0,
    nextUid := 0, nextStamp := 0, nextCopy := 0, nextLaunch := 0, links := Bank.all 24 Link.down, routes := [], package := 0,
    outNext := [], kept := [], inflow := [], clearPackets := [], parkedPackets := [], coordinator := [], jobAnswers := [], jobWaiting := [], jobMessages := [], ucie := List.replicate 36 false,
    hostLines := [], backInvalidates := [], replies := [], msix := 0, deviceLog := [], agenda := [], asks := [], issuer := none, fresh := 0 }

/-- Why the device stops with a fault. -/
inductive Fault where
  /-- An instruction was executed with no subgang selected to issue it. Raised by every instruction's meaning; safe, since the device issues only from a selected subgang (R194). -/
  | noIssuer
  deriving DecidableEq, Repr

/-- Why the device gives an instruction no meaning. -/
inductive Refusal where
  /-- The instruction has no meaning in this model yet. Raised by the arms of `exec` alone; safe. -/
  | notModelled (mnemonic : String)
  deriving DecidableEq, Repr

/-- What a step answers. -/
abbrev Outcome := Host.Outcome State Fault Refusal

end Sys2Proof.Machine
end

