-- ==== Sys2Proof/Machine/Memory.lean ====
section
/-! DEFINITION. Bytes, full/empty bits and poison marks of one span of memory, kept in one canonical form (R10, R39, R393, R413). -/

namespace Sys2Proof.Machine

/-- The byte listed for an address, 0 when none is. -/
def cellGet (l : List Host.Cell) (a : Nat) : Byte :=
  match l.find? (fun c => c.1 == a) with
  | some c => c.2
  | none => 0

/-- A byte put before the first listed byte of a higher address. -/
def cellInsert : List Host.Cell → Nat → Byte → List Host.Cell
  | [], a, x => [(a, x)]
  | c :: rest, a, x => if a < c.1 then (a, x) :: c :: rest else c :: cellInsert rest a x

/-- The list with the byte at `a` replaced; a zero byte is not listed. -/
def cellSet (l : List Host.Cell) (a : Nat) (x : Byte) : List Host.Cell :=
  if x = 0 then l.filter (fun c => c.1 != a) else cellInsert (l.filter (fun c => c.1 != a)) a x

/-- Whether a rising list holds `a`. -/
def risingMem (l : List Nat) (a : Nat) : Bool := l.any (fun b => b == a)

/-- A number put before the first higher one. -/
def risingInsert : List Nat → Nat → List Nat
  | [], a => [a]
  | b :: rest, a => if a < b then a :: b :: rest else b :: risingInsert rest a

/-- The rising list with `a` put in. -/
def risingAdd (l : List Nat) (a : Nat) : List Nat := if risingMem l a then l else risingInsert l a

/-- The rising list with `a` taken out. -/
def risingDel (l : List Nat) (a : Nat) : List Nat := l.filter (fun b => b != a)

/-- Addresses strictly rise and no listed byte is zero. -/
def cellsWf (l : List Host.Cell) : Bool := decide (l.Pairwise (fun a b => a.1 < b.1)) && l.all (fun c => c.2 != 0)

/-- The numbers strictly rise. -/
def risingWf (l : List Nat) : Bool := decide (l.Pairwise (· < ·))

/-- The canonical form: equal memories are equal data. -/
def Memory.wf (m : Memory) : Bool := cellsWf m.bytes && risingWf m.empties && risingWf m.poison

/-- The byte at an address. -/
def Memory.byte (m : Memory) (a : Nat) : Byte := cellGet m.bytes a

/-- The memory with one byte written. -/
def Memory.setByte (m : Memory) (a : Nat) (x : Byte) : Memory := { m with bytes := cellSet m.bytes a x }

/-- `n` bytes from an address, lowest first. -/
def Memory.bytesAt (m : Memory) (a : Nat) : Nat → List Byte
  | 0 => []
  | n + 1 => m.byte a :: m.bytesAt (a + 1) n

/-- Bytes written from an address, lowest first. -/
def Memory.setBytes (m : Memory) (a : Nat) : List Byte → Memory
  | [] => m
  | x :: rest => (m.setByte a x).setBytes (a + 1) rest

/-- A little-endian number (R10). -/
def fromBytes : List Byte → Nat
  | [] => 0
  | x :: rest => x.toNat + 256 * fromBytes rest

/-- The `n` little-endian bytes of a number (R10). -/
def toBytes : Nat → Nat → List Byte
  | 0, _ => []
  | n + 1, x => BitVec.ofNat 8 x :: toBytes n (x / 256)

/-- The little-endian number in `n` bytes at an address. -/
def Memory.num (m : Memory) (a n : Nat) : Nat := fromBytes (m.bytesAt a n)

/-- The memory with `n` bytes of a number written at an address. -/
def Memory.setNum (m : Memory) (a n x : Nat) : Memory := m.setBytes a (toBytes n x)

/-- The full/empty bit of the aligned word holding an address: true is full. -/
def Memory.full (m : Memory) (a : Nat) : Bool := !risingMem m.empties (a / 8)

/-- The memory with the bit of the word holding an address set. -/
def Memory.setFull (m : Memory) (a : Nat) (f : Bool) : Memory :=
  { m with empties := if f then risingDel m.empties (a / 8) else risingAdd m.empties (a / 8) }

/-- The bytes of a unit of poison: a line of `glb`, a word of any other space (R412). -/
def poisonUnit : Space → Nat
  | .glb => 128
  | _ => 8

/-- The address of the first poisoned unit among those that `n` bytes at `a` touch. -/
def Memory.poisonAt (m : Memory) (unit a n : Nat) : Option Nat :=
  if n = 0 then none
  else (((List.range ((a + n - 1) / unit + 1 - a / unit)).map (· + a / unit)).find? (risingMem m.poison)).map (· * unit)

/-- Poison marks on every unit that `n` bytes at `a` touch. -/
def Memory.addPoison (m : Memory) (unit a n : Nat) : Memory :=
  if n = 0 then m
  else { m with poison := ((List.range ((a + n - 1) / unit + 1 - a / unit)).map (· + a / unit)).foldl risingAdd m.poison }

/-- A write of `n` bytes at `a` clears the marks of the units it covers whole (R413). -/
def Memory.clearPoison (m : Memory) (unit a n : Nat) : Memory :=
  { m with poison := ((List.range ((a + n) / unit - (a + unit - 1) / unit)).map (· + (a + unit - 1) / unit)).foldl risingDel m.poison }

/-- A write of `n` bytes of data: bytes, and the poison they bring or clear (R413, R414). -/
def Memory.store (m : Memory) (unit a : Nat) (data : List Byte) (poisoned : Bool) : Memory :=
  let m := m.setBytes a data
  if poisoned then m.addPoison unit a data.length else m.clearPoison unit a data.length

/-- The cells of a span `[a, a + n)` removed, its words full and unpoisoned: zero bytes. -/
def Memory.eraseSpan (m : Memory) (unit a n : Nat) : Memory :=
  { bytes := m.bytes.filter (fun c => !(decide (a ≤ c.1) && decide (c.1 < a + n)))
    empties := m.empties.filter (fun w => !(decide (a ≤ 8 * w) && decide (8 * w < a + n)))
    poison := m.poison.filter (fun u => !(decide (a ≤ unit * u) && decide (unit * u < a + n))) }

/-- Zero bytes written over a span `[a, a + n)`; the full/empty bits of its words stay (R168, R413). -/
def Memory.zeroSpan (m : Memory) (unit a n : Nat) : Memory :=
  { m with
    bytes := m.bytes.filter (fun c => !(decide (a ≤ c.1) && decide (c.1 < a + n)))
    poison := m.poison.filter (fun u => !(decide (a ≤ unit * u) && decide (unit * u < a + n))) }

/-- The span `[a, a + n)` of `m` moved to start at `b`, of poison units `u` and `v`. -/
def Memory.copySpan (dst m : Memory) (a n b v : Nat) : Memory :=
  let d := dst.eraseSpan v b n
  let d := (m.bytes.filter (fun c => decide (a ≤ c.1) && decide (c.1 < a + n))).foldr (fun c d => d.setByte (c.1 - a + b) c.2) d
  (m.empties.filter (fun w => decide (a ≤ 8 * w) && decide (8 * w < a + n))).foldl (fun d w => d.setFull (8 * w - a + b) false) d

end Sys2Proof.Machine
end

