-- ==== Sys2Proof/Machine/Parts.lean ====
section
/-! DEFINITION. The parts of the state and how each is read and changed: groups, slices, cores, dies, registers, the mask stack; the end of transactions and of slices. -/

namespace Sys2Proof.Machine

/-! ### Parts of the state -/

/-- The running group with number `gid`. -/
def State.group? (s : State) (gid : Nat) : Option Group := s.groups.find? (fun g => g.gid == gid)

/-- A group without slices, read where no such group runs. -/
def Group.vacant : Group :=
  { gid := 0, uid := 0, part := 0, die := 0, core := 0, index := 0, regs := 0, pages := 0, gangSize := 1, slices := [], gangs := [],
    scr := Memory.blank, backing := Memory.blank, pageState := [], absent := [], unpins := [], queues := Bank.all 16 Queue.closed, gsat := false, gsyncGen := 0, shadow := false, shadows := [], trail := [],
    swapped := false }

/-- The group with number `gid`. -/
def State.group (s : State) (gid : Nat) : Group := (s.group? gid).getD Group.vacant

/-- The state with group `gid` changed. -/
def State.modGroup (s : State) (gid : Nat) (f : Group → Group) : State :=
  { s with groups := s.groups.map (fun g => if g.gid = gid then f g else g) }

/-- Slice `i` of a group. -/
def Group.slice (g : Group) (i : Nat) : Slice := g.slices.getD i (Slice.start 0 0)

/-- The group with slice `i` changed. -/
def Group.modSlice (g : Group) (i : Nat) (f : Slice → Slice) : Group := { g with slices := g.slices.modify i f }

/-- The slice at a place. -/
def State.slice (s : State) (r : SliceRef) : Slice := (s.group r.gid).slice r.idx

/-- The state with the slice at a place changed. -/
def State.modSlice (s : State) (r : SliceRef) (f : Slice → Slice) : State := s.modGroup r.gid (fun g => g.modSlice r.idx f)

/-- Gang `k` of a group. -/
def Group.gang (g : Group) (k : Nat) : Gang := g.gangs.getD k ⟨0, 0, 0, 0, 0, 0, false, 0, [], none, false⟩

/-- The group with gang `k` changed. -/
def Group.modGang (g : Group) (k : Nat) (f : Gang → Gang) : Group := { g with gangs := g.gangs.modify k f }

/-- The state with a gang changed. -/
def State.modGang (s : State) (gid k : Nat) (f : Gang → Gang) : State := s.modGroup gid (fun g => g.modGang k f)

/-- Compute die `n`. -/
def State.die (s : State) (n : Nat) : Die := s.dies.getD n Die.held

/-- The state with a die changed. -/
def State.modDie (s : State) (n : Nat) (f : Die → Die) : State := { s with dies := s.dies.modify n f }

/-- A core. -/
def State.core (s : State) (c : CoreRef) : Core := (s.die c.die).cores.getD c.core Core.reset

/-- The state with a core changed. -/
def State.modCore (s : State) (c : CoreRef) (f : Core → Core) : State :=
  s.modDie c.die (fun d => { d with cores := d.cores.modify c.core f })

/-- The core a group runs on. -/
def Group.coreRef (g : Group) : CoreRef := ⟨g.die, g.core⟩

/-- The partition with number `n`. -/
def State.part? (s : State) (n : Nat) : Option Partition := s.partitions.find? (fun p => p.num == n)

/-- The state with a partition changed. -/
def State.modPart (s : State) (n : Nat) (f : Partition → Partition) : State :=
  { s with partitions := s.partitions.map (fun p => if p.num = n then f p else p) }

/-- The running unit with number `uid`. -/
def State.unit? (s : State) (uid : Nat) : Option UnitState := s.units.find? (fun u => u.uid == uid)

/-- The state with a unit changed. -/
def State.modUnit (s : State) (uid : Nat) (f : UnitState → UnitState) : State :=
  { s with units := s.units.map (fun u => if u.uid = uid then f u else u) }

/-- The record of a unit, all zero where no such unit runs. -/
def State.recordOf (s : State) (uid : Nat) : Record :=
  match s.unit? uid with
  | some u => u.record
  | none => ⟨0, 0, 0, 0, 0, 0, 0, 0, 0⟩

/-- A counter that moves at every use, so that each free value is its own. -/
def State.tick (s : State) : State := { s with fresh := s.fresh + 1 }

/-! ### Bits -/

/-- Bits [hi:lo] of a number. -/
def bits (x hi lo : Nat) : Nat := x / 2 ^ lo % 2 ^ (hi + 1 - lo)

/-- Bit `i` of a number. -/
def bit (x i : Nat) : Bool := x / 2 ^ i % 2 == 1

/-- A 32-bit register value from a number. -/
def word (n : Nat) : Word := BitVec.ofNat 32 n

/-- A 64-bit value from a number. -/
def dword (n : Nat) : Dword := BitVec.ofNat 64 n

/-- A 64-bit value from its halves. -/
def joinWords (lo hi : Word) : Dword := hi ++ lo

/-- Whether an address is canonical in 57 bits: bits [63:57] equal bit 56 (R155). -/
def canonical (a : Dword) : Bool := a.extractLsb' 56 8 == 0 || a.extractLsb' 56 8 == 0xFF

/-- Sign extension of the low `w` bits of a number to 64 bits. -/
def sext64 (w x : Nat) : Dword := BitVec.ofInt 64 (signedOf' w x)
where
  signedOf' (w x : Nat) : Int := if 2 ^ w ≤ 2 * (x % 2 ^ w) then ((x % 2 ^ w : Nat) : Int) - (2 : Int) ^ w else ((x % 2 ^ w : Nat) : Int)

/-! ### Registers -/

/-- Whether a specifier names a `v` register (R47). -/
def specIsV (x : Nat) : Bool := decide (x < 128)
/-- Whether a specifier names an `s` register (R47). -/
def specIsS (x : Nat) : Bool := decide (128 ≤ x) && decide (x < 192)

/-- A lane register, zero and full where the index lies above the allocation. -/
def Slice.vreg (sl : Slice) (n : Nat) : VReg := sl.v.getD n ⟨Lanes.all 0, 15, Lanes.all none⟩

/-- A slice register. -/
def Slice.sreg (sl : Slice) (n : Nat) : SReg := sl.s.getD n ⟨0, true, none⟩

/-- The value of a register specifier in a lane. -/
def Slice.reg (sl : Slice) (spec lane : Nat) : Word :=
  if spec < 128 then (sl.vreg spec).val.get lane else (sl.sreg (spec - 128)).val

/-- The lanes of a mask in which a register specifier is empty (R22, R23). -/
def Slice.emptyIn (sl : Slice) (spec : Nat) (eff : Mask) : Mask :=
  if spec < 128 then eff &&& ~~~(sl.vreg spec).full else if (sl.sreg (spec - 128)).full then 0 else eff

/-- The poison mark of a register specifier in a lane (R413). -/
def Slice.poisonOf (sl : Slice) (spec lane : Nat) : Option Dword :=
  if spec < 128 then (sl.vreg spec).poison.get lane else (sl.sreg (spec - 128)).poison

/-- One lane of a register written and set full, with the poison mark it takes (R22, R413). -/
def Slice.setLane (sl : Slice) (spec lane : Nat) (x : Word) (p : Option Dword) : Slice :=
  if spec < 128 then
    { sl with v := sl.v.modify spec (fun r => { val := r.val.set lane x, full := r.full ||| Mask.one lane, poison := r.poison.set lane p }) }
  else { sl with s := sl.s.modify (spec - 128) (fun _ => ⟨x, true, p⟩) }

/-- Per-lane values written in the lanes of a mask, ascending, so that an `s` register takes the highest active lane (R18). -/
def Slice.setLanes (sl : Slice) (spec : Nat) (eff : Mask) (x : Lanes Word) : Slice :=
  eff.lanes.foldl (fun sl i => sl.setLane spec i (x.get i) none) sl

/-- As `setLanes`, with poison marks (R414). -/
def Slice.setLanesP (sl : Slice) (spec : Nat) (eff : Mask) (x : Lanes Word) (p : Lanes (Option Dword)) : Slice :=
  eff.lanes.foldl (fun sl i => sl.setLane spec i (x.get i) (p.get i)) sl

/-- A pair of registers written from 64-bit values (R19). -/
def Slice.setPairs (sl : Slice) (spec : Nat) (eff : Mask) (x : Lanes Dword) : Slice :=
  let sl := sl.setLanes spec eff (Lanes.ofFn (fun i => (x.get i).extractLsb' 0 32))
  sl.setLanes (spec + 1) eff (Lanes.ofFn (fun i => (x.get i).extractLsb' 32 32))

/-- A register made empty in the lanes of a mask (R22). -/
def Slice.makeEmpty (sl : Slice) (spec : Nat) (eff : Mask) : Slice :=
  if spec < 128 then { sl with v := sl.v.modify spec (fun r => { r with full := r.full &&& ~~~eff }) }
  else if eff = 0 then sl else { sl with s := sl.s.modify (spec - 128) (fun r => { r with full := false }) }

/-- A register set full again with the value it had (R25). -/
def Slice.makeFull (sl : Slice) (spec : Nat) (eff : Mask) : Slice :=
  if spec < 128 then { sl with v := sl.v.modify spec (fun r => { r with full := r.full ||| eff }) }
  else if eff = 0 then sl else { sl with s := sl.s.modify (spec - 128) (fun r => { r with full := true }) }

/-- `n` registers from `spec` made empty. -/
def Slice.makeEmptyN (sl : Slice) (spec n : Nat) (eff : Mask) : Slice :=
  (List.range n).foldl (fun sl k => sl.makeEmpty (spec + k) eff) sl

/-- `n` registers from `spec` set full with the values they had. -/
def Slice.makeFullN (sl : Slice) (spec n : Nat) (eff : Mask) : Slice :=
  (List.range n).foldl (fun sl k => sl.makeFull (spec + k) eff) sl

/-- A mask register; `m0` reads 0b1111 (R20). -/
def Slice.mask (sl : Slice) (k : Nat) : Mask := if k = 0 then 15 else sl.m.getD k 0

/-- A mask register written; a write of `m0` is discarded (R20). -/
def Slice.setMask (sl : Slice) (k : Nat) (x : Mask) : Slice := if k = 0 then sl else { sl with m := sl.m.set k x }

/-- Flags ORed into `XF` of the lanes of a mask (R28). -/
def Slice.orFlags (sl : Slice) (eff : Mask) (f : Lanes Flags) : Slice :=
  { sl with xf := Lanes.merge eff sl.xf (Lanes.ofFn (fun i => sl.xf.get i ||| f.get i)) }

/-- A value that a long-latency producer owed reaches its register (R22). -/
def Slice.deliver (sl : Slice) (o : Owed) : Slice :=
  ((List.range o.regs).zip o.words).foldl (fun sl kw => sl.setLane (o.dst + kw.1) o.lane kw.2 o.poison) sl

/-- Whether no register of a slice is owed a value: each that a producer set empty is full again (R22, R150). -/
def Slice.drained (sl : Slice) : Bool := sl.owed.isEmpty && sl.v.all (fun x => x.full == 15) && sl.s.cells.all (fun x => x.full)

/-! ### The mask stack (R33, R34) -/

/-- Entries on the mask stack. -/
def Slice.depth (sl : Slice) : Nat := sl.stack.length + sl.spilled

/-- One word of each lane's lane store written; full/empty bits stay (R33). -/
def Slice.setSpillWord (sl : Slice) (off : Nat) (x : Lanes Word) : Slice :=
  { sl with store := Lanes.ofFn (fun i => (sl.store.get i).setNum off 4 (x.get i).toNat) }

/-- The `k`-th spilled entry written to the lane stores. -/
def Slice.spill (sl : Slice) (k : Nat) (e : StackEntry) : Slice :=
  sl.setSpillWord (0xFC - 4 * k)
    ⟨e.pc.extractLsb' 0 32, (e.pc.extractLsb' 32 25).zeroExtend 32, e.fmt.zeroExtend 32, e.mask.zeroExtend 32⟩

/-- The `k`-th spilled entry read back from the lane stores: the PC is a canonical 57-bit address, and retired lanes stay out of the mask (R33, R131, R155). -/
def Slice.spilledEntry (sl : Slice) (k : Nat) : StackEntry :=
  let rd (i : Nat) : Nat := (sl.store.get i).num (0xFC - 4 * k) 4
  ⟨sext64 57 (rd 0 + 2 ^ 32 * rd 1), BitVec.ofNat 4 (rd 3) &&& ~~~sl.retired, BitVec.ofNat 10 (rd 2)⟩

/-- An entry pushed; a full on-chip stack moves its oldest entry to the spill area (R33). -/
def Slice.push (sl : Slice) (e : StackEntry) : Slice :=
  if sl.stack.length < 32 then { sl with stack := e :: sl.stack }
  else
    match sl.stack.getLast? with
    | some old => { (sl.spill sl.spilled old) with stack := e :: sl.stack.dropLast, spilled := sl.spilled + 1 }
    | none => sl

/-- The stores of open paths once the stack is no deeper than `n`: those remain that some path B may still meet (R130). -/
def Slice.pathStoresAt (sl : Slice) (n : Nat) : List PathStore :=
  (sl.pathStores.map (fun (x : PathStore) => { x with low := min x.low n })).filter (fun x => x.paths.any (fun k => decide (k ≤ x.low)))

/-- The newest entry and the slice without it; room left on chip is refilled from the spill area (R33). -/
def Slice.pop (sl : Slice) : Option (StackEntry × Slice) :=
  match sl.stack with
  | [] => none
  | e :: rest =>
    if sl.spilled = 0 then some (e, { sl with stack := rest, pathStores := sl.pathStoresAt (sl.depth - 1) })
    else
      some (e, { sl with stack := rest ++ [sl.spilledEntry (sl.spilled - 1)], spilled := sl.spilled - 1,
                         pathStores := sl.pathStoresAt (sl.depth - 1) })

/-! ### The two paths of a SPLIT (R130, R174, R332) -/

/-- A store and the accesses that the slice makes now stand on different paths of one SPLIT: its path has ended, and the other runs. -/
def PathStore.apart (x : PathStore) : Bool := x.paths.contains x.low

/-- The heights on the mask stack of the entries of path B: an entry to which no active lane returns. -/
def Slice.pathHeights (sl : Slice) : List Nat :=
  let stack := sl.stack ++ (List.range sl.spilled).reverse.map sl.spilledEntry
  (List.range stack.length).filter (fun k =>
    match stack[stack.length - 1 - k]? with
    | some e => e.mask != 0 && e.mask &&& sl.active == 0
    | none => false)

/-- Whether a store stands at an address of a memory. -/
def PathStore.at_ (x : PathStore) (sp : Space) (home a : Nat) : Bool := x.space == sp && x.home == home && x.addr == a

/-- The slice has met what its other path stored at `n` bytes of a memory, before the place `cut` in the order of those stores: it sees nothing older from now on (R338). -/
def Slice.meets (sl : Slice) (cut : Nat) (sp : Space) (home a n : Nat) : Slice :=
  { sl with
    pathStores := sl.pathStores.mapIdx (fun j (x : PathStore) =>
      if decide (j < cut) && x.apart && x.space == sp && x.home == home && decide (a ≤ x.addr) && decide (x.addr < a + n) then { x with paths := x.paths.filter (fun k => decide (k < x.low)) } else x) }

/-- Bytes as a load finds them that comes, among the stores of the other path, at the place `cut`. -/
def Slice.sees (sl : Slice) (cut : Nat) (sp : Space) (home a : Nat) (now : List Byte) : List Byte :=
  if sl.pathStores.isEmpty then now
  else now.mapIdx (fun k b => match (sl.pathStores.drop cut).find? (fun x => x.apart && x.at_ sp home (a + k)) with | some x => x.was | none => b)

/-- Bytes as a store leaves them that comes, among the stores of the other path, at the place `cut`: what those after it have stored stays (R130). -/
def Slice.overtaken (sl : Slice) (cut : Nat) (sp : Space) (home a : Nat) (now data : List Byte) : List Byte :=
  if sl.pathStores.isEmpty then data
  else data.mapIdx (fun k b => if (sl.pathStores.drop cut).any (fun x => x.apart && x.at_ sp home (a + k)) then now.getD k b else b)

/-- A slice that stores over bytes: its own path's stores come after it, and a path B still to run may read what the bytes held. -/
def Slice.stores (sl : Slice) (sp : Space) (home a : Nat) (was : List Byte) : Slice :=
  let x := sl.meets sl.pathStores.length sp home a was.length
  if x.pathHeights.isEmpty then x
  else { x with pathStores := x.pathStores ++ was.mapIdx (fun k b => ⟨sp, home, a + k, b, x.depth, x.pathHeights⟩) }

/-- The newest `n` entries discarded. -/
def Slice.popN : Nat → Slice → Slice
  | 0, sl => sl
  | n + 1, sl =>
    match sl.pop with
    | some (_, sl') => Slice.popN n sl'
    | none => sl

/-- Lanes retired: they leave every entry's mask, a spilled entry's when it is read back, since its words keep what the spill wrote (R34, R131). -/
def Slice.dropLanes (sl : Slice) (eff : Mask) : Slice :=
  { sl with stack := sl.stack.map (fun e => { e with mask := e.mask &&& ~~~eff }), retired := sl.retired ||| eff }

/-! ### Transactions end (R325, R327) -/

/-- `TXSTAT` of an abort with a reason and a code; NLINES counts the set's lines. -/
def txstatAbort (reason code lines : Nat) : Word := word (reason * 2 ^ 24 + code % 256 * 2 ^ 16 + lines % 16 * 2 ^ 8)

/-- The abort of R325: the write set is discarded, the mask stack, active mask and `FMT` restored, and the slice goes on at the abort address once nothing is owed to it. -/
def Slice.abortTx (sl : Slice) (reason code : Nat) : Slice :=
  match sl.tx with
  | none => sl
  | some t =>
    let sl := Slice.popN (sl.depth - t.depth) sl
    { sl with tx := none, active := t.active, fmt := t.fmt, pc := t.abortPc, wait := if sl.drained then none else some (.abortDrain none),
              txstat := txstatAbort reason code t.lines.length }

/-- The abort of a transaction by its misuse, whose trap follows once no register is owed a value (R324, R325). -/
def Slice.abortMisuse (sl : Slice) (a : Dword) (t : Trap) : Slice :=
  { sl.abortTx 9 0 with wait := if (sl.abortTx 9 0).drained then none else some (.abortDrain (some (a, t))) }

/-- Whether a slice has an open region that can still restart (R150). -/
def Slice.restarts (sl : Slice) : Bool := sl.regpc != 0 && !sl.regpc.getLsbD 0

/-- The restart of a slice's open region, once nothing is owed to it (R150). -/
def Slice.restart (sl : Slice) : Slice :=
  { sl with regpc := sl.regpc ||| 1, pc := sl.regpc &&& ~~~3, wait := if sl.drained then none else some .restartDrain }

/-! ### Shadow execution (R197 to R201) -/

/-- The shadow of a slice, or its primary again in a launch without shadow execution. -/
def State.shadowOf (s : State) (r : SliceRef) : Shadow := (s.group r.gid).shadows.getD r.idx ⟨(s.group r.gid).slice r.idx, 0, 0⟩

/-- The slices of a trailing group. -/
def Trailing.members (x : Trailing) : List Nat := x.entries.map Prod.fst

/-- The entry of a slice in a trailing group. -/
def Trailing.entry? (x : Trailing) (i : Nat) : Option QueueEntry := (x.entries.find? (fun y => y.1 == i)).map Prod.snd

/-- The groups that a slice's shadow has still to go through. -/
def Group.trailOf (g : Group) (i : Nat) : List Trailing := g.trail.filter (fun x => x.members.contains i)

/-- The groups of a pair's trail withdrawn: its load-value queue is empty (R200). -/
def Group.dropTrail (g : Group) (i : Nat) : Group :=
  { g with trail := (g.trail.map (fun (x : Trailing) => { x with entries := x.entries.filter (fun y => y.1 != i) })).filter (fun x => !x.entries.isEmpty) }

/-- Whether the shadow of a slice has still to go through a group that its primary has gone through: it stands behind the group at which its primary stands or waits (R199). -/
def Group.behind (g : Group) (i : Nat) : Bool := g.shadow && (g.trailOf i).any (fun x => ((x.entry? i).bind (fun e => e.now)).isSome)

/-- The control state of a slice. -/
def Slice.control (sl : Slice) : Control :=
  ⟨sl.pc, sl.active, sl.retired, sl.ended, sl.m, sl.w, sl.xf, sl.regpc, sl.retry, sl.txstat, sl.tx, sl.latch⟩

/-- A slice changed as a group has changed the control state of its primary: what the group left as it was stays the slice's own (R198, R199). -/
def Slice.carry (sl : Slice) (was now : Control) : Slice :=
  let pick {α : Type} [DecidableEq α] (x a b : α) : α := if a = b then x else b
  let gone := now.retired &&& ~~~was.retired
  { sl with
    pc := now.pc
    active := pick sl.active was.active now.active
    retired := sl.retired ||| gone
    stack := sl.stack.map (fun (e : StackEntry) => { e with mask := e.mask &&& ~~~gone })
    ended := now.ended
    m := pick sl.m was.m now.m
    w := pick sl.w was.w now.w
    xf := Lanes.ofFn (fun i => sl.xf.get i ||| (now.xf.get i &&& ~~~(was.xf.get i)))
    regpc := pick sl.regpc was.regpc now.regpc
    retry := pick sl.retry was.retry now.retry
    txstat := pick sl.txstat was.txstat now.txstat
    tx := pick sl.tx was.tx now.tx
    latch := pick sl.latch was.latch now.latch }

/-- Whether a slice has been taken from its path: by a trap delivered at the group where it stood, by an abort of its transaction, or by a restart of its region (R143, R150, R325). -/
def Slice.diverted (before after : Slice) : Bool :=
  (!before.trap.xcause.getLsbD 31 && after.trap.xcause.getLsbD 31 && (after.trap.xpc == before.pc || before.getrs.any (fun x => x.pc == after.trap.xpc)) && after.regpc == 0)
    || (before.tx.isSome && after.tx.isNone && !after.txstat.getLsbD 30)
    || (after.regpc.getLsbD 0 && !before.regpc.getLsbD 0)

/-- Whether a slice has taken a trap at the group where it stood, or its transaction has aborted in place of one; cancels are none. -/
def Slice.trapped (before after : Slice) : Bool :=
  (!before.trap.xcause.getLsbD 31 && before.diverted after && after.trap != before.trap)
    || (before.tx.isSome && after.tx.isNone && bits after.txstat.toNat 27 24 == 7)
    || (after.ended && !before.ended && after.trap != before.trap && !decide (0x19 ≤ after.trap.xcause.toNat % 256 ∧ after.trap.xcause.toNat % 256 ≤ 0x1B))

/-- Whether what a wait brings a slice is a trap that its shadow has not reached yet (R199). -/
def State.trapEarly (before : State) (r : SliceRef) (after : State) : Bool :=
  (before.group r.gid).behind r.idx && (before.slice r).trapped (after.slice r)

/-- What an event brings a slice, put off while it is a trap that its shadow has not reached yet (R199). -/
def State.unlessEarly (s : State) (r : SliceRef) (o : Outcome) : Outcome :=
  match o with
  | .next t => if s.trapEarly r t then .next s else .next t
  | o => o

/-! ### Cancelling a unit (R143, R369) -/

/-- The slice at a place ends: owed values are dropped, its destinations are full again, and it waits for nothing (R25, R131). -/
def Slice.finish (sl : Slice) : Slice :=
  { sl with ended := true, wait := none, owed := [], getrs := [], pathStores := [], active := 0, stack := [], spilled := 0,
            v := sl.v.map (fun r => { r with full := 15 }), s := sl.s.map (fun r => { r with full := true }) }

/-- The unit is marked cancelled with a cause, and its other slices take cause 0x1B at their next cancel point (R143, R369). -/
def State.cancelUnit (s : State) (uid cause : Nat) : State :=
  s.modUnit uid (fun u => { u with cancelled := some (u.cancelled.getD cause), pendingCancel := some (u.pendingCancel.getD 0) })

/-- Park-list entries and control-die requests of a slice are withdrawn (R170, R173). -/
def State.withdraw (s : State) (r : SliceRef) : State :=
  { s with parks := s.parks.filter (fun e => e.ref ≠ r), remotes := s.remotes.filter (fun e => e.ref ≠ r) }

/-- The slice leaves every queue it is parked at (R215). -/
def State.leaveQueues (s : State) (r : SliceRef) : State :=
  s.modGroup r.gid (fun g =>
    { g with queues := g.queues.map (fun (q : Queue) =>
      { q with pushers := q.pushers.filter (fun i => i ≠ r.idx), poppers := q.poppers.filter (fun i => i ≠ r.idx) }) })

/-- The slice's waiting enqueue is withdrawn (R361). -/
def State.leaveEnqueues (s : State) (r : SliceRef) : State := { s with enqueues := s.enqueues.filter (fun e => e.issuer ≠ some r) }

/-- What a cancelled slice's wait leaves behind is withdrawn, and the slice ends. -/
def State.endSlice (s : State) (r : SliceRef) : State :=
  (((s.withdraw r).leaveQueues r).leaveEnqueues r).modSlice r Slice.finish

end Sys2Proof.Machine
end

