-- ==== Sys2Proof/Machine/Forms.lean ====
section
/-! DEFINITION. The shape of every opcode: which prefixes it accepts, which bits and codes of its words are reserved, what its operand fields name, and how it meets regions, cancels, transactions and engine queues (R46 to R51, R92, R93, R124, R149, R151, R203, R222, R236, R264, R313, R324, R371, R453). -/

namespace Sys2Proof.Machine

/-- The prefixes of a group, the first of each kind: the value field [31:5] of each (R50). -/
structure Prefixes where
  rnd : Option Nat
  ovf : Option Nat
  xi : Option Nat
  scp : Option Nat
  spc : Option Nat
  deriving DecidableEq, Repr

/-- The value of the first prefix of a kind. -/
def firstPrefix (p : List Prefix) (k : PrefixKind) : Option Nat := (p.find? (fun x => decide (x.kind = k))).map (fun x => x.val.toNat)

/-- The prefixes of a group by kind. -/
def Prefixes.of (p : List Prefix) : Prefixes :=
  ⟨firstPrefix p .rnd, firstPrefix p .ovf, firstPrefix p .xi, firstPrefix p .scp, firstPrefix p .spc⟩

/-- The space code an SPC prefix names, `glb` without one (R51, R151). -/
def Prefixes.space (p : Prefixes) : Nat := match p.spc with | some v => v % 8 | none => 0

/-- The order code of an SCP prefix, or a default (R50). -/
def Prefixes.order (p : Prefixes) (dflt : Nat) : Nat := match p.scp with | some v => v / 8 % 4 | none => dflt

/-- The scope code of an SCP prefix, or a default (R50). -/
def Prefixes.scope (p : Prefixes) (dflt : Nat) : Nat := match p.scp with | some v => v % 8 | none => dflt

/-- What an operand field names (R47, R48, and the tables of each chapter). -/
inductive Role where
  /-- unused: must be 0x00 -/
  | none
  /-- not a specifier -/
  | raw
  /-- a source of one or two words -/
  | src (n : Nat)
  /-- a `v` or `s` destination of one or two words -/
  | dst (n : Nat)
  /-- four source registers from a multiple of four -/
  | quad
  /-- four destination registers from a multiple of four -/
  | dquad
  /-- `n` consecutive source `v` registers -/
  | vrange (n : Nat)
  /-- `n` consecutive destination `v` registers -/
  | dvrange (n : Nat)
  /-- a uniform 32-bit source: an `s` register, a constant or an immediate -/
  | uni
  /-- an even `s` register, its pair read -/
  | spair
  /-- an even `s` register read as a pair, or the constant zero -/
  | spairOrZero
  /-- an `s` register, read and written -/
  | sregRW
  /-- an `s` register or pair, written -/
  | sreg (n : Nat)
  /-- an `s` register or pair, written, or 0x00 for none -/
  | sregOrNone (n : Nat)
  /-- an even `v` or `s` pair holding an address -/
  | addr
  /-- a home-die hint -/
  | hint
  /-- a window base -/
  | window
  /-- the operand of `LEASE`: an `s` register or a constant 0xC0 to 0xC4 -/
  | lease
  deriving DecidableEq, Repr

/-- Whether a specifier is a legal source constant or immediate of `n` words (R47). -/
def constOk (n x : Nat) : Bool :=
  decide (0xC0 ≤ x) && (decide (x ≤ 0xC4) || (n == 1 && (x == 0xC5 || x == 0xC6)) || (n == 2 && x == 0xC7) || decide (0xE0 ≤ x))

/-- Whether a specifier is a legal register of `n` words: pairs are even (R19). -/
def regOk (n x : Nat) : Bool := decide (x < 192) && (n != 2 || x % 2 == 0)

/-- Whether a field holds a value its role does not allow, other than nonzero bits of an unused field. -/
def Role.codeBad (r : Role) (x : Nat) : Bool :=
  match r with
  | .none | .raw | .window => false
  | .src n => !(regOk n x || constOk n x)
  | .dst n => !regOk n x
  | .quad | .dquad => !(decide (x < 192) && x % 4 == 0)
  | .vrange n | .dvrange n => !decide (x + n ≤ 128)
  | .uni => !(specIsS x || constOk 1 x)
  | .spair => !(specIsS x && x % 2 == 0)
  | .spairOrZero => !((specIsS x && x % 2 == 0) || x == 0xC0)
  | .sregRW => !specIsS x
  | .sreg n => !(specIsS x && regOk n x)
  | .sregOrNone n => !(x == 0 || (specIsS x && regOk n x))
  | .addr => !(decide (x < 192) && x % 2 == 0)
  | .hint => !(x == 0 || (decide (0xE0 ≤ x) && decide (x ≤ 0xE7)))
  | .lease => !(specIsS x || (decide (0xC0 ≤ x) && decide (x ≤ 0xC4)))

/-- The nonzero bits of a field that must be zero under its role. -/
def Role.zeroBits (r : Role) (x : Nat) : List Nat :=
  match r with
  | .none => (List.range 8).filter (bit x)
  | .window => ((List.range 8).filter (bit x)).filter (fun i => decide (3 ≤ i))
  | _ => []

/-- The registers a field reads. -/
def Role.reads (r : Role) (x : Nat) : List Nat :=
  let take (n : Nat) : List Nat := if x < 192 then (List.range n).map (· + x) else []
  match r with
  | .src n => take n
  | .quad => take 4
  | .vrange n => take n
  | .uni | .sregRW | .lease => take 1
  | .spair | .spairOrZero | .addr => take 2
  | _ => []

/-- The registers a field writes. -/
def Role.writes (r : Role) (x : Nat) : List Nat :=
  let take (n : Nat) : List Nat := if x < 192 then (List.range n).map (· + x) else []
  match r with
  | .dst n | .dvrange n | .sreg n => take n
  | .dquad => take 4
  | .sregRW => take 1
  | .sregOrNone n => if x = 0 then [] else take n
  | _ => []

/-- The engine queue an instruction posts to (R194, R222, R238, R265). -/
inductive Fifo where
  | none | copies | matrix | mint
  deriving DecidableEq, Repr

/-- The shape of an instruction's words. -/
structure Shape where
  rnd : Bool := false
  ovf : Bool := false
  xi : Bool := false
  scp : Bool := false
  spc : Bool := false
  /-- orders an SCP prefix may name -/
  orders : List Nat := [0, 1, 2, 3]
  /-- instruction bits of [63:50] that must be zero -/
  zero : List Nat := []
  /-- lowest bits of fields of [63:50] that hold a value not allowed -/
  bad : List Nat := []
  /-- bits of the XI prefix that must be zero -/
  xiZero : List Nat := []
  /-- lowest bits of fields of the XI prefix that hold a value not allowed -/
  xiBad : List Nat := []
  /-- the OVF prefix is not allowed with this destination format -/
  ovfBad : Bool := false
  /-- an SPC prefix may name `glb` alone -/
  spcGlb : Bool := false
  d : Role := .none
  a : Role := .none
  b : Role := .none
  c : Role := .none
  /-- pred and neg must be zero -/
  p0 : Bool := false
  /-- operands whose poison is passed on rather than consumed (R414) -/
  carryA : Bool := false
  carryB : Bool := false
  carryC : Bool := false
  /-- a gang operation (R109) -/
  gang : Bool := false
  /-- closes an open region (R149) -/
  closes : Bool := false
  /-- an acquire, at its completion (R332, R340) -/
  acquires : Bool := false
  /-- a cancel point before it acts (R146) -/
  cancelPoint : Bool := false
  /-- misuse inside a transaction (R324) -/
  txBad : Bool := false
  /-- compared under shadow execution (R199) -/
  compared : Bool := false
  fifo : Fifo := .none
  deriving DecidableEq, Repr

/-- The instruction bits hi down to lo. -/
def span (hi lo : Nat) : List Nat := (List.range (hi + 1 - lo)).map (· + lo)

/-- `[x]` when a condition holds. -/
def when_ (c : Bool) (x : Nat) : List Nat := if c then [x] else []

/-- Modifier field [hi:lo] of an instruction, by instruction bits (R45). -/
def WForm.field (w : WForm) (hi lo : Nat) : Nat := bits w.mod.toNat (hi - 50) (lo - 50)

/-- Words of an ITY-typed operand (R94). -/
def ityWords (ty : Nat) : Nat := if 2 ≤ ty then 2 else 1
/-- Words of an FTY-typed operand (R94). -/
def ftyWords (ty : Nat) : Nat := if ty = 1 then 2 else 1
/-- Words of a format of R67. -/
def codeWords (c : Nat) : Nat := if codeWidth' c = 64 then 2 else 1
where
  codeWidth' : Nat → Nat
    | 3 | 7 | 11 => 64
    | _ => 32
/-- Registers of the register form of a BX block (R119), by the BX code of PACKBX. -/
def bxRegs (x : Nat) : Nat := match x with | 0 => 2 | 1 => 3 | _ => 5

/-- The XI prefix of lane arithmetic: accepted when b is an immediate (R51). -/
def laneXi (w : WForm) : Bool := decide (0xE0 ≤ w.b.toNat)

/-- Two-operand integer arithmetic with ITY. -/
def shapeInt (w : WForm) (xi : Bool) : Shape :=
  let n := ityWords (WForm.field w 51 50)
  { zero := span 63 52, xi := xi && laneXi w, d := .dst n, a := .src n, b := .src n }

/-- Two-operand floating arithmetic with FTY. -/
def shapeFloat (w : WForm) (xi rnd : Bool) : Shape :=
  let n := ftyWords (WForm.field w 51 50)
  { zero := span 63 52, xi := xi && laneXi w, rnd := rnd, d := .dst n, a := .src n, b := .src n }

/-- One-operand floating arithmetic with FTY. -/
def shapeFloat1 (w : WForm) (rnd : Bool) : Shape :=
  let n := ftyWords (WForm.field w 51 50)
  { zero := span 63 52, rnd := rnd, d := .dst n, a := .src n }

/-- The f32-only functions. -/
def shapeTrans (w : WForm) : Shape :=
  { zero := span 63 52, bad := when_ (WForm.field w 51 50 != 0) 50, d := .dst 1, a := .src 1 }

/-- Words of a W64 operand. -/
def w64 (w : WForm) : Nat := if WForm.field w 50 50 = 1 then 2 else 1

/-- Two-operand logic with W64. -/
def shapeLogic (w : WForm) : Shape :=
  let n := w64 w
  { zero := span 63 51, xi := laneXi w, d := .dst n, a := .src n, b := .src n }

/-- Shifts with W64: the amount is 32 bits. -/
def shapeShift (w : WForm) : Shape :=
  let n := w64 w
  { zero := span 63 51, d := .dst n, a := .src n, b := .src 1 }

/-- The memory operand of R152 and the size codes an instruction accepts (R153). -/
def shapeMem (w : WForm) (sizes : List Nat) : Shape :=
  let bw := WForm.field w 50 50 == 1
  { xi := true, spc := true, bad := when_ (!sizes.contains (WForm.field w 56 54)) 54, spcGlb := bw,
    a := if bw then .window else .spair, b := .src 1 }

/-- The register role of a size code as a destination (R153). -/
def szDst (sz : Nat) : Role := match sz with | 1 => .dst 2 | 2 => .dquad | _ => .dst 1
/-- The register role of a size code as a source. -/
def szSrc (sz : Nat) : Role := match sz with | 1 => .src 2 | 2 => .quad | _ => .src 1

/-- A matrix or Mint command. -/
def shapeEngine (f : Fifo) (zero bad : List Nat) : Shape := { zero := zero, bad := bad, txBad := true, compared := true, fifo := f }

/-- Whether a number is among the special registers of R37. -/
def srListed (i : Nat) : Bool :=
  decide (i ≤ 0x0B) || (decide (0x10 ≤ i) && decide (i ≤ 0x16)) || (decide (0x18 ≤ i) && decide (i ≤ 0x1B)) ||
    (decide (0x20 ≤ i) && decide (i ≤ 0x24)) || (decide (0x28 ≤ i) && decide (i ≤ 0x2C))

/-- Words of a special register (R37). -/
def srWords (i : Nat) : Nat := if [0x09, 0x0A, 0x0B, 0x18, 0x19, 0x1A, 0x1B, 0x20, 0x22, 0x2C].contains i then 2 else 1

/-- The shape of a copy's XI prefix without 2D: conversion formats and rounding (R223). -/
def cvtXiBad (v : Nat) : List Nat := when_ (decide (11 < bits v 3 0)) 5 ++ when_ (decide (11 < bits v 7 4)) 9 ++ when_ (decide (5 < bits v 10 8)) 13

/-- The shape of an opcode's words. An opcode without a row is unassigned (R58). A CPYG without its XI prefix, of which no field offends, is named at bit 2, its opcode's lowest (R57, R223: DEDUCED, log 28). -/
def shapeOf (op : Nat) (w : WForm) (p : Prefixes) : Option Shape :=
  let f := WForm.field w
  let one := f 50 50 == 1
  let rel (dflt : Nat) : Bool := decide (2 ≤ p.order dflt)
  match op with
  | 0x00 => some { zero := span 63 50 }
  | 0x01 => some { zero := span 63 51, d := .dst (w64 w), a := .src (w64 w), carryA := true }
  | 0x02 => some { zero := span 63 54, d := .dst (w64 w), a := .src (w64 w), b := .src (w64 w), carryA := true, carryB := true }
  | 0x03 | 0x04 | 0x05 | 0x0A | 0x0B => some (shapeInt w true)
  | 0x06 | 0x08 | 0x09 => some (shapeInt w false)
  | 0x07 => some { shapeInt w false with c := .src (ityWords (f 51 50)) }
  | 0x0C => some { shapeInt w false with b := .none, bad := when_ (f 51 50 % 2 == 1) 50 }
  | 0x0D => some { shapeInt w true with zero := span 63 60, d := .none, bad := when_ (decide (6 ≤ f 54 52)) 52 ++ when_ (f 59 58 == 3) 58 }
  | 0x0E | 0x0F | 0x10 => some (shapeLogic w)
  | 0x11 => some { zero := span 63 51, d := .dst (w64 w), a := .src (w64 w) }
  | 0x12 | 0x13 | 0x14 | 0x15 => some (shapeShift w)
  | 0x16 => some { shapeShift w with zero := span 63 52 }
  | 0x17 => some { shapeShift w with b := .src (w64 w), c := .src 1 }
  | 0x18 | 0x19 => some { zero := span 63 51, d := .dst 1, a := .src (w64 w) }
  | 0x1A => some { zero := span 63 51, d := .dst (w64 w), a := .src (w64 w) }
  | 0x1B => some { zero := span 63 54, bad := when_ (decide (5 ≤ f 52 50)) 50, d := .dst 2, a := .src 2, b := .src 1 }
  | 0x1C =>
    let n := if f 55 55 = 1 then 2 else 1
    some { zero := span 63 56, d := .dst n, a := .src n, b := if f 51 50 = 3 then .none else .src 1, c := .src n, gang := true }
  | 0x1D => some { zero := span 63 52, d := .sreg 1, a := .src 1, gang := true }
  | 0x1E =>
    let fl := decide (6 ≤ f 53 50)
    let n := if fl then ftyWords (f 55 54) else ityWords (f 55 54)
    some { zero := span 63 56, bad := when_ (decide (9 ≤ f 53 50)) 50 ++ when_ (fl && decide (f 53 50 ≤ 8) && decide (2 ≤ f 55 54)) 54,
           d := .sreg n, a := .src n, gang := true }
  | 0x1F => some { zero := span 63 50, d := .dst 1, a := .src 1, b := .src 1, c := .src 1 }
  | 0x20 | 0x21 | 0x22 => some (shapeFloat w true true)
  | 0x23 => some { shapeFloat w false true with c := .src (ftyWords (f 51 50)) }
  | 0x24 | 0x25 => some (shapeFloat w true false)
  | 0x26 => some (shapeFloat w false true)
  | 0x27 | 0x28 | 0x29 => some (shapeFloat1 w true)
  | 0x2A | 0x2B | 0x2C | 0x2D => some (shapeTrans w)
  | 0x2E => some { shapeFloat w true false with zero := span 63 60, d := .none, bad := when_ (f 59 58 == 3) 58 }
  | 0x2F => some { shapeFloat1 w false with d := .dst 1 }
  | 0x30 => some { zero := span 63 58, rnd := true, bad := when_ (decide (11 < f 53 50)) 50 ++ when_ (decide (11 < f 57 54)) 54,
                   d := .dst (codeWords (f 57 54)), a := .src (codeWords (f 53 50)) }
  | 0x31 =>
    let src := f 53 50
    let dst := f 57 54
    let pk := f 58 58 == 1
    let bx := decide (12 ≤ dst) && decide (dst ≤ 14)
    let n := codeWords src
    let wd (c : Nat) : Nat := match c with | 0 | 4 => 8 | 1 | 5 | 8 | 9 => 16 | 3 | 7 | 11 => 64 | _ => 32
    some { zero := span 63 59, rnd := true, ovf := true, ovfBad := decide (dst ≤ 7),
           bad := when_ (decide (11 < src)) 50 ++ when_ (dst == 15) 54
             ++ when_ (bx && decide (src ≤ 11) && !(src == 8 || src == 9 || src == 10)) 50
             ++ when_ (!bx && dst != 15 && decide (src ≤ 11) && decide (wd src ≤ wd dst)) 54
             ++ when_ (pk && (bx || wd dst == 32)) 58,
           d := if bx then .dvrange (bxRegs (dst - 12)) else .dst 1,
           a := if bx then .vrange 16 else .src n,
           b := if pk && !bx then .src n else .none,
           c := if pk && !bx && wd dst == 8 then .src 1 else .none }
  | 0x32 => some { zero := span 63 54, rnd := true, bad := when_ (f 51 50 == 3) 50 ++ when_ (f 53 52 == 3) 52,
                   d := .dvrange (bxRegs (f 53 52)), a := .vrange 16 }
  | 0x33 => some { zero := span 63 54, bad := when_ (f 51 50 == 3) 50 ++ when_ (f 53 52 == 3) 52,
                   d := .dvrange 16, a := .vrange (bxRegs (f 53 52)) }
  | 0x34 => some (shapeFloat1 w true)
  | 0x35 => some { shapeFloat w false true with b := .src 1 }
  | 0x36 => some { zero := span 63 51, rnd := true, d := .dst 1, a := .src 1, b := .src 1, c := .src 1 }
  | 0x37 => some { zero := span 63 51, rnd := true, d := .dst 1, a := .src 2, b := .src 2, c := .src 1 }
  | 0x38 => some { zero := span 63 52, d := .dst 1, a := .src 1, b := .src 1, c := .src 1 }
  | 0x39 => some { zero := span 63 50, a := .src 2 }
  | 0x3A => some { zero := span 63 51, d := .dst (w64 w) }
  | 0x3B => some { zero := span 63 50, d := .dst 1 }
  | 0x3C => some { zero := span 63 55, d := .dst 1, a := .src 1, b := .src 1 }
  | 0x40 => some { zero := span 57 50, b := .raw, c := .raw }
  | 0x41 => some { zero := span 63 50, a := .spair }
  | 0x42 => some { zero := span 57 56, bad := when_ (f 51 50 == 3) 50, b := .raw, c := .raw }
  | 0x43 => some { zero := if one then span 63 51 else span 57 51, d := .sreg 2, a := if one then .spair else .none,
                   b := if one then .none else .raw, c := if one then .none else .raw, closes := true }
  | 0x44 => some { zero := span 63 51, a := if one then .none else .spair, closes := true }
  | 0x45 => some { zero := span 57 53, d := .raw, a := .raw, b := .raw, c := .raw, p0 := true, closes := true }
  | 0x46 => some { zero := span 63 50, p0 := true, closes := true }
  | 0x47 => some { zero := span 57 50, a := .sregRW, b := .raw, c := .raw }
  | 0x48 => some { zero := span 63 50, p0 := true, closes := true }
  | 0x49 => some { zero := span 63 50, p0 := true, closes := true, acquires := true, cancelPoint := true, txBad := true, compared := true }
  | 0x4A => some { zero := span 63 54, d := .sreg 1, gang := f 53 53 == 1 }
  | 0x4B => some { zero := span 63 50, closes := true, txBad := true, compared := true }
  | 0x4C | 0x4D => some { closes := true }
  | 0x4E => some { zero := span 63 56, bad := when_ (!srListed (f 55 50)) 50, d := .dst (srWords (f 55 50)) }
  | 0x4F => some { zero := span 63 56, bad := when_ (!srListed (f 55 50)) 50, a := .src (srWords (f 55 50)), closes := true }
  | 0x50 => some { zero := [63] ++ (if f 60 60 = 1 then [] else span 52 50) ++ (if f 61 61 = 1 then [] else [53]) ++ (if f 62 62 = 1 then [] else span 59 54),
                   bad := when_ (f 60 60 == 1 && decide (5 ≤ f 52 50)) 50 }
  | 0x51 => some { zero := span 63 50, closes := true, txBad := true }
  | 0x52 => some { zero := span 63 50, closes := true, cancelPoint := true, txBad := true }
  | 0x53 => some { zero := if one then [] else span 62 51, a := if one then .none else .lease, txBad := false, compared := true }
  | 0x54 => some { zero := span 63 52, d := .sreg 1, a := if f 51 50 = 3 then .uni else .none }
  | 0x60 => some { shapeMem w [0, 1, 2, 3, 4, 5, 6] with scp := true, orders := [0, 1], d := szDst (f 56 54), c := .hint }
  | 0x61 => some { shapeMem w [0, 1, 2, 3, 5] with
            scp := true, orders := [0, 2], c := szSrc (f 56 54), carryC := true, closes := rel 0,
                   txBad := p.space != 0, compared := p.space != 4 }
  | 0x62 | 0x63 => some { shapeMem w [0, 1] with scp := true, orders := [1], d := szDst (f 56 54), txBad := true, compared := p.space != 4 }
  | 0x64 => some { shapeMem w [0, 1] with scp := true, orders := [2], c := szSrc (f 56 54), carryC := true, closes := true, txBad := true, compared := p.space != 4 }
  | 0x65 => some { shapeMem w [0] with xi := false, d := .dst 1, txBad := true }
  | 0x66 => some { shapeMem w [0] with xi := false, c := .src 1, txBad := true, compared := p.space != 4 }
  | 0x67 => some { zero := span 63 54, a := .spair, d := if f 53 53 = 1 then .sreg 1 else .none }
  | 0x68 => some { zero := span 63 54 ++ (if f 53 53 = 1 then span 52 50 else []) }
  | 0x69 => some { shapeMem w [0, 1, 2] with scp := false }
  | 0x6A => some { zero := span 63 50, scp := true, orders := [1, 2, 3], acquires := true, txBad := true, compared := rel 3 }
  | 0x6B => some { shapeMem w [0, 1, 2, 3, 4, 5, 6] with
            d := szDst (f 56 54), c := .hint,
                   bad := when_ (!([0, 1, 2, 3, 4, 5, 6].contains (f 56 54))) 54 ++ when_ (decide (w.b.toNat < 128)) 30 }
  | 0x70 =>
    let two := f 61 61 == 1
    some { zero := span 63 62, xi := true, scp := true,
           bad := when_ (decide (4 ≤ f 52 50)) 50 ++ when_ (decide (4 ≤ f 55 53)) 53 ++ when_ (f 57 56 == 3 || (f 57 56 == 1 && !two && p.xi.isSome)) 56
             ++ when_ (two && p.xi.isNone) 61,
           xiZero := if two then [] else span 31 16, xiBad := if two then [] else cvtXiBad (p.xi.getD 0),
           d := .spair, a := .spair, b := .uni, c := if f 58 58 = 1 then .uni else .none,
           closes := rel 0 || f 58 58 == 1, txBad := true, compared := true, fifo := .copies }
  | 0x71 =>
    some { zero := [63], xi := true, scp := true,
           bad := when_ (decide (4 ≤ f 52 50)) 50 ++ when_ (decide (4 ≤ f 55 53)) 53 ++ when_ (f 57 56 == 3) 56 ++ when_ p.xi.isNone 2,
           xiZero := span 31 21,
           d := .spair, a := .spair, b := .uni, c := if f 58 58 = 1 then .uni else .none,
           closes := rel 0 || f 58 58 == 1, txBad := true, compared := true, fifo := .copies }
  | 0x72 =>
    let two := f 62 62 == 1
    some { zero := [63], xi := true, scp := true,
           bad := when_ (!(decide (1 ≤ f 52 50) && decide (f 52 50 ≤ 3))) 50
             ++ when_ (decide (5 ≤ f 55 53) || (decide (3 ≤ f 55 53) && (f 58 56 == 4 || f 58 56 == 5))) 53 ++ when_ (decide (6 ≤ f 58 56)) 56
             ++ when_ (two && p.xi.isNone) 62,
           xiBad := if two then [] else [5],
           d := .spair, a := .spair, b := .uni, c := if f 59 59 = 1 then .uni else .none,
           closes := rel 0 || f 59 59 == 1, txBad := true, compared := true, fifo := .copies }
  | 0x73 => some { zero := span 63 50, d := .sregOrNone 1, txBad := true, compared := true }
  | 0x74 => some { zero := span 63 54, acquires := true, txBad := true }
  | 0x75 => some { zero := span 63 54, a := .uni, b := .uni, c := .uni, cancelPoint := true, txBad := true, compared := true }
  | 0x76 =>
    some { zero := span 63 55, a := .src (if f 54 54 = 1 then 2 else 1), carryA := true, closes := true, cancelPoint := true, txBad := true, compared := true }
  | 0x77 => some { zero := span 63 55, d := .dst (if f 54 54 = 1 then 2 else 1), acquires := true, cancelPoint := true, txBad := true, compared := true }
  | 0x78 => some { zero := span 63 58, d := .dst (if f 54 54 = 1 then 2 else 1), acquires := true, cancelPoint := true, txBad := true }
  | 0x79 => some { zero := span 63 50, a := .uni, txBad := true, compared := true }
  | 0x7A => some { zero := span 63 52, a := .uni, b := .uni, txBad := true, compared := true }
  | 0x7B => some { zero := span 63 52, a := .uni, b := .uni, closes := true, txBad := true, compared := true }
  | 0x7C => some { zero := span 63 52, a := .uni, acquires := true, txBad := true }
  | 0x7D => some { zero := span 63 50, closes := true, acquires := true, cancelPoint := true, txBad := true, compared := true }
  | 0x7E | 0x7F => some { zero := span 63 51, a := .uni, b := .uni, txBad := true, compared := true }
  | 0x80 => some { zero := [63], bad := when_ (f 62 61 == 3) 61, d := .uni, a := .uni, b := .uni, c := .uni, closes := f 58 58 == 1,
                   txBad := true, compared := true, fifo := .copies }
  | 0x81 => some { zero := span 63 57 ++ (if f 52 50 = 0 then span 56 53 else []), bad := when_ (decide (5 ≤ f 52 50)) 50,
                   a := if f 52 50 = 0 then .none else .uni, closes := true, acquires := true, cancelPoint := true, txBad := true, compared := true }
  | 0x90 => some { shapeEngine .matrix (span 63 54) [] with xi := true, xiZero := span 31 24, a := if f 53 53 = 1 then .spair else .uni, b := .uni }
  | 0x91 => some { shapeEngine .matrix (span 63 53) [] with a := .uni }
  | 0x92 => some (shapeEngine .matrix (span 63 54) [])
  | 0x93 => some (shapeEngine .matrix (span 63 54) (when_ (f 53 50 == 0) 50))
  | 0x94 => some { shapeEngine .matrix (span 63 56) (when_ (decide (10 ≤ f 55 52)) 52) with a := .uni }
  | 0x95 => some { shapeEngine .matrix (span 63 54) [] with a := .uni }
  | 0x96 => some { shapeEngine .matrix (span 63 53) [] with a := if f 52 52 = 1 then .spair else .uni }
  | 0x97 => some { shapeEngine .matrix (span 63 57) (when_ (f 55 52 == 15) 52) with rnd := true, a := .uni, b := .uni }
  | 0x98 => some { shapeEngine .matrix (span 63 57)
                     (when_ (if f 56 56 = 1 then decide (8 ≤ f 55 52) else !(decide (8 ≤ f 55 52) && decide (f 55 52 ≤ 14))) 52) with a := .uni, b := .uni }
  | 0x99 => some (shapeEngine .matrix (span 63 54) [])
  | 0x9A => some { shapeEngine .matrix (span 63 54) [] with a := .uni, b := .uni }
  | 0x9B => some { shapeEngine .none (span 63 53) [] with d := .sregOrNone 1, a := if one then .uni else .none, b := if one then .uni else .none, closes := one }
  | 0x9C => some { shapeEngine .none (span 63 50) [] with a := .uni, acquires := true, compared := false }
  | 0x9D => some { shapeEngine .matrix (span 63 53) (when_ (f 51 50 == 3) 50) with rnd := true, a := .uni, b := .uni, c := .uni }
  | 0x9E => some { shapeEngine .matrix (span 63 57) (when_ (decide (11 < f 55 52)) 52) with
                     rnd := true, d := .dst (codeWords (f 55 52)), a := .src 1, b := .src 1 }
  | 0xB0 => some { shapeEngine .mint (span 63 50) [] with a := .spair }
  | 0xB1 => some { shapeEngine .mint (span 63 50) [] with a := .uni, b := .uni }
  | 0xB2 => some { shapeEngine .mint (span 63 51) [] with a := .uni, b := if one then .uni else .none }
  | 0xB3 => some { shapeEngine .mint (span 63 52) (when_ (f 51 50 == 3) 50) with a := if f 51 50 = 2 then .none else .uni }
  | 0xB4 => some { shapeEngine .mint (span 63 50) [] with a := .uni }
  | 0xB5 => some { shapeEngine .mint (span 63 53) (when_ (f 52 50 == 0) 50) with a := .uni }
  | 0xB6 | 0xB7 => some { shapeEngine .mint (span 63 50) [] with a := .uni }
  | 0xB8 => some { shapeEngine .mint (span 63 50) [] with d := .dst 1, a := .uni }
  | 0xB9 => some { shapeEngine .mint (span 63 51) [] with a := .uni }
  | 0xBA => some { shapeEngine .none (span 63 50) [] with acquires := true, compared := false }
  | 0xBB => some (shapeEngine .mint (span 63 51) [])
  | 0xC0 | 0xC1 =>
    let n := if f 56 54 = 2 ∨ f 56 54 = 3 then 2 else 1
    some { zero := span 63 60, xi := true, scp := true,
           bad := when_ (decide (8 ≤ f 53 50) || (f 56 54 == 4 && f 53 50 != 0)) 50 ++ when_ (decide (5 ≤ f 56 54)) 54 ++ when_ (decide (4 ≤ f 59 57)) 57,
           d := if op = 0xC0 then .dst n else .none, a := .addr, b := .src n, c := if f 53 50 = 7 then .src n else .none,
           closes := rel 0, txBad := true, compared := true }
  | 0xC2 => some { zero := span 63 54, scp := true, d := .dst 2, a := .addr, b := .src 2, c := .src 2, closes := rel 0, txBad := true, compared := true }
  | 0xC3 => some { zero := span 63 53, scp := true, bad := when_ (decide (4 ≤ f 52 50)) 50, d := .dst 2, a := .addr, b := .src 2, c := .src 2,
                   closes := rel 0, txBad := true, compared := true }
  | 0xC4 => some { zero := span 63 53, scp := true, bad := when_ (decide (4 ≤ f 52 50)) 50, d := .dst 1, a := .addr,
                   closes := rel 0, txBad := true, compared := true }
  | 0xC5 => some { zero := span 63 53, scp := true, bad := when_ (decide (4 ≤ f 52 50)) 50, d := .dst 1, a := .addr, b := .src 2, c := .src 1,
                   closes := rel 0, txBad := true, compared := true }
  | 0xC6 => some { zero := span 57 50, b := .raw, c := .raw, compared := true }
  | 0xC7 => some { zero := span 63 50, closes := true, acquires := true, compared := true }
  | 0xC8 => some { zero := span 63 58, compared := true }
  | 0xC9 => some { zero := span 63 50, scp := true, d := .dquad, a := .addr, b := .quad, c := .quad, closes := rel 0, txBad := true, compared := true }
  | 0xD0 => some { zero := span 63 51, a := .spair, closes := true, cancelPoint := true, txBad := true, compared := true }
  | 0xD1 => some { zero := span 63 50, a := .spair, b := .uni, closes := true, txBad := true, compared := true }
  | 0xD2 => some { zero := span 63 53, bad := when_ (decide (5 ≤ f 52 50)) 50, a := if f 52 50 = 0 then .spair else .uni, acquires := true, cancelPoint := true,
                   txBad := true, compared := true }
  | 0xD3 => some { zero := span 63 50, d := .spairOrZero, a := .spair, b := .uni, c := .uni, closes := true, cancelPoint := true, txBad := true, compared := true }
  | 0xD4 => some { zero := span 63 53, bad := when_ (decide (5 ≤ f 52 50)) 50, a := .uni, txBad := true, compared := true }
  | 0xD5 => some { zero := span 63 50, closes := true, txBad := true, compared := true }
  | 0xD6 => some { zero := span 63 50, d := .sreg 1, a := .spair, b := .uni, acquires := true, cancelPoint := true, txBad := true, compared := true }
  | 0xD7 => some { zero := span 63 53, bad := when_ (decide (5 ≤ f 52 50) || f 52 50 == 0) 50, a := .uni, b := .uni, txBad := true, compared := true }
  | 0xE0 =>
    some { scp := true, bad := when_ (decide (4 ≤ f 60 58)) 58 ++ when_ (f 63 62 == 3) 62, d := .spair,
           a := if f 60 58 = 0 then .spair else .uni, b := .uni, c := if f 63 62 = 0 then .none else .spair,
           closes := true, txBad := true, compared := true, fifo := .copies }
  | 0xE1 => some { zero := span 63 59, scp := true, orders := [0, 1], d := .dst (if f 58 58 = 1 then 2 else 1), a := .addr, acquires := p.order 0 == 1, txBad := true, compared := true }
  | 0xE2 => some { zero := span 63 51, d := .sregOrNone 2, a := .spair, b := .uni, acquires := true, txBad := true, compared := true }
  | _ => none

/-- The C-capable opcodes of R58. -/
def cCapable (op : Nat) : Bool :=
  [0x00, 0x01, 0x03, 0x04, 0x05, 0x0A, 0x0B, 0x0E, 0x0F, 0x10, 0x11, 0x12, 0x13, 0x14, 0x20, 0x21, 0x22, 0x24, 0x25, 0x46, 0x4B, 0x52, 0x7D].contains op

/-! ### Offending bits (step 5 of R56, R57) -/

/-- Where an operand field starts in an instruction word: W or C form. -/
structure FieldPlaces where
  d : Nat
  a : Nat
  b : Nat
  c : Nat
  deriving DecidableEq, Repr

def placesW : FieldPlaces := ⟨14, 22, 30, 38⟩
def placesC : FieldPlaces := ⟨10, 18, 26, 26⟩

/-- The offending bits of one operand field placed at bit `at_`. -/
def roleOffences (r : Role) (x at_ : Nat) : List Nat := (r.zeroBits x).map (· + at_) ++ when_ (r.codeBad x) at_

/-- Whether an operand field is a register that the instruction reads, so that its ET bit may be set (R46). -/
def etAllowed (r : Role) (x : Nat) : Bool := !(r.reads x).isEmpty

/-- The 6-bit compact b field that expands to a specifier (R43). -/
def compactBits (x : Nat) : Nat := if x < 0x20 then x else if x < 0x90 then x - 0x60 else if x < 0xE8 then x - 0xB0 else x - 0xC0

/-- The offending bits of the instruction word (R57). An unused compact b is judged as its six bits stand in the word. -/
def instrOffences (sh : Shape) (w : WForm) (wide : Bool) : List Nat :=
  let pl := if wide then placesW else placesC
  (if wide then
    (sh.zero.filter (fun i => decide (50 ≤ i) && bit w.mod.toNat (i - 50))) ++ sh.bad
      ++ when_ (w.eta && !etAllowed sh.a w.a.toNat) 46 ++ when_ (w.etb && !etAllowed sh.b w.b.toNat) 47 ++ when_ (w.etc && !etAllowed sh.c w.c.toNat) 48
      ++ (if sh.p0 then ((span 12 10).filter (fun i => w.pred.getLsbD (i - 10))) ++ when_ w.neg 13 else [])
      ++ roleOffences sh.c w.c.toNat pl.c
   else [])
  ++ roleOffences sh.d w.d.toNat pl.d ++ roleOffences sh.a w.a.toNat pl.a ++ roleOffences sh.b (if wide || sh.b != .none then w.b.toNat else compactBits w.b.toNat) pl.b

/-- The offending bits of one prefix word (R50, R57): bit `i` of the word is bit `i - 5` of its value. -/
def prefixOffences (sh : Shape) (p : Prefix) : List Nat :=
  let v := p.val.toNat
  let rest (from_ : Nat) : List Nat := (span 31 from_).filter (fun i => bit v (i - 5))
  match p.kind with
  | .rnd => rest 8 ++ when_ (decide (6 ≤ v % 8)) 5
  | .ovf => rest 7 ++ when_ sh.ovfBad 5
  | .xi => (sh.xiZero.filter (fun i => bit v (i - 5))) ++ sh.xiBad
  | .scp => rest 10 ++ when_ (decide (6 ≤ v % 8)) 5 ++ when_ (!sh.orders.contains (v / 8 % 4)) 8
  | .spc => rest 8 ++ when_ (decide (5 ≤ v % 8) || (sh.spcGlb && v % 8 != 0)) 5

/-- The least of a list of bits. -/
def leastBit : List Nat → Option Nat
  | [] => none
  | x :: xs => match leastBit xs with
    | none => some x
    | some y => some (min x y)

/-- Whether a shape accepts a prefix kind (R51). -/
def Shape.accepts (sh : Shape) : PrefixKind → Bool
  | .rnd => sh.rnd
  | .ovf => sh.ovf
  | .xi => sh.xi
  | .scp => sh.scp
  | .spc => sh.spc

end Sys2Proof.Machine
end

