-- ==== Sys2Proof/Machine/Operands.lean ====
section
/-! DEFINITION. Operands: constants and immediates, 32- and 64-bit reads in a lane, the XI prefix of lane arithmetic, uniform operands, and the compact form as its wide form (R18, R19, R43, R44, R47, R51). -/

namespace Sys2Proof.Machine

/-- The 8-bit specifier of a compact b field (R43). -/
def expandB (b : BitVec 6) : BitVec 8 :=
  let x := b.toNat
  if x < 0x20 then BitVec.ofNat 8 x
  else if x < 0x30 then BitVec.ofNat 8 (x - 0x20 + 0x80)
  else if x < 0x38 then BitVec.ofNat 8 (x - 0x30 + 0xE0)
  else BitVec.ofNat 8 (x - 0x38 + 0xF8)

/-- The W form that a C-form instruction behaves as (R44). -/
def expand (c : CForm) : WForm :=
  { mod := 0, nf := false, etc := false, etb := false, eta := false, c := 0, b := expandB c.b, a := c.a, d := c.d, neg := false, pred := 0 }

/-- A 5-bit signed immediate as 64 bits (R47). -/
def immediate (x : Nat) : Dword := sext64 5 (x % 32)

/-- A constant or immediate specifier as 64 bits, of which a 32-bit operand takes the low half (R47). `gl` is the lane index in the gang. -/
def constant (x lane gl : Nat) : Dword :=
  if 0xE0 ≤ x then immediate x
  else
    match x with
    | 0xC1 => 1
    | 0xC2 => BitVec.allOnes 64
    | 0xC3 => dword lane
    | 0xC4 => dword gl
    | 0xC5 => 0x3F800000
    | 0xC6 => 0x3F000000
    | 0xC7 => 0x3FF0000000000000
    | _ => 0

/-- A 32-bit operand in a lane; `g0` is the lane index in the gang of lane 0 (R47). -/
def Slice.operand (sl : Slice) (g0 spec lane : Nat) : Word :=
  if spec < 192 then sl.reg spec lane else (constant spec lane (g0 + lane)).extractLsb' 0 32

/-- A 64-bit operand in a lane (R19, R47). -/
def Slice.operand64 (sl : Slice) (g0 spec lane : Nat) : Dword :=
  if spec < 192 then joinWords (sl.reg spec lane) (sl.reg (spec + 1) lane) else constant spec lane (g0 + lane)

/-- An operand of one or two words, zero-extended to 64 bits. -/
def Slice.operandN (sl : Slice) (words g0 spec lane : Nat) : Dword :=
  if words = 2 then sl.operand64 g0 spec lane else (sl.operand g0 spec lane).zeroExtend 64

/-- A register as one word in a lane, and the words after it: the value of `n` consecutive registers, lowest first. -/
def Slice.operandWords (sl : Slice) (spec n lane : Nat) : List Word := (List.range n).map (fun k => sl.reg (spec + k) lane)

/-- The value that an XI prefix and the b specifier give a lane-arithmetic instruction (R51). -/
def xiValue (xi spec : Nat) : Dword := sext64 32 (xi * 32 + spec % 32)

/-- Every lane's operand b of lane arithmetic, an XI prefix taken into account (R51). -/
def Slice.operandB (sl : Slice) (p : Prefixes) (words g0 spec lane : Nat) : Dword :=
  match p.xi with
  | some v => if words = 2 then xiValue v spec else ((xiValue v spec).extractLsb' 0 32).zeroExtend 64
  | none => sl.operandN words g0 spec lane

end Sys2Proof.Machine
end

