-- ==== Sys2Proof/Machine/Registers.lean ====
section
/-! DEFINITION. The management block of the host ports: what a read of its registers gives and what a write does, and the window of physical memory that shows the device's registers (R11, R167, R376, R378, R421, R422, R429, R450). -/

namespace Sys2Proof.Machine

/-! ### What a register reads as (R11) -/

/-- `BOOTSTAT` is at this offset of BAR0 (R421), and the registers of dies, semaphores and links at these (R376, R429, R450). -/
def barBootstat : Nat := 0x1000
def barThrstat : Nat := 0x1100
def barSem : Nat := 0x2000
def barFlstat : Nat := 0x3000
def barMailbox : Nat := 0x100000

/-- The register of a row of `n`, 8 bytes apart from `base`, that an offset names. -/
def barRow (base n offset : Nat) : Option Nat :=
  if base ≤ offset ∧ offset < base + 8 * n ∧ (offset - base) % 8 = 0 then some ((offset - base) / 8) else none

/-- `SEM` n: HELD and HOLDER; REL, ACQ and the reserved bits read 0 (R376). -/
def State.semWord (s : State) (n : Nat) : Word :=
  let h := s.sems.getD n 0
  word ((if h = 0 then 0 else 2 ^ 31) + h % 4 * 2 ^ 16)

/-- `THRSTAT` n (R429). -/
def State.thrstat (s : State) (die : Nat) : Word :=
  let d := s.die die
  let b (x : Bool) (k : Nat) : Nat := if x then 2 ^ k else 0
  word (d.temp % 256 * 2 ^ 24 + b d.capped 18 + b d.thermal 17 + b d.power 16 + d.step)

/-- `FLSTAT` n (R450). -/
def State.flstat (s : State) (link : Nat) : Word :=
  let k := s.links.getD link Link.down
  let b (x : Bool) (i : Nat) : Nat := if x then 2 ^ i else 0
  word (b k.up 31 + b k.retr 30 + b k.fail 29 + k.peer % 2 ^ 12 * 2 ^ 16 + k.retrains % 2 ^ 16)

/-- What a port reads at an offset of BAR0, the same for both ports (R376); nothing where the spec places no register. -/
def State.barRead (s : State) (offset : Nat) : Option Word :=
  if offset = barBootstat then some s.bootstat
  else
    match barRow barThrstat 8 offset, barRow barSem 16 offset, barRow barFlstat 24 offset with
    | some n, _, _ => some (s.thrstat n)
    | _, some n, _ => some (s.semWord n)
    | _, _, some n => some (s.flstat n)
    | _, _, _ => none

/-! ### What a write does (R11, R376, R422) -/

/-- Whether a port holds a semaphore (R376); 2 stands for the control-die firmware. -/
def State.holds (s : State) (port sem : Nat) : Bool := s.sems.getD sem 0 == port + 1

/-- A semaphore taken by a holder code: 1 for port 0, 2 for port 1, 3 for the firmware, and 0 to free it. -/
def State.takeSem (s : State) (sem holder : Nat) : State := { s with sems := s.sems.set sem holder }

/-- ACQ by some of the ports and the firmware in one control-die cycle. On a tie of the ports the one that lost the tie before wins; the firmware takes a semaphore that no port asks for (R376). -/
def State.acquireSem (s : State) (ports : List Nat) (sem : Nat) : State :=
  if s.sems.getD sem 0 ≠ 0 then s
  else
    match ports.contains 0, ports.contains 1 with
    | true, true =>
      let winner := s.semLastLoser.getD sem 1
      { s.takeSem sem winner with semLastLoser := s.semLastLoser.set sem (3 - winner) }
    | true, false => s.takeSem sem 1
    | false, true => s.takeSem sem 2
    | false, false => if ports.contains 2 then s.takeSem sem 3 else s

/-- REL by a holder; anyone else's is ignored (R376). -/
def State.releaseSem (s : State) (port sem : Nat) : State := if s.holds port sem then s.takeSem sem 0 else s

/-- Bytes put into the recovery mailbox at an offset. -/
def mailboxPut (m : List Byte) (off : Nat) (bs : List Byte) : List Byte :=
  let m := m ++ List.replicate (off + bs.length - m.length) 0
  m.take off ++ bs ++ m.drop (off + bs.length)

/-- A 32-bit write to a port's management block. A semaphore takes REL and ACQ, the recovery mailbox its bytes in recovery mode from the holder of `SEM1`, and every other register is read-only (R11, R376, R421, R422, R429, R450). -/
def State.barWrite (s : State) (port offset : Nat) (value : Word) : State :=
  match barRow barSem 16 offset with
  | some sem =>
    let s := if value.getLsbD 1 then s.releaseSem port sem else s
    if value.getLsbD 0 then s.acquireSem [port] sem else s
  | none =>
    if barMailbox ≤ offset ∧ offset < barMailbox + 2 ^ 26 ∧ s.bootstat.getLsbD 30 ∧ s.holds port 1 then
      { s with mailbox := mailboxPut s.mailbox (offset - barMailbox) (toBytes 4 value.toNat) }
    else s

/-! ### The window of device registers in physical memory (R167, R378) -/

/-- The 8-byte word of the window at a physical address. Which register of which port's block lies there is open: where the model's map names one it is read, and elsewhere the value is free. DESIGN CHOICE, log 66. -/
def State.windowWord (s : State) (a : Nat) : Dword :=
  match (Config.registerAt a).bind (fun x => s.barRead x.2) with
  | some x => x.zeroExtend 64
  | none => Config.openValue s.fresh (2 ^ 53 + a)

/-- `n` bytes of the window. -/
def State.windowBytes (s : State) (pa n : Nat) : List Byte := (List.range n).map (fun k => (s.windowWord ((pa + k) / 8 * 8)).extractLsb' (8 * ((pa + k) % 8)) 8)

/-- Bytes written to the window: each word is a write of the port's register that lies there, with zeros for the bytes that are not written; other registers keep what the spec does not describe. DESIGN CHOICE, log 66. -/
def State.windowWrite (s : State) (pa : Nat) (data : List Byte) : State :=
  (List.range ((pa + data.length + 7) / 8 - pa / 8)).foldl (fun s k =>
    let w := (pa / 8 + k) * 8
    let x := fromBytes ((List.range 8).map (fun i => if pa ≤ w + i then data.getD (w + i - pa) 0 else 0))
    match Config.registerAt w with
    | some (port, offset) => (s.barWrite port offset (word x)).barWrite port (offset + 4) (word (x / 2 ^ 32))
    | none => s) s

end Sys2Proof.Machine
end

