-- ==== Sys2Proof/Machine/Base.lean ====
section
/-! DEFINITION. Physical addresses and where they lie, the requests that the L2 slices and the control die make of the base dies, and the lines of the L2s and the LLCs (R307, R308, R378, R393, R396 to R402). -/

namespace Sys2Proof.Machine

/-! ### Physical addresses (R378, R396, R397) -/

/-- What R378 puts at a physical address. -/
inductive PhysKind where
  | device | host | registers | nothing
  deriving DecidableEq, Repr

/-- The region-table entry that holds a physical address (R396). -/
def State.region? (s : State) (pa : Nat) : Option RegionEntry :=
  s.regions.find? (fun e => decide (e.base * 2 ^ 30 ≤ pa) && decide (pa < (e.base + e.size + 1) * 2 ^ 30))

/-- The kind of a physical address: its range under R378, and nothing where no region entry holds it (R396). -/
def State.physKind (s : State) (pa : Nat) : PhysKind :=
  if pa < 2 ^ 40 then (match s.region? pa with | some _ => .device | none => .nothing)
  else if 0x4000000000000 ≤ pa ∧ pa < 0x4000100000000 then (match s.region? pa with | some _ => .registers | none => .nothing)
  else if 0x8000000000000 ≤ pa ∧ pa < 2 ^ 52 then (match s.region? pa with | some _ => .host | none => .nothing)
  else .nothing

/-- `n` bytes at a physical address: of memory, or of the device's registers (R378). -/
def State.readPhys (s : State) (pa n : Nat) : List Byte := if s.physKind pa = .registers then s.windowBytes pa n else s.mem.bytesAt pa n

/-- The 8-byte number at a physical address. -/
def State.numPhys (s : State) (pa : Nat) : Nat := fromBytes (s.readPhys pa 8)

/-- The set bits of a stack mask, ascending. -/
def stackList (m : BitVec 16) : List Nat := (List.range 16).filter (fun i => m.getLsbD i)

/-- The stack of a device-memory address and its address there (R397). -/
def regionPlace (e : RegionEntry) (pa : Nat) : Nat × Nat :=
  let u := (pa - e.base * 2 ^ 30) / 4096
  let st := stackList e.stackMask
  (st.getD (u % st.length) 0, (e.sofs + u / st.length) * 4096 + pa % 4096)

/-- The home die of a physical address (R307, R397). -/
def State.homeDie (s : State) (pa : Nat) : Nat :=
  match s.region? pa with
  | some e => if e.kind = 0 then (regionPlace e pa).1 / 2 else e.hdie
  | none => 0

/-- The home L2 slice of a physical address in its home die (R307). -/
def homeSlice (pa : Nat) : Nat := pa / 128 % 48

/-- The lines that `n` bytes at a physical address touch. -/
def linesOf (pa n : Nat) : List Nat := if n = 0 then [] else (List.range ((pa + n - 1) / 128 + 1 - pa / 128)).map (· + pa / 128)

/-- The bytes of a line that `n` bytes at a physical address cover. -/
def lineBytes (line pa n : Nat) : BitVec 128 :=
  let lo := max pa (line * 128) - line * 128
  let hi := min (pa + n) (line * 128 + 128) - line * 128
  BitVec.ofNat 128 (2 ^ hi - 2 ^ lo)

/-! ### Lines as base dies hold them (R393, R400, R402) -/

/-- The 16 full/empty bits of a line. -/
def Memory.marks (m : Memory) (pa : Nat) : BitVec 16 := BitVec.ofNat 16 (((List.range 16).map (fun k => if m.full (pa + 8 * k) then 2 ^ k else 0)).sum)

/-- A line as a write leaves it: whole, with its bits and no poison; or, under a mask, the masked bytes merged into what was there, with its bits and its poison kept (R400, R402). -/
def Memory.writeLine (m : Memory) (pa : Nat) (kind : Nat) (q : BaseRequest) : Memory :=
  if kind = 2 then
    (List.range 16).foldl (fun m k => m.setFull (pa + 8 * k) (q.marks.getLsbD k)) ((m.setBytes pa (q.data.take 128)).clearPoison 128 pa 128)
  else (List.range 128).foldl (fun m k => if q.mask.getLsbD k then m.setByte (pa + k) (q.data.getD k 0) else m) m

/-! ### Base dies and the tables that requests are placed under (R397, R398) -/

/-- Base die `n`. -/
def State.base (s : State) (n : Nat) : BaseDie := s.bases.getD n BaseDie.start

/-- The state with a base die changed. -/
def State.modBase (s : State) (n : Nat) (f : BaseDie → BaseDie) : State := { s with bases := s.bases.modify n f }

/-- The physical address of a stack line under a region table. -/
def paIn (table : List RegionEntry) (stack saddr : Nat) : Option Nat :=
  table.findSome? (fun e =>
    let st := stackList e.stackMask
    let i := st.findIdx (· == stack)
    let u := (saddr / 4096 - e.sofs) * st.length + i
    if e.kind = 0 ∧ i < st.length ∧ e.sofs ≤ saddr / 4096 ∧ u < (e.size + 1) * 2 ^ 18 then some (e.base * 2 ^ 30 + u * 4096 + saddr % 4096) else none)

/-- The physical address of a stack line under the region table. -/
def State.paOf (s : State) (stack saddr : Nat) : Option Nat := paIn s.regions stack saddr

/-- Whether a base die takes requests of a generation: the current one, or during a drain the next (R398). -/
def State.generationOk (s : State) (gen : Nat) : Bool := gen == s.generation || (s.rewrite.isSome && gen == (s.generation + 1) % 256)

/-- The table of a generation that base dies take: the current one, or the new one during a drain (R398). -/
def State.tableOf (s : State) (gen : Nat) : List RegionEntry :=
  if gen = s.generation then s.regions else match s.rewrite with | some w => w.entries | none => s.regions

/-- The ports of the L2 slices; those above are the control die's (R400). -/
def slicePort (port : Nat) : Bool := decide (port < 48)

/-! ### A request arrives at a base die (R398, R400, R401) -/

/-- A request in flight, with what its line holds when it arrives: requests for one line are served in their order of arrival, so this is what a read returns (R401). -/
def State.flightOf (s : State) (kind : Nat) (q : BaseRequest) : BaseFlight :=
  if !s.generationOk q.gen then ⟨kind, q, 1, [], 0, false⟩
  else
    match paIn (s.tableOf q.gen) q.stack q.line with
    | some pa => ⟨kind, q, 0, s.mem.bytesAt pa 128, s.mem.marks pa, (s.mem.poisonAt 128 pa 128).isSome⟩
    | none => ⟨kind, q, 0, List.replicate 128 0, 0, false⟩

/-- What a request changes in memory, in its place in the order of arrival: a write its line, or the bytes that its mask names (R401, R402). -/
def State.writtenBy (s : State) (kind : Nat) (q : BaseRequest) : Memory :=
  if kind = 1 || !s.generationOk q.gen then s.mem
  else
    match paIn (s.tableOf q.gen) q.stack q.line with
    | some pa => s.mem.writeLine pa kind q
    | none => s.mem

/-- The lines of the L2s after a request: the line that a write brings back is clean (R308). -/
def State.cleanedBy (s : State) (kind : Nat) (q : BaseRequest) : Bank Die 8 :=
  if kind = 1 || !s.generationOk q.gen || !slicePort q.port then s.dies
  else
    match paIn (s.tableOf q.gen) q.stack q.line with
    | some pa => s.dies.modify (s.homeDie pa) (fun d => { d with l2 := d.l2.map (fun (x : L2Line) => if x.line = pa / 128 then { x with dirty := false } else x) })
    | none => s.dies

/-- A request at a base die, unless its port has the tag in use or the base die is in reset (R400, R419). Kinds: 1 a read, 2 a write, 3 a masked write. -/
def State.takeRequest (s : State) (kind : Nat) (q : BaseRequest) : State :=
  if !(s.base q.stack).up || (s.base q.stack).flights.any (fun f => f.q.port == q.port && f.q.tag == q.tag) then s
  else
    { s.modBase q.stack (fun b => { b with flights := b.flights ++ [s.flightOf kind q] }) with
      mem := s.writtenBy kind q
      dies := s.cleanedBy kind q }

/-! ### The device's own requests (R308, R383, R398, R400) -/

/-- The tag of a port that is free, the lowest (R400). -/
def BaseDie.freeTag (b : BaseDie) (port : Nat) : Option Nat := (List.range 8).find? (fun t => !b.flights.any (fun f => f.q.port == port && f.q.tag == t))

/-- A request of the device placed under the current table: none where its line lies in no device memory. Its write carries the line as it stands, so that memory is changed by it no more. -/
def State.ownFlight (s : State) (x : OwnRequest) : Option BaseFlight :=
  match s.region? x.pa with
  | some e =>
    if e.kind = 0 then
      let p := regionPlace e x.pa
      some ⟨x.kind, ⟨p.1, x.port, 0, s.generation, p.2, x.mask, if x.kind = 1 then [] else s.mem.bytesAt x.pa 128, s.mem.marks x.pa⟩, 0, [], 0, false⟩
    else none
  | none => none

/-- A request of the device at its port: it takes a free tag, or stalls (R400). -/
def State.letsIn (s : State) (b : BaseDie) (f : BaseFlight) : BaseDie :=
  if !b.up then b
  else
    match b.freeTag f.q.port with
    | some t => { b with flights := b.flights ++ [s.flightOf f.kind { f.q with tag := t }] }
    | none => { b with stalled := b.stalled ++ [f] }

/-- Requests that the device makes: they are placed at once, or wait for the new generation while a rewrite drains the old one (R398). -/
def State.askBases (s : State) (xs : List OwnRequest) : State :=
  { s with
    bases := if s.rewrite.isSome then s.bases
      else xs.foldl (fun bs x => match s.ownFlight x with | some f => bs.modify f.q.stack (fun b => s.letsIn b f) | none => bs) s.bases
    rewrite := s.rewrite.map (fun w => { w with own := w.own ++ xs }) }

/-- The control die reads lines of device memory, or writes `n` bytes of each, over its own links (R379, R383, R390, R400). Which of its four links a line takes is open: DESIGN CHOICE, log 89. -/
def State.controlAsks (s : State) (kind : Nat) (xs : List (Nat × Nat)) : State :=
  s.askBases (xs.flatMap (fun x => (linesOf x.1 x.2).map (fun l => ⟨kind, 48 + l % 4, l * 128, lineBytes l x.1 x.2⟩)))

/-! ### Lines of the L2s and the LLCs (R308, R399) -/

/-- A line of an LLC used: it comes first, and the last of a full set of 16 falls out (R399). -/
def BaseDie.touch (b : BaseDie) (line : Nat) : BaseDie :=
  let rest := b.llc.filter (fun x => x ≠ line)
  let set := rest.filter (fun x => Config.llcSet x % 65536 == Config.llcSet line % 65536)
  { b with llc := line :: (if set.length < 16 then rest else rest.filter (fun x => set.getLast? ≠ some x)) }

/-- What a request does with its line in an L2: it reads it, writes some of its bytes, reads and writes it, or gives it back whole. -/
inductive L2Use where
  | read
  | write (bytes : BitVec 128)
  | update
  | whole
  deriving DecidableEq, Repr

/-- A line of an L2 after a request. A write that misses allocates the line without reading it (R308, R400). -/
def L2Use.leaves (u : L2Use) (had : Option L2Line) (line : Nat) : L2Line :=
  match u, had with
  | .write m, some x => { x with dirty := true, valid := x.valid ||| m }
  | .write m, none => ⟨line, true, true, m⟩
  | .read, some x => { x with unread := false }
  | .read, none => ⟨line, false, false, 0⟩
  | _, some x => { x with dirty := true, unread := false }
  | _, none => ⟨line, true, false, 0⟩

/-- Whether a request makes the L2 read the line from its base die (R400). -/
def L2Use.fetches (u : L2Use) (had : Option L2Line) : Bool :=
  match u with
  | .read | .update => (match had with | some x => x.unread | none => true)
  | _ => false

/-- The lines of an L2 with one used, and the line that falls out of a full set of 16 in its slice (R308). -/
def l2Insert (l : List L2Line) (x : L2Line) : List L2Line × Option L2Line :=
  let rest := l.filter (fun y => y.line ≠ x.line)
  let set := rest.filter (fun y => y.line % 48 == x.line % 48 && Config.l2Set y.line % 1024 == Config.l2Set x.line % 1024)
  if set.length < 16 then (x :: rest, none) else (x :: rest.filter (fun y => set.getLast? ≠ some y), set.getLast?)

/-- The write that brings a line back to its base die: masked where the L2 has never read it (R400). -/
def L2Line.back (x : L2Line) : OwnRequest := ⟨if x.unread then 3 else 2, homeSlice (x.line * 128), x.line * 128, x.valid⟩

/-- A line of an L2 used at its home: a line that is not there is read from its base die where its bytes are wanted, and a dirty line that falls out is written back (R308, R400). -/
def State.l2Touch (s : State) (pa : Nat) (u : L2Use) : State :=
  let l2 := (s.die (s.homeDie pa)).l2
  let had := l2.find? (fun x => x.line == pa / 128)
  let ins := l2Insert l2 (u.leaves had (pa / 128))
  (s.modDie (s.homeDie pa) (fun d => { d with l2 := ins.1 })).askBases
    ((if u.fetches had then [⟨1, homeSlice pa, pa / 128 * 128, 0⟩] else []) ++ (ins.2.toList.filter (fun x => x.dirty)).map L2Line.back)

end Sys2Proof.Machine
end

