-- ==== Sys2Proof/Machine/Translate.lean ====
section
/-! DEFINITION. Virtual memory: page-table walks, the TLB, permission checks, the fault ring, and migration faults (R379 to R386, R390). -/

namespace Sys2Proof.Machine

/-! ### Page tables (R380, R381) -/

/-- Bytes of a page of a size code (R380). -/
def pageBytes : Nat → Nat
  | 0 => 2 ^ 12
  | 1 => 2 ^ 14
  | 2 => 2 ^ 16
  | 3 => 2 ^ 18
  | 4 => 2 ^ 21
  | 5 => 2 ^ 24
  | 6 => 2 ^ 27
  | _ => 2 ^ 30

/-- Whether a size code is allowed for a leaf at a level (R380). -/
def sizeAllowed (level size : Nat) : Bool :=
  match level with
  | 0 => decide (size ≤ 3)
  | 1 => decide (4 ≤ size) && decide (size ≤ 6)
  | 2 => size == 7
  | _ => false

/-- The address of the entry of a virtual address in a table at a level (R380). -/
def entryAddr (table level va : Nat) : Nat := table + 8 * (va / 2 ^ (12 + 9 * level) % 512)

/-- FRAME of a page-table entry as a physical address (R381). -/
def pteFrame (e : Nat) : Nat := bits e 51 12 * 4096

/-- Whether a valid entry at a level, read as a leaf, is malformed (R381). -/
def State.malformed (s : State) (level e : Nat) : Bool :=
  let size := bits e 11 9
  let frame := pteFrame e
  !sizeAllowed level size || frame % pageBytes size != 0
    || s.physKind frame == .nothing || (bit e 5 && s.physKind frame == .registers)
    || (bit e 52 && size != 0) || (bit e 53 && !bit e 52)

/-- The TLB entry that a leaf installs for a virtual address (R385). -/
def State.tlbOf (s : State) (part va e : Nat) : TlbEntry :=
  let size := bits e 11 9
  { part := part, vpage := va / pageBytes size * pageBytes size, frame := pteFrame e, size := size,
    perm := ⟨bit e 2, bit e 3, bit e 4, bit e 5⟩, dirty := bit e 8, mig := bit e 52, pr := bit e 53,
    host := s.physKind (pteFrame e) == .host }

/-- The end of a walk. -/
inductive Walk where
  | leaf (addr e : Nat)
  | invalid
  | malformed
  deriving DecidableEq, Repr

/-- A walk from a table at a level (R380, R381, R383). -/
def State.walkFrom (s : State) (va : Nat) : Nat → Nat → Walk
  | 0, table =>
    let a := entryAddr table 0 va
    let e := s.mem.num a 8
    if !bit e 0 then .invalid
    else if bit e 1 || s.malformed 0 e then .malformed
    else .leaf a e
  | level + 1, table =>
    let a := entryAddr table (level + 1) va
    let e := s.mem.num a 8
    if !bit e 0 then .invalid
    else if bit e 1 then s.walkFrom va level (pteFrame e)
    else if s.malformed (level + 1) e then .malformed
    else .leaf a e

/-- The level of the leaf of a page size. -/
def sizeLevel (size : Nat) : Nat := if size ≤ 3 then 0 else if size ≤ 6 then 1 else 2

/-- The entries of a page size's run (R380, R382). -/
def runLength : Nat → Nat
  | 1 => 4
  | 2 => 16
  | 3 => 64
  | 5 => 8
  | 6 => 64
  | _ => 1

/-- A leaf without its A and D bits. -/
def leafBody (e : Nat) : Nat := e - (if bit e 7 then 2 ^ 7 else 0) - (if bit e 8 then 2 ^ 8 else 0)

/-- The leaf that an access takes where the well-formed leaves of a run differ: any of them, by a free value (R382). -/
def State.runLeaf (s : State) (va a e : Nat) : Nat × Nat :=
  let size := bits e 11 9
  let n := runLength size
  if n = 1 then (a, e)
  else
    let entry (k : Nat) : Nat × Nat := let x := a - a / 8 % n * 8 + 8 * k; (x, s.mem.num x 8)
    let others := ((List.range n).map entry).filter (fun x =>
      bit x.2 0 && !bit x.2 1 && bits x.2 11 9 == size && !s.malformed (sizeLevel size) x.2 && leafBody x.2 != leafBody e)
    if others.isEmpty then (a, e) else ((a, e) :: others).getD ((Config.openValue s.fresh (2 ^ 64 + va)).toNat % (others.length + 1)) (a, e)

/-- The walk of a partition's address space. -/
def State.walk (s : State) (part va : Nat) : Walk :=
  match s.part? part with
  | some p => s.walkFrom (va % 2 ^ 57) 4 p.ptroot
  | none => .invalid

/-- The table entries that a walk from a table at a level reads, the last one first. -/
def State.walkReads (s : State) (va : Nat) : Nat → Nat → List Nat
  | 0, table => [entryAddr table 0 va]
  | level + 1, table =>
    let a := entryAddr table (level + 1) va
    let e := s.mem.num a 8
    (if bit e 0 && bit e 1 then s.walkReads va level (pteFrame e) else []) ++ [a]

/-- The walk cache of a partition after a walk: the entries it needed come first, at most 8,192 are kept, and those it did not hold are read from device memory (R385, R400). -/
def State.noteWalk (s : State) (part va : Nat) : State :=
  match s.part? part with
  | some p =>
    let l := s.walkReads (va % 2 ^ 57) 4 p.ptroot
    (s.modPart part (fun p => { p with walked := (l ++ p.walked.filter (fun a => !l.contains a)).take 8192 })).controlAsks 1
      ((l.filter (fun a => !p.walked.contains a)).map (fun a => (a, 8)))
  | none => s

/-- The partitions but for their walk caches, which no result depends on. -/
def State.unwalked (s : State) : List Partition := s.partitions.map (fun p => { p with walked := [] })

/-- The leaf with A set, and D when the walk serves a write (R383). -/
def touchLeaf (e : Nat) (write : Bool) : Nat :=
  let e := if bit e 7 then e else e + 2 ^ 7
  if write && !bit e 8 then e + 2 ^ 8 else e

/-! ### The TLB (R385) -/

/-- Whether a TLB entry covers a virtual address of a partition. -/
def TlbEntry.covers (t : TlbEntry) (part va : Nat) : Bool :=
  t.part == part && decide (t.vpage ≤ va) && decide (va < t.vpage + pageBytes t.size)

/-- The physical address of a virtual address under a TLB entry. -/
def TlbEntry.pa (t : TlbEntry) (va : Nat) : Nat := t.frame + (va - t.vpage)

/-- The TLB with an entry used: it comes first, and the 513th falls out (R385). -/
def tlbUse (l : List TlbEntry) (t : TlbEntry) : List TlbEntry := (t :: l.filter (fun x => x ≠ t)).take 512

/-- The answer of a translation. -/
inductive Translated where
  | ok (t : TlbEntry) (pa : Nat)
  | invalid
  | malformed
  deriving DecidableEq, Repr

/-- A translation through a core's TLB and, on a miss or a first write, the walker (R383, R385). -/
def State.translate (s : State) (c : CoreRef) (part va : Nat) (write : Bool) : State × Translated :=
  let va := va % 2 ^ 57
  match (s.core c).tlb.find? (fun t => t.covers part va && (t.dirty || !write)) with
  | some t => (s.modCore c (fun k => { k with tlb := tlbUse k.tlb t }), .ok t (t.pa va))
  | none =>
    let s := s.noteWalk part va
    match s.walk part va with
    | .invalid => (s, .invalid)
    | .malformed => (s, .malformed)
    | .leaf a e =>
      let l := s.runLeaf va a e
      let a := l.1
      let e := touchLeaf l.2 write
      let s := { s with mem := s.mem.setNum a 8 e }
      let s := if e = l.2 then s else s.l2Touch a .update
      let t := s.tlbOf part va e
      (s.modCore c (fun k => { k with tlb := tlbUse (k.tlb.filter (fun x => !x.covers part va)) t }), .ok t (t.pa va))

/-! ### Permissions (R384) -/

/-- What an access needs of its page. -/
structure Need where
  r : Bool
  w : Bool
  x : Bool
  fe : Bool
  deriving DecidableEq, Repr

def needRead : Need := ⟨true, false, false, false⟩
def needWrite : Need := ⟨false, true, false, false⟩
def needBoth : Need := ⟨true, true, false, false⟩
def needExec : Need := ⟨false, false, true, false⟩

/-- The protection code of the first permission missing (R384, R468). -/
def Need.missing (n : Need) (p : Perm) : Option Nat :=
  if n.r && !p.r then some 2
  else if n.w && !p.w then some 3
  else if n.x && !p.x then some 7
  else if n.fe && !p.fe then some 4
  else none

/-! ### The fault ring (R386) -/

/-- A fault entry for a page, joined to an unanswered one of the page, and its sequence number; `cause` 2 is for information and stands answered. -/
def State.raiseFault (s : State) (part : Nat) (va : Nat) (kind cause : Nat) (unitId die core : Nat) : State × Nat :=
  match s.part? part with
  | none => (s, 0)
  | some p =>
    let page := va % 2 ^ 64 / 4096 * 4096
    match p.faults.find? (fun f => f.vpage == page && f.answer.isNone) with
    | some f => if cause = 2 then (s, f.seq) else (s, f.seq)
    | none =>
      let f : FaultEntry :=
        { seq := p.nextSeq, vpage := page, unitId := unitId, die := die % 8, core := core, cause := cause, kind := kind,
          answer := if cause = 2 then some false else none }
      ({ s.modPart part (fun p => { p with faults := p.faults ++ [f], nextSeq := p.nextSeq + 1 }) with msix := s.msix + 1 }, p.nextSeq)

/-- A fault entry as its 32 bytes in the ring of the partition's fault area (R386). -/
def FaultEntry.bytes (f : FaultEntry) : List Byte :=
  toBytes 8 f.vpage ++ toBytes 8 (f.unitId % 2 ^ 32 * 2 ^ 32 + f.die % 8 * 2 ^ 21 + f.core % 128 * 2 ^ 14 + f.cause % 4 * 2 ^ 4 + f.kind % 4) ++ toBytes 8 f.seq ++ toBytes 8 0

/-- The ring of a partition's fault area, oldest entry first (R386). -/
def Partition.faultArea (p : Partition) : List Byte := p.faults.flatMap FaultEntry.bytes

/-- The answer a fault entry has received. -/
def State.faultAnswer (s : State) (part seq : Nat) : Option Bool :=
  match s.part? part with
  | none => none
  | some p => match p.faults.find? (fun f => f.seq == seq) with
    | some f => f.answer
    | none => some true

/-! ### Migration (R390) -/

/-- The directory entry of a page. -/
def State.dirEntry? (s : State) (part vpage : Nat) : Option DirEntry :=
  match s.part? part with
  | some p => p.directory.find? (fun d => d.vpage == vpage)
  | none => none

/-- How many moves of a page have ended: a request made before the last of them has been answered (R390). -/
def State.moveTurn (s : State) (part vpage : Nat) : Nat := match s.dirEntry? part vpage with | some d => d.turn | none => 0

/-- Whether the request of an agent for a page, made in a turn, is answered: a move has ended since, with "resolved" or, for a request held over it, "retry"; or the page lies in device memory, is pinned remote, or migrates no more (R390 to R392). -/
def State.migrationOver (s : State) (part vpage turn : Nat) : Bool :=
  match s.dirEntry? part vpage with
  | some d => d.home == .dev || (d.home == .host && d.pinned) || (d.home != .moving && d.turn != turn)
  | none => true

/-- Whether an access to a page must wait for the migration service: a migratable page in motion, unpopulated, or host-resident and not pinned remote (R390). -/
def State.mustMigrate (s : State) (t : TlbEntry) (va : Nat) : Bool :=
  t.mig &&
  (match s.dirEntry? t.part (va / 4096 * 4096) with
   | some d => decide (d.home = .moving) || (t.host && !t.pr)
   | none => t.host && !t.pr)

/-! ### One access -/

/-- Where an access of a program, copy or engine stands after translation. -/
inductive Reach where
  /-- The physical address, and the entry it came from. -/
  | ok (pa : Nat) (t : TlbEntry)
  /-- A permission or capability is missing: the code of R468. -/
  | denied (code : Nat)
  /-- A page fault, sent to the host as the entry with this number. -/
  | fault (seq : Nat)
  /-- A page fault that no answer can resolve. -/
  | unresolvable
  /-- A migration fault on this page, in this turn. -/
  | migrate (vpage turn : Nat)
  /-- A word whose home is the control die, on a host page (R395). -/
  | remote (pa : Nat)
  deriving DecidableEq, Repr

/-- The translation of an access with its checks, in the order of R384: permissions before migration. `atHome` marks full/empty forms and atomics, which a host page hands to the control die (R167, R395). -/
def State.reach (s : State) (c : CoreRef) (part unitId : Nat) (va : Dword) (need : Need) (kind : Nat) (atHome : Bool) : State × Reach :=
  match s.translate c part va.toNat need.w with
  | (s, .invalid) =>
    let r := s.raiseFault part va.toNat kind 0 unitId c.die c.core
    (r.1, .fault r.2)
  | (s, .malformed) => ((s.raiseFault part va.toNat kind 2 unitId c.die c.core).1, .unresolvable)
  | (s, .ok t pa) =>
    match need.missing t.perm with
    | some code => (s, .denied code)
    | none =>
      if s.mustMigrate t (va.toNat % 2 ^ 57) then
        (s, .migrate (va.toNat % 2 ^ 57 / 4096 * 4096) (s.moveTurn t.part (va.toNat % 2 ^ 57 / 4096 * 4096)))
      else if t.host && (atHome || need.fe) then (s, .remote pa)
      else (s, .ok pa t)

/-- The reach of a span of bytes that may cross pages: the physical pieces in order, or the first page that stops it. -/
def State.reachSpan (s : State) (c : CoreRef) (part unitId : Nat) (va : Dword) (need : Need) (kind : Nat) :
    Nat → Nat → State × (List (Nat × Nat) ⊕ (Dword × Reach))
  | 0, _ => (s, .inl [])
  | fuel + 1, n =>
    if n = 0 then (s, .inl [])
    else
      match s.reach c part unitId va need kind false with
      | (s, .ok pa t) =>
        let here := min n (t.vpage + pageBytes t.size - va.toNat % 2 ^ 57)
        match s.reachSpan c part unitId (va + dword here) need kind fuel (n - here) with
        | (s, .inl rest) => (s, .inl ((pa, here) :: rest))
        | (s, .inr e) => (s, .inr e)
      | (s, r) => (s, .inr (va, r))

/-- The bytes of physical pieces, in order. -/
def State.piecesBytes (s : State) (ps : List (Nat × Nat)) : List Byte := ps.flatMap (fun p => s.readPhys p.1 p.2)

end Sys2Proof.Machine
end

