-- ==== Sys2Proof/Machine/Ops.lean ====
section
/-! DEFINITION. The named operations over memory, and taking a trap and returning from one (R125, R142, R143, R150, R169, R182, R183, R319, R325, R462). -/

namespace Sys2Proof.Machine

/-! ### The host's commands (R376, R421) -/

/-- A reply to the host. -/
def State.reply (s : State) (r : HostReply) : State := { s with replies := s.replies ++ [r] }

/-- `BOOTSTAT`.READY. -/
def State.bootReady (s : State) : Bool := s.bootstat.getLsbD 31

/-- A Smivik command; before READY it returns a not-ready status (R421). -/
def State.smivik (s : State) (f : State → Outcome) : Outcome := if s.bootReady then f s else .next (s.reply .notReady)

/-- Whether a port carries traffic: once the boot is done, one that did not train stays down (R419). -/
def State.portServes (s : State) (port : Nat) : Bool := !s.bootReady || decide (2 ≤ port) || s.portsUp.getLsbD port

/-- What a port asks; nothing comes from one that is down (R419). -/
def State.viaPort (s : State) (port : Nat) (f : State → Outcome) : Outcome := if s.portServes port then f s else .next s

/-- A Smivik command that needs a semaphore; firmware refuses a port that does not hold it (R376). -/
def State.smivikHeld (s : State) (port sem : Nat) (f : State → Outcome) : Outcome :=
  s.viaPort port (fun s => s.smivik (fun s => if s.holds port sem then f s else .next (s.reply (.status false))))

/-! ### The L1 as tags (R182, R183, R210, R462) -/

/-- The gang slot of a slice of a group. -/
def Group.slotOf (g : Group) (idx : Nat) : Nat := (g.gang (idx / g.gangSize)).slot

/-- A gang of a core counted a lost-locality event (R183). -/
def State.countLost (s : State) (c : CoreRef) (slot : Nat) : State :=
  let s := { s with groups := s.groups.map (fun (g : Group) =>
    if g.coreRef = c ∧ g.swapped = false then
      { g with gangs := g.gangs.map (fun (k : Gang) => if k.slot = slot then { k with lost := k.lost + 1, victims := (k.victims + 1) % 2 ^ 32 } else k) }
    else g) }
  s.modCore c (fun k => { k with windowLost := k.windowLost + 1 })

/-- The lines of an L1 with one brought first, and the victim of its set when the set held sixteen others (R210). -/
def l1Insert (l : List L1Line) (x : L1Line) : List L1Line × Option L1Line :=
  let rest := l.filter (fun y => y.line ≠ x.line)
  let set := rest.filter (fun y => y.line % 128 == x.line % 128)
  if set.length < 16 then (x :: rest, none)
  else
    match set.getLast? with
    | some v => (x :: rest.filter (fun y => y.line ≠ v.line), some v)
    | none => (x :: rest, none)

/-- Whether an L1 holds a line, and whether it holds it unmarked (R210, R462). -/
def Core.hits (k : Core) (pa : Nat) : Bool := k.l1.any (fun x => x.line == pa / 128)
def Core.hitsFresh (k : Core) (pa : Nat) : Bool := k.l1.any (fun x => x.line == pa / 128 && !x.stale)

/-- A miss of an L1 by a gang at the victim tag array: the line's entry goes, and counts when the gang owned it (R183). -/
def State.l1Miss (s : State) (c : CoreRef) (slot : Option Nat) (pa : Nat) : State :=
  let found := (s.core c).victims.find? (fun v => v.1 == pa / 128)
  let s := s.modCore c (fun k => { k with victims := k.victims.filter (fun v => v.1 ≠ pa / 128) })
  match found, slot with
  | some v, some o => if v.2 = o then s.countLost c o else s
  | _, _ => s

/-- A hit, a refetch of a stale line, or a fill of a line of an L1 by a gang (R182, R183, R462); a shadow owns nothing (R182). -/
def State.l1Touch (s : State) (c : CoreRef) (slot : Option Nat) (pa : Nat) : State :=
  let s := if (s.core c).hits pa then s else s.l1Miss c slot pa
  s.modCore c (fun k =>
    let ins := l1Insert k.l1 ⟨pa / 128, slot, false⟩
    { k with
      l1 := ins.1
      victims := match ins.2 with
        | some ⟨l, some o, _⟩ => ((l, o) :: k.victims).take 1024
        | _ => k.victims })

/-- A store updates a line that hits, and allocates none on a miss (R183, R210). -/
def State.l1Store (s : State) (c : CoreRef) (slot : Option Nat) (pa : Nat) : State :=
  if (s.core c).hits pa then s.l1Touch c slot pa else s.l1Miss c slot pa

/-- An acquire at cluster scope or wider marks every line of the core's L1 stale (R462). -/
def State.acquire (s : State) (c : CoreRef) (scope : Nat) : State :=
  if scope < 2 then s else s.modCore c (fun k => { k with l1 := k.l1.map (fun (x : L1Line) => { x with stale := true }) })

/-! ### Lines at their home: L2, ownership, transactions (R308, R319, R325) -/

/-- A die looks up the home of an address: its home map keeps the 128 region descriptors used last, each with its generation (R307, R398). -/
def State.homeLookup (s : State) (die pa : Nat) : State :=
  match s.region? pa with
  | some e => s.modDie die (fun d => { d with homeMap := ((s.generation, e) :: d.homeMap.filter (fun x => x ≠ (s.generation, e))).take 128 })
  | none => s

/-- The predictor entry of a line in a core, as it stands or as a tag mismatch installs it (R319). -/
def Core.predict (k : Core) (pa : Nat) : PredictorEntry :=
  match k.predictor.find? (fun e => e.index == bits pa 14 7) with
  | some e => if e.tag = bits pa 51 15 then e else ⟨bits pa 14 7, bits pa 51 15, 0⟩
  | none => ⟨bits pa 14 7, bits pa 51 15, 0⟩

/-- The predictor with the entry of a line given a count. -/
def Core.setPredict (k : Core) (pa n : Nat) : Core :=
  let e : PredictorEntry := ⟨bits pa 14 7, bits pa 51 15, n⟩
  { k with predictor := e :: k.predictor.filter (fun x => x.index ≠ e.index) }

/-- The core that owns a line, as the home die records it (R319). -/
def State.lineOwner (s : State) (pa : Nat) : Option CoreRef :=
  match (s.die (s.homeDie pa)).owned.find? (fun o => o.1 == pa / 128) with
  | some o => some ⟨o.2 / 96, o.2 % 96⟩
  | none => none

/-- The home recalls a line from the core that owns it, which writes its data back; a recall suffered adds one to the owner's counter (R319). -/
def State.recall (s : State) (pa : Nat) : State :=
  match s.lineOwner pa with
  | none => s
  | some c =>
    let s := s.modDie (s.homeDie pa) (fun d => { d with owned := d.owned.filter (fun o => o.1 ≠ pa / 128) })
    (s.modCore c (fun k => k.setPredict pa (min 3 ((k.predict pa).count + 1)))).l2Touch pa .whole

/-- Bytes of memory that a slice's own command has changed: a transaction of the slice that has loaded one of them meets a conflict, for at its commit point it would not be current (R342). -/
def Slice.ownWrite (sl : Slice) (pa n : Nat) : Slice :=
  match sl.tx with
  | some t => if t.reads.any (fun a => decide (pa ≤ a) && decide (a < pa + n)) then { sl with tx := some { t with conflict := true } } else sl
  | none => sl

/-- Every open transaction of another slice whose set holds a line that has been changed meets a conflict (R325). -/
def State.conflictLine (s : State) (by_ : Option SliceRef) (line : Nat) : State :=
  { s with groups := s.groups.map (fun (g : Group) =>
    { g with slices := g.slices.mapIdx (fun i (sl : Slice) =>
      match sl.tx with
      | some t =>
        if some (SliceRef.mk g.gid i) ≠ by_ ∧ t.lines.any (fun l => l.1 == line) then { sl with tx := some { t with conflict := true } } else sl
      | none => sl) }) }

/-- A line of device memory that a host port holds is changed: the device asks for it back (R460, R461). -/
def State.snoop (s : State) (line : Nat) : State :=
  if s.hostLines.any (fun x => x.2 == line) then
    { s with hostLines := s.hostLines.filter (fun x => x.2 != line), backInvalidates := s.backInvalidates ++ [line] }
  else s

/-- A die's request finds the home of a line: a hint sends it first to the die it names, where only a line homed elsewhere needs the home map (R307, R309). -/
def State.findHome (s : State) (hint : Option Nat) (die pa : Nat) : State :=
  match hint with
  | some n => if s.homeDie pa = n then s else s.homeLookup n pa
  | none => s.homeLookup die pa

/-- A full/empty access to a word at its home, which recalls the line and uses its L2 line; on a host page the control die serves it (R308, R319, R395). -/
def State.useHome (s : State) (pa : Nat) (write : Bool) : State :=
  if s.physKind pa = .host then s else (s.recall pa).l2Touch pa (if write then .update else .read)

/-- Bytes read by a die, for a slice's fetch or wait or for an engine, at the homes of their lines; device registers have none (R210, R307, R308, R319, R378). -/
def State.readHome (s : State) (die pa n : Nat) : State :=
  if s.physKind pa = .registers then s
  else (linesOf pa n).foldl (fun s l => (((s.homeLookup die (l * 128)).recall (l * 128)).l2Touch (l * 128) .read)) s

/-- A slice has met the stores of its other path to some bytes of a memory (R130, R338). -/
def State.meetsPaths (s : State) (r : SliceRef) (sp : Space) (home a n : Nat) : State := s.modSlice r (fun sl => sl.meets sl.pathStores.length sp home a n)

/-- Bytes written to physical memory by an agent: the line's owner is recalled, transactions that hold the line meet a conflict, and so does the writer's own that has loaded them; poison is carried or cleared (R308, R319, R325, R342, R413). -/
def State.writePhys (s : State) (by_ : Option SliceRef) (pa : Nat) (data : List Byte) (poisoned : Bool) : State :=
  let s := (linesOf pa data.length).foldl (fun s l =>
    (((s.recall (l * 128)).conflictLine by_ l).l2Touch (l * 128) (.write (lineBytes l pa data.length))).snoop l) s
  let s := match by_ with | some r => (s.meetsPaths r .glb 0 pa data.length).modSlice r (fun sl => sl.ownWrite pa data.length) | none => s
  { s with mem := s.mem.store 128 pa data poisoned }

/-! ### Park lists (R169) -/

/-- Entries that a change of a word's bit wakes: on full, the LDW entries before the first LDC and that LDC; on empty, the first STF. -/
def wakeEntries (same : ParkEntry → Bool) (full : Bool) : Bool → List ParkEntry → List ParkEntry
  | _, [] => []
  | stop, e :: rest =>
    if same e && !e.woken && e.wantsFull == full && !stop then
      { e with woken := true } :: wakeEntries same full (if full then e.takes else true) rest
    else e :: wakeEntries same full stop rest

/-- Marks the lanes of woken entries in their slices. -/
def State.markWoken (s : State) : State :=
  s.parks.foldl (fun s e =>
    if e.woken then
      s.modSlice e.ref (fun sl =>
        match sl.wait with
        | some (.access a) => if a.lanes.get e.lane = .parked then { sl with wait := some (.access { a with lanes := a.lanes.set e.lane .woken }) } else sl
        | _ => sl)
    else s) s

/-- The bit of a word changed at its home: its park list is woken in order (R169, R173). -/
def State.wake (s : State) (space : Space) (home word_ : Nat) (full : Bool) : State :=
  let away (e : ParkEntry) : Bool := (e.space == .cls || e.space == .chp) && (s.group e.ref.gid).swapped
  { s with parks := wakeEntries (fun e => e.space == space && e.home == home && e.word == word_ && !away e) full false s.parks }.markWoken

/-- The full/empty bit of a physical word set by an event of R168, with its wakes. -/
def State.setPhysFull (s : State) (by_ : Option SliceRef) (pa : Nat) (full : Bool) : State :=
  if s.mem.full pa = full then s
  else
    let s := { s.useHome pa true with mem := s.mem.setFull pa full }
    (s.conflictLine by_ (pa / 128)).wake .glb 0 (pa / 8) full

/-! ### The trap handler address (R143) -/

/-- A read of bytes of `glb` for a slice: the bytes and the address of poisoned data, or the reach that stops it. -/
def State.readGlb (s : State) (r : SliceRef) (va : Dword) (n : Nat) (need : Need) (kind : Nat) :
    State × (List Byte × Option Nat ⊕ (Dword × Reach)) :=
  let g := s.group r.gid
  let unitId := match s.unit? g.uid with | some u => u.unitId | none => 0
  match s.reachSpan g.coreRef g.part unitId va need kind (n + 1) n with
  | (s, .inl ps) => (ps.foldl (fun s p => s.readHome g.die p.1 p.2) s, .inl (s.piecesBytes ps, ps.findSome? (fun p => s.mem.poisonAt 128 p.1 p.2)))
  | (s, .inr e) => (s, .inr e)

/-- The trap record written (R143). -/
def Slice.record (sl : Slice) (t : Trap) (a : Dword) (hnd : Bool) : Slice :=
  let xcause : Word :=
    if hnd then word (2 ^ 31 + t.cause) else (sl.trap.xcause &&& 0x80000000) ||| word t.cause
  { sl with trap := ⟨a, xcause, t.addr, t.lanes.zeroExtend 32, t.info⟩ }

/-- The unit of a slice is cancelled with a cause, and the slice ends (R143). -/
def State.cancelBy (s : State) (r : SliceRef) (cause : Nat) : State :=
  (s.cancelUnit (s.group r.gid).uid cause).endSlice r

/-- The end of trap delivery: the slice goes on at its handler, waits for the handler address to be readable, or its unit is cancelled (R143). A poisoned handler address is used as it stands, and consumes nothing: R143 and R414 do not speak of it (DESIGN CHOICE, log 82). -/
def State.enterHandler (s : State) (r : SliceRef) (cause : Nat) : State :=
  let frame := (s.recordOf (s.group r.gid).uid).frame
  if frame = 0 then s.cancelBy r cause
  else
    match s.readGlb r frame 8 needRead 0 with
    | (s, .inl (bs, _)) =>
      let h := dword (fromBytes bs)
      if h = 0 ∨ h.extractLsb' 0 2 ≠ 0 then s.cancelBy r cause
      else s.modSlice r (fun sl => { sl with pc := h, wait := none })
    | (s, .inr (_, .fault seq)) => s.modSlice r (fun sl => { sl with wait := some (.handler (.fault seq) cause) })
    | (s, .inr (_, .migrate p n)) => s.modSlice r (fun sl => { sl with wait := some (.handler (.migration p n) cause) })
    | (s, .inr _) => s.cancelBy r cause

/-- The delivery of R143 to a slice at a group at address `a`. A trap inside a transaction aborts it instead under R325, but for the misuse traps; a cancel or budget trap aborts it and then cancels. Delivery to a handler closes an open region (R149). -/
def State.deliverTrap (s : State) (r : SliceRef) (a : Dword) (t : Trap) : State :=
  let sl := s.slice r
  let never := t.cause == 0x19 || t.cause == 0x1A || t.cause == 0x1B
  if sl.tx.isSome && t.cause != 0x17 && !never then s.modSlice r (fun sl => sl.abortTx 7 t.cause)
  else
    let s := if sl.tx.isSome then s.modSlice r (fun sl => { sl.abortTx 8 0 with wait := none }) else s
    if never || sl.trap.xcause.getLsbD 31 then (s.modSlice r (fun sl => sl.record t a false)).cancelBy r t.cause
    else (s.modSlice r (fun sl => { sl.record t a true with regpc := 0, wait := none })).enterHandler r t.cause

/-- A disagreement of the two slices of a pair at a group at address `a`: the open region restarts, or the unit is cancelled with cause 0x19 (R200). The lanes of the record are the group's effective mask, log 71. -/
def State.takeMismatch (s : State) (r : SliceRef) (a : Dword) (eff : Mask) (kind : Nat) (addr : Dword) : State :=
  if (s.slice r).restarts then s.modSlice r Slice.restart else s.deliverTrap r a ⟨0x19, addr, eff, word kind⟩

/-- The disagreement that the comparison of a trap record finds, if an upset has made one: in the record or in the path signature (R199, R200). -/
def State.trapMismatch (s : State) (r : SliceRef) : Option Nat :=
  if (s.group r.gid).shadow then (Config.shadowUpset (s.fresh * 128 + r.idx)).map (fun x => 3 + x.1 % 2) else none

/-- `take_trap` of R143 for a slice at a group at address `a`; under shadow execution the pair has compared the trap record first (R199). -/
def State.takeTrap (s : State) (r : SliceRef) (a : Dword) (t : Trap) : State :=
  match s.trapMismatch r with
  | some kind => s.takeMismatch r a t.lanes kind 0
  | none => s.deliverTrap r a t

/-- The return of `ret.x` from a handler: HND is cleared and the slice goes on at `XPC` (R125). -/
def Slice.returnFromTrap (sl : Slice) : Slice :=
  { sl with trap := { sl.trap with xcause := sl.trap.xcause &&& 0x7FFFFFFF }, pc := sl.trap.xpc }

/-- The consumption of poisoned data in some lanes: a restart of the open region, or trap 0x18 (R150). -/
def State.consumePoison (s : State) (r : SliceRef) (a : Dword) (lanes : Mask) (origin : Dword) : State :=
  let sl := s.slice r
  if sl.tx.isSome then s.modSlice r (fun sl => sl.abortTx 7 0x18)
  else if sl.restarts then s.modSlice r Slice.restart
  else s.takeTrap r a ⟨0x18, origin, lanes, word (if sl.regpc.getLsbD 0 then 1 else 0)⟩

end Sys2Proof.Machine
end

