-- ==== Sys2Proof/Machine/Flags.lean ====
section
/-! DEFINITION. The sticky flags, the group saturation flag and the armed-flag check (R27 to R31). -/

namespace Sys2Proof.Machine

/-- Flags raised in the lanes of a mask: ORed into `XF`, with GSAT set in the event that raises SAT (R28, R80). -/
def State.raiseFlags (s : State) (r : SliceRef) (eff : Mask) (f : Lanes Flags) : State :=
  let s := s.modSlice r (fun sl => sl.orFlags eff f)
  if eff.lanes.any (fun i => (f.get i).getLsbD 5) then s.modGroup r.gid (fun g => { g with gsat := true }) else s

/-- The same flags in every lane of a mask. -/
def State.raiseFlagsAll (s : State) (r : SliceRef) (eff : Mask) (f : Flags) : State := s.raiseFlags r eff (Lanes.all f)

/-- `XF` of a lane as read: its six flags and the group's GSAT (R27). -/
def readXf (sl : Slice) (gsat : Bool) (lane : Nat) : Word := (sl.xf.get lane).zeroExtend 32 ||| (if gsat then 0x100 else 0)

/-- The flags found at a barrier, in the order of `FMT`[9:4] (R31). -/
def armedFlags (sl : Slice) (gsat : Bool) : BitVec 6 :=
  let any (k : Nat) : Bool := (Mask.lanes 15).any (fun i => (sl.xf.get i).getLsbD k)
  let found : BitVec 6 :=
    (if gsat then 1 else 0) ||| (if any 0 then 2 else 0) ||| (if any 1 then 4 else 0) ||| (if any 2 then 8 else 0) ||| (if any 3 then 16 else 0)
      ||| (if any 4 then 32 else 0)
  sl.fmt.extractLsb' 4 6 &&& found

/-- The armed-flag trap of a barrier, if an armed flag is set (R31). -/
def armedTrap (sl : Slice) (gsat : Bool) (eff : Mask) : Option Trap :=
  if armedFlags sl gsat = 0 then none else some ⟨0x0B, 0, eff, (armedFlags sl gsat).zeroExtend 32⟩

/-- The rounding mode of an instruction: RNE without an RND prefix; DYN reads `FMT`.RM (R78, R97). -/
def roundingOf (p : Prefixes) (fmt : BitVec 10) : Rounding :=
  match p.rnd with
  | none => .rne
  | some v => if v % 8 = 5 then Rounding.ofCode (fmt.toNat % 8) else Rounding.ofCode (v % 8)

/-- Saturation mode B selected in `FMT` (R29). -/
def modeB (fmt : BitVec 10) : Bool := fmt.getLsbD 3

end Sys2Proof.Machine
end

