-- ==== Sys2Proof/Machine/Issue.lean ====
section
/-! DEFINITION. How a subgang issues an instruction group: legality, cancels, full/empty operands, poison, shadow comparison, and what becomes of each slice afterwards (R23, R24, R49, R55 to R57, R109, R132, R133, R146, R149, R194, R199, R200, R414). -/

namespace Sys2Proof.Machine

/-- An instruction group as it issues: its opcode, form, prefixes, fields, shape, its address and the address after it (R41). -/
structure Grp where
  op : Nat
  wide : Bool
  p : List Prefix
  w : WForm
  pfx : Prefixes
  shape : Shape
  addr : Dword
  next : Dword
  deriving DecidableEq, Repr

/-- The group of an opcode at an address. -/
def Grp.of (op : Nat) (wide : Bool) (p : List Prefix) (w : WForm) (a : Dword) : Grp :=
  let pfx := Prefixes.of p
  { op := op, wide := wide, p := p, w := w, pfx := pfx, shape := (shapeOf op w pfx).getD {}, addr := a,
    next := a + dword (4 * p.length + if wide then 8 else 4) }

/-- One slice at an instruction group: its place, its effective mask, and the gang lane index of its lane 0. -/
structure Ctx where
  g : Grp
  ref : SliceRef
  eff : Mask
  g0 : Nat
  deriving DecidableEq, Repr

/-- What becomes of a slice after its part of a group. -/
inductive Fate where
  /-- It goes on after the group. -/
  | next
  /-- It goes on at an address. -/
  | goto (pc : Dword)
  /-- It takes a trap. -/
  | trap (t : Trap)
  /-- It aborts its transaction with a reason, then takes a trap. -/
  | misuse (t : Trap)
  /-- It parks: it waits in a subgang of its own. -/
  | park (w : Wait)
  /-- It waits in its subgang. -/
  | stay (w : Wait)
  /-- It consumes poison in some lanes. -/
  | poison (lanes : Mask) (origin : Dword)
  /-- A shadow mismatch of some kind at an address. -/
  | upset (kind : Nat) (addr : Dword)
  /-- It goes on after the group, as a subgang of its own. -/
  | alone
  /-- Its place and wait have been set already. -/
  | moved
  deriving DecidableEq, Repr

/-- What a slice finds before it may perform its part. -/
inductive Verdict where
  | idle
  | hold
  | run
  | no (f : Fate)
  deriving DecidableEq, Repr

/-- An instruction's own checks that need no operand value: the fate of a slice that fails one (step 7 of R56, part 1). -/
abbrev Own := State → Ctx → Option Fate

/-- What the participating slices do together: the state after, the fate of each, and the fate of the slices with an empty mask. -/
structure Ran where
  s : State
  fates : List (Nat × Fate)
  idle : Fate
  deriving DecidableEq, Repr

abbrev Run := List Ctx → State → Ran

/-! ### Effective mask and members -/

/-- The effective mask of a slice at a group (R49). -/
def effOf (sl : Slice) (g : Grp) : Mask :=
  if !g.wide then sl.active
  else if g.w.neg then sl.active &&& ~~~(sl.mask g.w.pred.toNat) else sl.active &&& sl.mask g.w.pred.toNat

/-- The unended slices of gang `k`, ascending. -/
def Group.unended (g : Group) (k : Nat) : List Nat :=
  ((List.range g.gangSize).map (· + k * g.gangSize)).filter (fun i => decide (i < g.slices.length) && !(g.slice i).ended)

/-- The slices of a subgang, ascending (R132). -/
def Group.subgang (g : Group) (k sub : Nat) : List Nat := (g.unended k).filter (fun i => (g.slice i).sub == sub)

/-! ### Legality (R56, R57) -/

/-- `XINFO` of a reserved-field trap raised by a value written at run time (R57). -/
def infoRuntime : Word := 0xC0

/-- The position of the first prefix that is the second of its kind or the third prefix (step 2). -/
def conflictAt (p : List Prefix) : Option Nat :=
  (List.range p.length).find? (fun i =>
    decide (2 ≤ i) || (match p[i]? with
      | some x => (p.take i).any (fun y => decide (y.kind = x.kind))
      | none => false))

/-- The trap of a prefix word at a position. -/
def prefixTrap (cause : Nat) (p : List Prefix) (i : Nat) (a : Dword) (eff : Mask) : Trap :=
  ⟨cause, a + dword (4 * i), eff, match p[i]? with | some x => prefixWord x | none => 0⟩

/-- The position and bit of the first offending word (step 5): positions of prefixes, then the instruction. -/
def offenceFrom (sh : Shape) (w : WForm) (wide : Bool) : Nat → List Prefix → Option (Nat × Nat × Bool)
  | i, [] => (leastBit (instrOffences sh w wide)).map (fun b => (i, b, true))
  | i, x :: rest =>
    match leastBit (prefixOffences sh x) with
    | some b => some (i, b, false)
    | none => offenceFrom sh w wide (i + 1) rest

/-- The trap of the word legality of a group, steps 2, 4 and 5 of R56; steps 1 and 3 are those of an illegal group. -/
def Grp.illegal (g : Grp) (eff : Mask) : Option Trap :=
  match conflictAt g.p with
  | some i => some (prefixTrap 0x04 g.p i g.addr eff)
  | none =>
    match (List.range g.p.length).find? (fun i => match g.p[i]? with | some x => !g.shape.accepts x.kind | none => false) with
    | some i => some (prefixTrap 0x03 g.p i g.addr eff)
    | none =>
      match offenceFrom g.shape g.w g.wide 0 g.p with
      | some (i, b, instr) => some ⟨0x02, g.addr + dword (4 * i), eff, word ((if instr then 0 else (i + 1) * 64) + b)⟩
      | none => none

/-- The registers a group's operand fields read. -/
def Grp.reads (g : Grp) : List Nat :=
  g.shape.a.reads g.w.a.toNat ++ g.shape.b.reads g.w.b.toNat ++ g.shape.c.reads g.w.c.toNat ++ g.shape.d.reads g.w.d.toNat

/-- The registers a group's operand fields write. -/
def Grp.writes (g : Grp) : List Nat := g.shape.d.writes g.w.d.toNat ++ g.shape.a.writes g.w.a.toNat

/-- Step 6 of R56: a `v` register beyond the allocation, then an invalid window (R17, R21). -/
def Grp.beyond (g : Grp) (sl : Slice) (eff : Mask) : Option Trap :=
  if (g.reads ++ g.writes).any (fun x => specIsV x && decide (sl.v.length ≤ x)) then some ⟨0x09, g.addr, eff, 11⟩
  else if g.shape.a = .window ∧ (sl.w.getD (g.w.a.toNat % 8) none).isNone then some ⟨0x09, 0, eff, 6⟩
  else none

/-! ### Cancels (R146, R370) -/

/-- The cycle budget of a record; 0 is none (R370). -/
def Record.budget (r : Record) : Nat := bits r.placement.toNat 63 16

/-- Whether a unit has used more cycles than its record's budget (R370). -/
def UnitState.overBudget (u : UnitState) : Bool := u.budgetOut || (u.record.budget != 0 && decide (u.record.budget < u.cycles))

/-- The cancel or budget trap a slice has pending. -/
def State.pending (s : State) (r : SliceRef) (eff : Mask) : Option Trap :=
  match s.unit? (s.group r.gid).uid with
  | none => none
  | some u =>
    if u.overBudget then some ⟨0x1A, 0, eff, 0⟩
    else match u.pendingCancel with
      | some level => some ⟨0x1B, 0, eff, word level⟩
      | none => none

/-! ### Full/empty operands and poison (R23, R24, R414) -/

/-- The lanes of a mask in which some register of a list is empty. -/
def Slice.anyEmpty (sl : Slice) (regs : List Nat) (eff : Mask) : Mask := regs.foldl (fun m x => m ||| sl.emptyIn x eff) 0

/-- The operands with their trap bits: registers, trap bit, number. -/
def Grp.operands (g : Grp) : List (List Nat × Bool × Nat) :=
  [(g.shape.a.reads g.w.a.toNat, g.w.eta, 0), (g.shape.b.reads g.w.b.toNat, g.w.etb, 1), (g.shape.c.reads g.w.c.toNat, g.w.etc, 2)]

/-- Whether a slice must wait for a register at a group: an empty source without a trap bit, or an empty destination. -/
def Grp.mustWait (g : Grp) (sl : Slice) (eff : Mask) : Bool :=
  g.operands.any (fun o => !o.2.1 && sl.anyEmpty o.1 eff != 0) || sl.anyEmpty (g.shape.d.reads g.w.d.toNat ++ g.writes) eff != 0

/-- The register-empty trap of the lowest operand that is empty and has its trap bit set (R23, R145). -/
def Grp.emptyTrap (g : Grp) (sl : Slice) (eff : Mask) : Option Trap :=
  match g.operands.find? (fun o => o.2.1 && sl.anyEmpty o.1 eff != 0) with
  | some o => some ⟨0x05, 0, sl.anyEmpty o.1 eff, word o.2.2⟩
  | none => none

/-- The registers whose poison a group consumes. -/
def Grp.consumes (g : Grp) : List Nat :=
  (if g.shape.carryA then [] else g.shape.a.reads g.w.a.toNat) ++ (if g.shape.carryB then [] else g.shape.b.reads g.w.b.toNat)
    ++ (if g.shape.carryC then [] else g.shape.c.reads g.w.c.toNat) ++ g.shape.d.reads g.w.d.toNat

/-- The mark of the first of some registers that is poisoned in a lane. -/
def Slice.poisonIn (sl : Slice) (regs : List Nat) (lane : Nat) : Option Dword := regs.findSome? (fun x => sl.poisonOf x lane)

/-- The consumption of poisoned operands: the lanes, and the origin in the lowest of them (R414). -/
def Grp.poisonFate (g : Grp) (sl : Slice) (eff : Mask) : Option Fate :=
  match eff.lanes.find? (fun i => (sl.poisonIn g.consumes i).isSome) with
  | none => none
  | some i =>
    let lanes := eff &&& Mask.ofFn (fun j => (sl.poisonIn g.consumes j).isSome)
    some (.poison lanes ((sl.poisonIn g.consumes i).getD 0))

/-! ### The addresses of a group (R152 to R154, R313) -/

/-- The displacement: DISP, or the 34-bit value with an XI prefix (R154). -/
def dispOf (c : Ctx) : Dword :=
  let n := WForm.field c.g.w 63 57
  match c.g.pfx.xi with
  | some x => sext64 34 (x * 2 ^ 7 + n)
  | none => sext64 7 n

/-- The base of a memory operand: a window's address or a register pair (R152). -/
def baseOf (c : Ctx) (sl : Slice) : Dword :=
  if WForm.field c.g.w 50 50 = 1 then (match sl.w.getD (c.g.w.a.toNat % 8) none with | some w => w.vbase | none => 0)
  else joinWords (sl.reg c.g.w.a.toNat 0) (sl.reg (c.g.w.a.toNat + 1) 0)

/-- The effective address of a lane (R154). -/
def effAddr (c : Ctx) (sl : Slice) (i : Nat) : Dword :=
  let x := sl.operand c.g0 c.g.w.b.toNat i
  let ext : Dword := if WForm.field c.g.w 53 53 = 1 then sext64 32 x.toNat else x.zeroExtend 64
  baseOf c sl + ext <<< WForm.field c.g.w 52 51 + dispOf c

/-- The address of an atomic in a lane: a pair, and the displacement of an XI prefix (R313). -/
def atomAddr (c : Ctx) (sl : Slice) (i : Nat) : Dword :=
  joinWords (sl.reg c.g.w.a.toNat i) (sl.reg (c.g.w.a.toNat + 1) i) + (match c.g.pfx.xi with | some x => sext64 27 x | none => 0)

/-- The address that a lane of a group names, if its instruction has one: that of its memory operand, of its atomic or remote load, or the pair of its destination or source. -/
def Ctx.address (c : Ctx) (sl : Slice) (i : Nat) : Option Dword :=
  let pair (x : BitVec 8) : Dword := joinWords (sl.reg x.toNat 0) (sl.reg (x.toNat + 1) 0)
  if (decide (0x60 ≤ c.g.op) && decide (c.g.op ≤ 0x66)) || c.g.op == 0x69 || c.g.op == 0x6B then some (effAddr c sl i)
  else if c.g.shape.a = .addr then some (atomAddr c sl i)
  else if c.g.shape.d = .spair then some (pair c.g.w.d)
  else if c.g.shape.a = .spair then some (pair c.g.w.a)
  else none

/-! ### Shadow execution (R197 to R200) -/

/-- Whether a group takes values from the load-value queue: loads, full/empty loads, atomics that return a value, pops, engine reads, remote loads, LEASEQ, the counter of SIGW, the bits of TWAIT, and SRD of a register of core scope or wider, or of the lease (R198). -/
def Grp.takesQueued (g : Grp) : Bool :=
  let sp := g.pfx.space
  ([0x60, 0x62, 0x63, 0x65, 0x6B].contains g.op && sp != 4)
    || [0x54, 0x77, 0x78, 0x9E, 0xB8, 0xC0, 0xC2, 0xC3, 0xC4, 0xC5, 0xC9, 0xD6, 0xE1, 0xE2].contains g.op
    || (g.op == 0x4E && [0x04, 0x05, 0x06, 0x07, 0x14, 0x15, 0x16, 0x18, 0x19, 0x1A, 0x1B, 0x29, 0x2A].contains (WForm.field g.w 55 50))

/-- Entries in the load-value queue of a slice's pair (R198). -/
def Group.queued (g : Group) (i : Nat) : Nat := ((g.trailOf i).filter (fun x => x.queued)).length

/-- Whether the primary of a pair waits at a compared group, since its shadow has not reached it (R199). -/
def State.awaitsShadow (s : State) (c : Ctx) : Bool :=
  let g := s.group c.ref.gid
  g.shadow && c.g.shape.compared && !(g.trailOf c.ref.idx).isEmpty

/-- Whether the primary of a pair stalls at a group that appends to its load-value queue, which is full (R198). -/
def State.queueFull (s : State) (c : Ctx) : Bool :=
  let g := s.group c.ref.gid
  g.shadow && c.g.takesQueued && decide (64 ≤ g.queued c.ref.idx)

/-- What the comparison of a slice with its shadow at a group finds different, if anything: the effective mask, an address, a word of an operand, or the path signature (R199). -/
def State.differs (s : State) (c : Ctx) : Option (Nat × Dword) :=
  let sl := s.slice c.ref
  let sh := s.shadowOf c.ref
  let addr (i : Nat) : Dword := (c.address sl i).getD 0
  if effOf sh.slice c.g ≠ c.eff then some (5, 0)
  else
    match c.eff.lanes.find? (fun i => decide (c.address sl i ≠ c.address sh.slice i)) with
    | some i => some (2, addr i)
    | none =>
      match c.eff.lanes.find? (fun i => c.g.reads.any (fun x => decide (sl.reg x i ≠ sh.slice.reg x i))) with
      | some i => some (1, addr i)
      | none => if sh.signature ≠ sh.primary then some (3, 0) else none

/-- The mismatch found at a compared group of a slice of a shadow launch: what the comparison finds, or an upset of the hardware (R199, R200). -/
def State.mismatch (s : State) (c : Ctx) : Option Fate :=
  if (s.group c.ref.gid).shadow && c.g.shape.compared then
    match s.differs c with
    | some x => some (.upset x.1 x.2)
    | none =>
      match Config.shadowUpset (s.fresh * 128 + c.ref.idx) with
      | some (k, n) =>
        let addr : Dword := (c.address (s.slice c.ref) (n % 4)).getD 0
        match k % 4 with
        | 0 => some (.upset 1 addr)
        | 1 => some (.upset 2 addr)
        | 2 => some (.upset 3 0)
        | _ => some (.upset 5 0)
      | none => none
  else none

/-! ### The order of flag updates (R28, R38) -/

/-- Whether a group reads or replaces `XF`: SRD and SWR of it, and the armed-flag check of a barrier (R28, R31). -/
def Grp.ordersFlags (g : Grp) : Bool :=
  ((g.op == 0x4E || g.op == 0x4F) && WForm.field g.w 55 50 == 0x10) || g.op == 0x7D || g.op == 0x81

/-- Whether an earlier MACCR of a slice still owes it flags, so that a group that reads or replaces them waits (R28, R38, R254). -/
def State.flagsOwed (s : State) (c : Ctx) : Bool :=
  c.g.ordersFlags && (s.core (s.group c.ref.gid).coreRef).matrix.queue.any (fun q =>
    decide (q.gid = c.ref.gid ∧ q.idx = c.ref.idx) && !q.nf && (match q.op with | .accr _ _ _ _ _ _ _ _ => true | _ => false))

/-- Whether a group is a release at system scope, other than `FENCE`, that waits until the host ports have given back the lines written before it (R345, R453, R461). -/
def State.awaitsHosts (s : State) (c : Ctx) : Bool :=
  c.g.shape.scp && c.g.op != 0x6A && decide (2 ≤ c.g.pfx.order (if c.g.op = 0x64 then 2 else 0)) && decide (5 ≤ c.g.pfx.scope (if c.g.op = 0xE0 then 5 else 4))
    && !s.backInvalidates.isEmpty

/-- Whether a group waits for what earlier groups of its slice have still to do: flags on their way, lines that hosts give back, a shadow that has not reached it, or room in the load-value queue. -/
def State.mustFollow (s : State) (c : Ctx) : Bool := s.flagsOwed c || s.awaitsHosts c || s.awaitsShadow c || s.queueFull c

/-- Whether a slice waits at a group on an empty register, or at a compared group for its shadow: both are cancel points (R26, R146, R199). The other waits of a group for earlier ones are none: R146 does not name them (log 22). -/
def State.waitsAtCancel (s : State) (c : Ctx) : Bool := c.g.mustWait (s.slice c.ref) c.eff || s.awaitsShadow c

/-- The words of a group are legal for a slice with a lane in its mask, and its registers lie within the allocation (R56). -/
def State.passes (s : State) (c : Ctx) : Bool := c.eff != 0 && (c.g.illegal c.eff).isNone && (c.g.beyond (s.slice c.ref) c.eff).isNone

/-- Whether a slice has a remote load outstanding. Its failure is a trap at the `GETR`, and no later group has issued then, so the slice holds at its next group until the load has ended (R141, R456; log 44). -/
def State.awaitsRemote (s : State) (c : Ctx) : Bool := !(s.slice c.ref).getrs.isEmpty

/-! ### Room in the engine queues (R194, R222, R238, R265) -/

/-- Free places in an engine queue of a core. -/
def Core.room (k : Core) : Fifo → Nat
  | .none => 0
  | .copies => 96 - k.copies.length
  | .matrix => 64 - k.matrix.queue.length
  | .mint => 16 - k.mint.queue.length

/-! ### The verdict of one slice (R56) -/

/-- A value the spec does not state, for a slice at this step. -/
def State.unstated (s : State) (idx : Nat) : Dword := Config.openValue s.fresh idx

/-- Misuse inside a transaction (R324). -/
def misuseTx (s : State) (c : Ctx) (info : Word) : Fate := .misuse ⟨0x17, s.unstated c.ref.idx, c.eff, info⟩

/-- What a slice finds at a group, in the order of R56, with cancels before step 7 and poison after the operands are full. A slice that must wait for one register waits before it traps for an empty one with its trap bit set, and traps only if that one is still empty then (R23, R56: DEDUCED, log 22). -/
def verdict (own : Own) (s : State) (c : Ctx) : Verdict :=
  let sl := s.slice c.ref
  if s.awaitsRemote c then
    match (if s.passes c && (c.g.shape.cancelPoint || s.waitsAtCancel c) then s.pending c.ref c.eff else none) with
    | some t => .no (.trap t)
    | none => .hold
  else if c.eff = 0 then .idle
  else
    match c.g.illegal c.eff with
    | some t => .no (.trap t)
    | none =>
      match c.g.beyond sl c.eff with
      | some t => .no (.trap t)
      | none =>
        match (if c.g.shape.cancelPoint then s.pending c.ref c.eff else none) with
        | some t => .no (.trap t)
        | none =>
          if c.g.shape.txBad && sl.tx.isSome then .no (misuseTx s c 4)
          else
            match own s c with
            | some f => .no f
            | none =>
              match (if s.waitsAtCancel c then s.pending c.ref c.eff else none) with
              | some t => .no (.trap t)
              | none =>
                if c.g.mustWait sl c.eff || s.mustFollow c then .hold
                else
                  match c.g.emptyTrap sl c.eff with
                  | some t => .no (.trap t)
                  | none =>
                    match c.g.poisonFate sl c.eff with
                    | some f => .no f
                    | none => .run

/-- The verdict with the comparison of a shadow pair: only on agreement does the primary perform a compared group. A trap is compared where it is taken (R199). -/
def verdictShadow (own : Own) (s : State) (c : Ctx) : Verdict :=
  match verdict own s c with
  | .run => match s.mismatch c with
    | some f => .no f
    | none => .run
  | v => v

/-- A gang operation with an empty operand whose trap bit is set traps in every participating slice, one whose operands are poisoned too (R109). -/
def gangEmpty (s : State) (vs : List (Ctx × Verdict)) : List (Ctx × Verdict) :=
  if vs.any (fun x => match x.2 with | .no (.trap t) => t.cause == 5 | _ => false) then
    vs.map (fun (x : Ctx × Verdict) =>
      match x.2 with
      | .run | .no (.poison _ _) => (x.1, .no (.trap ((x.1.g.emptyTrap (s.slice x.1.ref) x.1.eff).getD ⟨0x05, 0, 0, 3⟩)))
      | v => (x.1, v))
  else vs

/-! ### After the group (R132 to R135) -/

/-- The fate of a slice carried out at a group; `A` is the group's address. -/
def State.settleFate (s : State) (g : Grp) (r : SliceRef) : Fate → State
  | .next => s.modSlice r (fun sl => { sl with pc := g.next })
  | .alone => s.modSlice r (fun sl => { sl with pc := g.next })
  | .goto pc => s.modSlice r (fun sl => { sl with pc := pc })
  | .trap t => s.takeTrap r g.addr t
  | .misuse t =>
    let u := s.modSlice r (fun sl => sl.abortMisuse g.addr t)
    if (u.slice r).wait.isSome then u else u.takeTrap r g.addr t
  | .park w => s.modSlice r (fun sl => { sl with wait := some w })
  | .stay w => s.modSlice r (fun sl => { sl with wait := some w })
  | .poison lanes origin => s.consumePoison r g.addr lanes origin
  | .upset kind a => s.takeMismatch r g.addr (effOf (s.slice r) g) kind a
  | .moved => s

/-- The cause of the trap that a fate delivers to a slice: none where an open transaction or region takes it instead (R150, R325). -/
def Fate.cause (sl : Slice) : Fate → Option Nat
  | .trap t => if sl.tx.isSome && t.cause != 0x17 && t.cause != 0x19 && t.cause != 0x1A && t.cause != 0x1B then none else some t.cause
  | .misuse t => some t.cause
  | .poison _ _ => if sl.tx.isSome || sl.restarts then none else some 0x18
  | .upset _ _ => if sl.restarts then none else some 0x19
  | _ => none

/-- Whether a fate leaves a slice in a subgang of its own: it parks, it parts, or it takes a trap that not every slice of the subgang takes (R133). -/
def Fate.leaves (together : Bool) (sl : Slice) : Fate → Bool
  | .park _ => true
  | .alone => true
  | f => !together && (f.cause sl).isSome

/-- Whether every slice of a subgang takes the same trap (R133). -/
def sameTrap (at_ : Nat → Slice) : List (Nat × Fate) → Bool
  | [] => false
  | x :: xs => (x.2.cause (at_ x.1)).isSome && xs.all (fun y => y.2.cause (at_ y.1) == x.2.cause (at_ x.1))

/-- Whether a wait keeps a subgang together (R133). -/
def Wait.together : Wait → Bool
  | .regang _ => true
  | .leaseReq => true
  | .commit _ => true
  | .release _ _ _ => true
  | _ => false

/-- The label of a slice after its gang has divided by next address: the lowest slice it stays with (R132). -/
def Group.newLabel (g : Group) (ids : List Nat) (i : Nat) : Nat :=
  let sl := g.slice i
  let mates := ids.filter (fun j => (g.slice j).sub == sl.sub)
  let frozen := mates.any (fun j => match (g.slice j).wait with | some w => w.together | none => false)
  ((mates.filter (fun j => frozen || (g.slice j).pc == sl.pc)).head?).getD i

/-- Gang `k` divided into subgangs by next address; a gang with two subgangs has parted (R132). -/
def Group.divide (g : Group) (k : Nat) : Group :=
  let ids := g.unended k
  let labels := ids.map (fun i => (i, g.newLabel ids i))
  let g' := { g with slices := g.slices.mapIdx (fun i (sl : Slice) =>
    match labels.find? (fun l => l.1 == i) with
    | some l => { sl with sub := l.2 }
    | none => sl) }
  match labels with
  | [] => g'
  | l :: rest => if rest.all (fun x => x.2 == l.2) then g' else g'.modGang k (fun (x : Gang) => { x with parted := true })

/-- A label no slice index has, for a slice that leaves its subgang. -/
def loneLabel (i : Nat) : Nat := 1000 + i

/-- The state with gang `k` of a group divided. -/
def State.divide (s : State) (gid k : Nat) : State := s.modGroup gid (fun g => g.divide k)

/-- The fates of a subgang carried out in ascending order, and the subgang divided. -/
def State.conclude (s : State) (who : Issuer) (g : Grp) (fates : List (Nat × Fate)) : State :=
  let at_ (i : Nat) : Slice := s.slice ⟨who.gid, i⟩
  let out := fates.filter (fun f => f.2.leaves (sameTrap at_ fates) (at_ f.1))
  let s := fates.foldl (fun s f => s.settleFate g ⟨who.gid, f.1⟩ f.2) s
  let s := out.foldl (fun s f => s.modSlice ⟨who.gid, f.1⟩ (fun sl => { sl with sub := loneLabel f.1 })) s
  s.divide who.gid who.gang

/-! ### Issue -/

/-- The slices of the issuer at a group. -/
def State.contexts (s : State) (who : Issuer) (g : Grp) : List Ctx :=
  let grp := s.group who.gid
  (grp.subgang who.gang who.sub).map (fun i =>
    { g := g, ref := ⟨who.gid, i⟩, eff := effOf (grp.slice i) g, g0 := 4 * (i - who.gang * grp.gangSize) })

/-- The address of the group the issuer stands at. -/
def State.issueAddr (s : State) (who : Issuer) : Dword :=
  let grp := s.group who.gid
  match grp.subgang who.gang who.sub with
  | i :: _ => (grp.slice i).pc
  | [] => 0

/-- The open region of a slice closed (R149). -/
def State.closeRegion (s : State) (r : SliceRef) : State := s.modSlice r (fun sl => { sl with regpc := 0 })

/-- A slice that acquires sees from now on what the other paths of its SPLITs have stored (R130, R332, R340). -/
def State.joinPaths (s : State) (r : SliceRef) : State := s.modSlice r (fun sl => { sl with pathStores := [] })

/-- The open regions of some slices closed before a group that closes them takes effect (R149), and their paths brought together by one that acquires (R332). -/
def State.closing (s : State) (g : Grp) (cs : List Ctx) : State :=
  let s := if g.shape.closes then cs.foldl (fun s c => s.closeRegion c.ref) s else s
  if g.shape.acquires then cs.foldl (fun s c => s.joinPaths c.ref) s else s

/-- Fates of slices whose verdict is no run. -/
def verdictFate (ran : List (Nat × Fate)) (idle : Fate) (x : Ctx × Verdict) : Nat × Fate :=
  (x.1.ref.idx,
    match x.2 with
    | .no f => f
    | .run => ((ran.find? (fun f => f.1 == x.1.ref.idx)).map Prod.snd).getD .next
    | .idle => idle
    | .hold => .moved)

/-- The issue of a group whose words are given, by the issuer's subgang: it holds whole, or every slice has its fate (R132). A gang operation acts for the slices that consume no poison, with the lanes of the others not present (R109, R414: DEDUCED, log 68). -/
def State.issueGrp (s : State) (who : Issuer) (g : Grp) (own : Own) (run : Run) : Outcome :=
  let cs := s.contexts who g
  if cs.any (fun c => (s.slice c.ref).wait.isSome) then .next s
  else
    let vs0 := cs.map (fun c => (c, verdictShadow own s c))
    let vs := if g.shape.gang then gangEmpty s vs0 else vs0
    let runs := (vs.filter (fun x => x.2 = .run)).map Prod.fst
    let full := g.shape.fifo != .none && decide ((s.core (s.group who.gid).coreRef).room g.shape.fifo < runs.length)
    if vs.any (fun x => x.2 = .hold) || full then
      .next (s.conclude who g ((vs.filter (fun x => match x.2 with | .no (.trap t) => t.cause == 0x1A || t.cause == 0x1B | _ => false)).map
        (verdictFate [] .moved)))
    else
      let s := s.closing g runs
      let ran : Ran := if runs.isEmpty then ⟨s, [], .next⟩ else run runs s
      .next (ran.s.conclude who g (vs.map (verdictFate ran.fates ran.idle)))

/-- The issue of an instruction: its opcode, form, prefixes and fields, its own checks, and what its slices do. -/
def issue (op : Nat) (wide : Bool) (p : List Prefix) (w : WForm) (own : Own) (run : Run) (s : State) : Outcome :=
  match s.issuer with
  | none => .fault .noIssuer
  | some who => s.issueGrp who (Grp.of op wide p w (s.issueAddr who)) own run

/-- No check of its own. -/
def ownNone : Own := fun _ _ => none

/-- Each slice does its part in ascending order (R371, R213). -/
def eachSlice (act : Ctx → State → State × Fate) : Run
  | [], s => ⟨s, [], .next⟩
  | c :: cs, s =>
    let x := act c s
    let rest := eachSlice act cs x.1
    ⟨rest.s, (c.ref.idx, x.2) :: rest.fates, .next⟩

/-- The issue of an instruction whose slices each do their own part, with no check of its own. -/
def issueEach (op : Nat) (wide : Bool) (p : List Prefix) (w : WForm) (act : Ctx → State → State × Fate) (s : State) : Outcome :=
  issue op wide p w ownNone (eachSlice act) s

/-! ### Illegal groups (R52, R56, R57) -/

/-- The first prefix word of a reserved kind. -/
def reservedPrefixAt (ws : List Word) : Option Nat := (List.range ws.length).find? (fun i => match ws[i]? with | some x => (prefixOf x).isNone | none => false)

/-- The trap of an illegal group: steps 1, 2 and 3 of R56. -/
def RawGroup_trap (g : RawGroup) (a : Dword) (eff : Mask) : Trap :=
  let at_ (cause i : Nat) : Trap := ⟨cause, a + dword (4 * i), eff, match g.prefixes[i]? with | some x => x | none => g.word.extractLsb' 0 32⟩
  match reservedPrefixAt g.prefixes with
  | some i => at_ 0x01 i
  | none =>
    if g.word.extractLsb' 0 2 = 3 then at_ 0x01 g.prefixes.length
    else
      match conflictAt ((prefixesOf g.prefixes).getD []) with
      | some i => at_ 0x04 i
      | none => at_ 0x01 g.prefixes.length

/-- The effective mask of an illegal group: a C-form word acts under the active mask, every other word carries a predicate (R52). -/
def rawEff (sl : Slice) (g : RawGroup) : Mask :=
  if g.word.extractLsb' 0 2 = 0 then sl.active
  else if g.word.getLsbD 13 then sl.active &&& ~~~(sl.mask (g.word.extractLsb' 10 3).toNat) else sl.active &&& sl.mask (g.word.extractLsb' 10 3).toNat

end Sys2Proof.Machine
end

