-- ==== Sys2Proof/Machine/Fetch.lean ====
section
/-! DEFINITION. Fetching an instruction group at the program counter of a subgang, and the faults of a fetch (R39, R41, R171, R384). -/

namespace Sys2Proof.Machine

/-- What a fetch finds. -/
inductive Fetched where
  | words (ws : List Word)
  | stopped (a : Dword) (r : Reach)
  deriving DecidableEq, Repr

/-- One word of code read for a slice; a non-canonical address cannot be fetched (R41, R125). A word of code that has been changed is always read with its new value, where R42 lets a running unit read the old one too (DESIGN CHOICE, log 81). -/
def State.fetchWord (s : State) (r : SliceRef) (a : Dword) : State × (Word ⊕ Reach) :=
  if !canonical a then (s, .inr .unresolvable)
  else
    match s.readGlb r a 4 needExec 3 with
    | (s, .inl (bs, _)) => (s, .inl (word (fromBytes bs)))
    | (s, .inr (_, e)) => (s, .inr e)

/-- The words of the group at an address, `fuel` bounding the prefix run (R39, R41). -/
def State.fetchWords (s : State) (r : SliceRef) (a : Dword) : Nat → State × Fetched
  | 0 => (s, .stopped a .unresolvable)
  | fuel + 1 =>
    match s.fetchWord r a with
    | (s, .inr e) => (s, .stopped a e)
    | (s, .inl x) =>
      match (x.extractLsb' 0 2).toNat with
      | 1 =>
        match s.fetchWord r (a + 4) with
        | (s, .inl y) => (s, .words [x, y])
        | (s, .inr e) => (s, .stopped (a + 4) e)
      | 2 =>
        match s.fetchWords r (a + 4) fuel with
        | (s, .words ws) => (s, .words (x :: ws))
        | (s, .stopped b e) => (s, .stopped b e)
      | _ => (s, .words [x])

/-- As many words as an address space holds. -/
def fetchFuel : Nat := 2 ^ 62

/-- A fetch that cannot be served: every slice of the subgang takes the trap, or parks at the group's address (R41, R171, R384, R467). -/
def State.fetchStopped (s : State) (who : Issuer) (at_ : Dword) (e : Reach) : State :=
  let grp := s.group who.gid
  let ids := grp.subgang who.gang who.sub
  let g : Grp := Grp.of 0 false [] ⟨0, false, false, false, false, 0, 0, 0, 0, false, 0⟩ (s.issueAddr who)
  let fate (i : Nat) : Fate :=
    let act := (grp.slice i).active
    match e with
    | .denied code => .trap ⟨0x09, at_, act, word code⟩
    | .fault seq => .park (.fetch (.fault seq) ⟨0x08, at_, act, word (3 + 16 * act.toNat)⟩)
    | .migrate p n => .park (.fetch (.migration p n) ⟨0x08, at_, act, word (3 + 16 * act.toNat)⟩)
    | _ => .trap ⟨0x08, at_, act, word (3 + 16 * act.toNat)⟩
  s.conclude who g (ids.map (fun i => (i, fate i)))

/-- The instruction at the program counter of the issuing subgang, or the state after a fetch that cannot be served. -/
def State.fetchInstr (s : State) (who : Issuer) : State × Option Instr :=
  let grp := s.group who.gid
  match grp.subgang who.gang who.sub with
  | [] => (s, none)
  | i :: _ =>
    match s.fetchWords ⟨who.gid, i⟩ (grp.slice i).pc fetchFuel with
    | (s, .words ws) =>
      match decodeWords ws with
      | .ok (ins, _) => (s, some ins)
      | .error _ => (s, none)
    | (s, .stopped a e) => (s.fetchStopped who a e, none)

end Sys2Proof.Machine
end

