-- ==== Sys2Proof/Machine/Lease.lean ====
section
/-! DEFINITION. Leases, active and dormant gangs, and the choice of the subgang that issues (R180 to R196). -/

namespace Sys2Proof.Machine

/-- The groups resident on a core. -/
def State.resident (s : State) (c : CoreRef) : List Group := s.groups.filter (fun g => decide (g.coreRef = c) && !g.swapped)

/-- A gang of a core with its place. -/
structure GangAt where
  gid : Nat
  k : Nat
  gang : Gang
  deriving DecidableEq, Repr

/-- Put in order of age. -/
def insertGang (x : GangAt) : List GangAt → List GangAt
  | [] => [x]
  | y :: rest => if x.gang.age ≤ y.gang.age then x :: y :: rest else y :: insertGang x rest

/-- The unended gangs resident on a core, oldest first (R180). -/
def State.gangsOf (s : State) (c : CoreRef) : List GangAt :=
  (((s.resident c).flatMap (fun g => g.gangs.mapIdx (fun k (x : Gang) => (⟨g.gid, k, x⟩ : GangAt)))).filter
    (fun x => !((s.group x.gid).unended x.k).isEmpty)).foldr insertGang []

/-! ### Lease values (R184, R185) -/

/-- L1 lines owned by a gang slot (R182). -/
def Core.owned (k : Core) (slot : Nat) : Nat := (k.l1.filter (fun l => l.owner == some slot)).length

/-- The measured lease. -/
def measuredLease (k : Core) (x : Gang) : Nat := min 2048 (k.owned x.slot + x.lost)

/-- The effective lease. -/
def effectiveLease (k : Core) (x : Gang) : Nat := max 8 (max x.declared (measuredLease k x))

/-- The lease limit of a core. -/
def Core.leaseLimit (k : Core) : Nat := 2048 * k.lfact / 1000

/-- The sum of effective leases of active gangs. -/
def activeSum (k : Core) (gs : List GangAt) : Nat := ((gs.filter (fun x => x.gang.active)).map (fun x => effectiveLease k x.gang)).foldl (· + ·) 0

/-! ### Activation (R186 to R190) -/

/-- Whether some lane of a parked access has been woken, or is to be tried again. -/
def Access.released (a : Access) : Bool := (List.range 4).any (fun i => decide (a.lanes.get i = .woken) || decide (a.lanes.get i = .todo))

/-- A slice waits in a park or at `REGANG`, and has been neither woken nor released (R188). -/
def Slice.idles (sl : Slice) : Bool :=
  match sl.wait with
  | some (.access a) => !a.released
  | some .leaseReq => false
  | some (.commit _) => false
  | some (.abortDrain _) => false
  | some .restartDrain => false
  | some (.release _ _ _) => false
  | some _ => true
  | none => false

/-- Every unexited slice of a gang waits (R188). -/
def Group.allWait (g : Group) (k : Nat) : Bool := (g.unended k).all (fun i => (g.slice i).idles)

/-- A gang is idle when its slices have waited for 512 cycles (R188). -/
def gangIdle (clock : Nat) (x : Gang) : Bool := match x.waitSince with | some t => decide (t + 512 ≤ clock) | none => false

/-- The wide fields of an instruction with its opcode and form. -/
def issueFields (i : Instr) : Option (Nat × Bool × List Prefix × WForm) :=
  match i.fields with
  | .wide op p w => some (op.toNat, true, p, w)
  | .compact op p w => some (op.toNat, false, p, expand w)
  | .raw _ => none
  | .event => none

/-- The slices of a subgang that do not wait elsewhere, at its next group. -/
def State.nextContexts (s : State) (who : Issuer) : List Ctx :=
  match (s.fetchInstr who).2.bind issueFields with
  | none => []
  | some (op, wide, p, w) => (s.contexts who (Grp.of op wide p w (s.issueAddr who))).filter (fun c => (s.slice c.ref).wait.isNone)

/-- Whether a slice holds at a group: for a remote load, for a register, or for what earlier groups of its own have still to do (R23, R24, R28, R141, R199). -/
def State.holds_ (s : State) (c : Ctx) : Bool :=
  s.awaitsRemote c || (s.passes c && (c.g.mustWait (s.slice c.ref) c.eff || s.mustFollow c))

/-- Whether a slice that holds at a group takes a pending cancel or budget trap there: at an instruction that is a cancel point, at an empty register, or at the wait of a compared group (R26, R146, R199). -/
def State.cancelsAt (s : State) (c : Ctx) : Bool := s.passes c && (s.waitsAtCancel c || (s.awaitsRemote c && c.g.shape.cancelPoint))

/-- The subgang of a slice. -/
def State.subgangOf (s : State) (r : SliceRef) : Issuer := ⟨r.gid, r.idx / (s.group r.gid).gangSize, (s.slice r).sub⟩

/-- The cancel or budget trap that a slice of a dormant gang takes where it holds at a cancel point, such as a wait on an empty register (R190). -/
def State.cancelAtRegister (s : State) (r : SliceRef) : Option Trap :=
  let who := s.subgangOf r
  if ((s.group r.gid).gang who.gang).active || (s.slice r).wait.isSome || (s.slice r).ended || (s.pending r 0).isNone then none
  else ((s.nextContexts who).find? (fun c => c.ref == r && s.cancelsAt c)).bind (fun c => s.pending r c.eff)

/-- A dormant gang with a pending cancel or budget trap of which some slice does not wait (R190). -/
def State.mustWake (s : State) (x : GangAt) : Bool :=
  (s.pending ⟨x.gid, x.k * (s.group x.gid).gangSize⟩ 0).isSome &&
    ((s.group x.gid).unended x.k).any (fun i => (s.slice ⟨x.gid, i⟩).wait.isNone && (s.cancelAtRegister ⟨x.gid, i⟩).isNone)

/-- The gangs that the procedure of R187 activates: from the sum so far, whether some gang is active, and the gangs oldest first. A dormant gang with a pending cancel is activated as R190 says even while it is held: `as if it were the oldest' does not settle whether its hold is passed over (DESIGN CHOICE, log 95). -/
def activates (s : State) (k : Core) (oldest : Option GangAt) : Nat → Bool → List GangAt → List GangAt
  | _, _, [] => []
  | sum, any, x :: rest =>
    if x.gang.active then activates s k oldest sum any rest
    else
      let e := effectiveLease k x.gang
      if s.mustWake x then x :: activates s k oldest (sum + e) true rest
      else if gangIdle k.clock x.gang || x.gang.heldWindows != 0 then activates s k oldest sum any rest
      else if !any || oldest == some x then x :: activates s k oldest (sum + e) true rest
      else if sum + e ≤ k.leaseLimit then x :: activates s k oldest (sum + e) true rest
      else (rest.filter (fun y => !y.gang.active && s.mustWake y))

/-- The gangs activated on a core now. -/
def State.toActivate (s : State) (c : CoreRef) : List GangAt :=
  let k := s.core c
  let gs := s.gangsOf c
  activates s k gs.head? (activeSum k gs) (gs.any (fun x => x.gang.active)) gs

/-- R187: dormant gangs that fit become active. -/
def execLeaseActivation (at_ : CoreRef) (s : State) : Outcome :=
  .next ((s.toActivate at_).foldl (fun s x => s.modGang x.gid x.k (fun (y : Gang) => { y with active := true })) s)

/-- R188: an active gang whose slices have waited for 512 cycles becomes dormant. -/
def execGangIdle (gid gang : Nat) (s : State) : Outcome :=
  let g := s.group gid
  if (g.gang gang).active && gangIdle (s.core g.coreRef).clock (g.gang gang) then
    .next (s.modGang gid gang (fun (x : Gang) => { x with active := false }))
  else .next s

/-- A group of a core whose window ends: LOST of its unended gangs halves, and their holds count down (R183, R189). -/
def Group.endWindow (g : Group) : Group :=
  { g with gangs := g.gangs.mapIdx (fun k (y : Gang) => if (g.unended k).isEmpty then y else { y with lost := y.lost / 2, heldWindows := y.heldWindows - 1 }) }

/-- R183, R189: at the end of a window LOST halves, holds of the window before clear, and too many lost-locality events demote the youngest active gang but the oldest. -/
def execLeaseWindowEnd (at_ : CoreRef) (s : State) : Outcome :=
  let k := s.core at_
  if k.clock / 4096 ≤ k.window then .next s
  else
    let gs := s.gangsOf at_
    let victim := if k.lthresh ≠ 0 ∧ k.lthresh < k.windowLost then ((gs.drop 1).filter (fun x => x.gang.active)).getLast? else none
    let s := { s with groups := s.groups.map (fun (g : Group) => if g.coreRef = at_ ∧ !g.swapped then g.endWindow else g) }
    let s := match victim with
      | some x => s.modGang x.gid x.k (fun (y : Gang) => { y with active := false, heldWindows := 1 })
      | none => s
    .next (s.modCore at_ (fun k => { k with windowLost := 0, window := k.window + 1 }))

/-! ### Issue selection (R194, R195) -/

/-- Whether the next group of a subgang could not issue now: it waits for a register or for room in an engine queue (R194). -/
def State.wouldHold (s : State) (who : Issuer) : Bool :=
  (s.nextContexts who).any (fun c => s.holds_ c && !(s.cancelsAt c && (s.pending c.ref c.eff).isSome)) ||
  match (s.fetchInstr who).2.bind issueFields with
  | none => false
  | some (op, wide, p, w) =>
    let cs := (s.contexts who (Grp.of op wide p w (s.issueAddr who))).filter (fun c => c.eff != 0)
    let open_ (c : Ctx) : Bool := (c.g.illegal c.eff).isNone && (c.g.beyond (s.slice c.ref) c.eff).isNone
    cs.any (fun c => open_ c && c.g.shape.fifo != .none && decide ((s.core (s.group who.gid).coreRef).room c.g.shape.fifo < cs.length))

/-- The label that stands for the shadow of a subgang where a pipe chooses (R197). -/
def shadowLabel (sub : Nat) : Nat := 2000 + sub

/-- Whether an issuer stands for shadows; the labels of primaries are smaller. -/
def Issuer.shadows (w : Issuer) : Bool := decide (2000 ≤ w.sub)

/-- Whether a shadow may take an entry: its primary has gone through the group, and every value has been delivered, in each register and lane of its mask (R198). -/
def QueueEntry.complete (e : QueueEntry) (regs : List Nat) : Bool :=
  e.now.isSome && regs.all (fun x => e.mask.lanes.all (fun i => e.values.any (fun o => o.dst == x && o.lane == i)))

/-- The part of a trailing group that its shadows may go through: those that have no earlier group of `before` left and whose entries are complete; a group that they execute themselves they execute together (R197, R198). -/
def Trailing.ripe (x : Trailing) (before : List Trailing) : Option Trailing :=
  let es := x.entries.filter (fun e => e.2.complete x.regs && !before.any (fun y => y.members.contains e.1))
  if es.isEmpty || (x.own && decide (es.length < x.entries.length)) then none else some { x with entries := es }

/-- The oldest group that shadows of a subgang may go through, with its place in the trail. -/
def Group.nextTrailing (g : Group) (k sub : Nat) : Option (Nat × Trailing) :=
  (g.trail.zipIdx).findSome? (fun x => if x.1.gang == k && x.1.sub == sub then (x.1.ripe (g.trail.take x.2)).map (fun y => (x.2, y)) else none)

/-- Whether a group halts, since its partition is being pre-empted (R374). -/
def State.halting (s : State) (gid : Nat) : Bool := match s.part? (s.group gid).part with | some p => p.leaving | none => false

/-- A subgang is ready: its gang is active, its partition is not being pre-empted, no slice of it waits, and its next group can issue (R194, R374); its shadows are while there is a group that they may go through and the gang is active, or its partition is being pre-empted (R197, R201). -/
def State.ready (s : State) (who : Issuer) : Bool :=
  let g := s.group who.gid
  if who.shadows then ((g.gang who.gang).active || s.halting who.gid) && (g.nextTrailing who.gang (who.sub - 2000)).isSome
  else (g.gang who.gang).active && !s.halting who.gid && (g.subgang who.gang who.sub).all (fun i => (g.slice i).wait.isNone) && !(g.subgang who.gang who.sub).isEmpty && !s.wouldHold who

/-- The subgangs of the gangs homed on a pipe, by age and then lowest slice (R195); the shadows of a gang homed on pipe p issue on pipe (p + 2) mod 4 (R197). -/
def State.subgangsOn (s : State) (c : CoreRef) (pipe : Nat) : List Issuer :=
  (s.gangsOf c).flatMap (fun x =>
    let g := s.group x.gid
    if x.gang.pipe == pipe then (((g.unended x.k).map (fun i => (g.slice i).sub)).eraseDups).map (fun l => (⟨x.gid, x.k, l⟩ : Issuer))
    else if (x.gang.pipe + 2) % 4 == pipe then
      (((g.trail.filter (fun y => y.gang == x.k)).map (fun y => y.sub)).eraseDups).map (fun l => (⟨x.gid, x.k, shadowLabel l⟩ : Issuer))
    else [])

def Issuer.key (w : Issuer) : Nat × Nat × Nat := (w.gid, w.gang, w.sub)

/-- A pipe whose run has ended: its subgang is spent (R194). -/
def Pipe.endRun (p : Pipe) : Pipe :=
  match p.run with
  | some r => { run := none, issued := 0, spent := r :: p.spent }
  | none => p

/-- The pipe's choice among ready subgangs in order, and the pipe after it (R195). -/
def Pipe.select (p : Pipe) (ready : List Issuer) : Option Issuer × Pipe :=
  match ready.find? (fun w => p.run == some w.key && decide (p.issued < 16)) with
  | some w => (some w, { p with issued := p.issued + 1 })
  | none =>
    let p := p.endRun
    match ready.find? (fun w => !p.spent.contains w.key) with
    | some w => (some w, { p with run := some w.key, issued := 1 })
    | none =>
      match ready with
      | w :: _ => (some w, { run := some w.key, issued := 1, spent := [] })
      | [] => (none, p)

/-- R195: an issue pipe chooses the subgang that issues next. -/
def execIssueSelection (at_ : CoreRef) (pipe : Nat) (s : State) : Outcome :=
  let r := ((s.core at_).pipes.getD pipe Pipe.idle).select ((s.subgangsOn at_ pipe).filter s.ready)
  let s := s.modCore at_ (fun k => { k with pipes := k.pipes.set pipe r.2 })
  .next (match r.1 with | some w => { s with issuer := some w } | none => s)

/-- Every run whose subgang is not ready ends (R194). -/
def State.endRuns (s : State) : State :=
  ((((s.groups.filter (fun g => !g.swapped)).map Group.coreRef).eraseDups).flatMap (fun c => (List.range 4).map (fun p => (c, p)))).foldl (fun s x =>
    match ((s.core x.1).pipes.getD x.2 Pipe.idle).run with
    | some w => if s.ready ⟨w.1, w.2.1, w.2.2⟩ then s else s.modCore x.1 (fun k => { k with pipes := k.pipes.modify x.2 Pipe.endRun })
    | none => s) s

/-- The run of the issuer's pipe ends (R140). -/
def State.endIssuerRun (s : State) (who : Issuer) : State :=
  let g := s.group who.gid
  s.modCore g.coreRef (fun k => { k with pipes := k.pipes.modify (g.gang who.gang).pipe (fun (p : Pipe) => p.endRun) })

end Sys2Proof.Machine
end

