-- ==== Sys2Proof/Machine/Place.lean ====
section
/-! DEFINITION. Physical places of the five spaces, and where an access stands after its checks and translation (R154 to R160, R163, R164, R206, R207, R324, R325, R390, R395). -/

namespace Sys2Proof.Machine

/-! ### Places -/

/-- A byte's place behind translation: a physical address, one of the device-register window (R378), or an offset in a scratchpad, cluster memory, chip scratchpad or lane store. -/
inductive Place where
  | glb (pa : Nat)
  | reg (pa : Nat)
  | scr (gid off : Nat)
  | cls (die cluster off : Nat)
  | chp (die off : Nat)
  | lane (r : SliceRef) (lane off : Nat)
  deriving DecidableEq, Repr

/-- The space of a place. -/
def Place.space : Place → Space
  | .glb _ | .reg _ => .glb
  | .scr _ _ => .scr
  | .cls _ _ _ => .cls
  | .chp _ _ => .chp
  | .lane _ _ _ => .lane

/-- A number for the home that keeps a place's park list, unique within its space (R164). -/
def Place.home : Place → Nat
  | .glb _ | .reg _ => 0
  | .scr gid _ => gid
  | .cls die cl _ => die * 12 + cl
  | .chp die _ => die
  | .lane r l _ => r.gid * 512 + r.idx * 4 + l

/-- The offset of a place in its memory. -/
def Place.off : Place → Nat
  | .glb pa | .reg pa => pa
  | .scr _ o => o
  | .cls _ _ o => o
  | .chp _ o => o
  | .lane _ _ o => o

/-- The place `n` bytes on. -/
def Place.plus (n : Nat) : Place → Place
  | .glb pa => .glb (pa + n)
  | .reg pa => .reg (pa + n)
  | .scr g o => .scr g (o + n)
  | .cls d c o => .cls d c (o + n)
  | .chp d o => .chp d (o + n)
  | .lane r l o => .lane r l (o + n)

/-- The memory that holds a place. -/
def State.memAt (s : State) : Place → Memory
  | .glb _ => s.mem
  | .reg _ => Memory.blank
  | .scr gid _ => (s.group gid).scr
  | .cls die cl _ => (s.die die).cls.getD cl Memory.blank
  | .chp die _ => (s.die die).chp
  | .lane r l _ => (s.slice r).store.get l

/-- The state with the memory that holds a place changed. -/
def State.modMem (s : State) (p : Place) (f : Memory → Memory) : State :=
  match p with
  | .glb _ => { s with mem := f s.mem }
  | .reg _ => s
  | .scr gid _ => s.modGroup gid (fun g => { g with scr := f g.scr })
  | .cls die cl _ => s.modDie die (fun d => { d with cls := d.cls.modify cl f })
  | .chp die _ => s.modDie die (fun d => { d with chp := f d.chp })
  | .lane r l _ => s.modSlice r (fun sl => { sl with store := sl.store.set l (f (sl.store.get l)) })

/-- `n` bytes at a place. -/
def State.readPlace (s : State) (p : Place) (n : Nat) : List Byte :=
  match p with
  | .reg pa => s.windowBytes pa n
  | p => (s.memAt p).bytesAt p.off n

/-- The place of a physical address (R378). -/
def State.glbPlace (s : State) (pa : Nat) : Place := if s.physKind pa = .registers then .reg pa else .glb pa


/-- The offset of the first poisoned unit that `n` bytes at a place touch (R412). -/
def State.poisonPlace (s : State) (p : Place) (n : Nat) : Option Nat := (s.memAt p).poisonAt (poisonUnit p.space) p.off n

/-- A slice has met what its other path stored at a place (R130, R338). -/
def State.meetsPlace (s : State) (r : SliceRef) (p : Place) (n : Nat) : State := s.meetsPaths r p.space p.home p.off n

/-- Bytes written at a place by an agent, with their poison. -/
def State.writePlace (s : State) (by_ : Option SliceRef) (p : Place) (data : List Byte) (poisoned : Bool) : State :=
  match p with
  | .glb pa => s.writePhys by_ pa data poisoned
  | .reg pa => s.windowWrite pa data
  | _ => (match by_ with | some r => s.meetsPlace r p data.length | none => s).modMem p (fun m => m.store 8 p.off data poisoned)

/-- Which of `n` bytes at a place lie in a poisoned unit (R412). -/
def State.poisonFlags (s : State) (p : Place) (n : Nat) : List Bool :=
  (List.range n).map (fun k => risingMem (s.memAt p).poison ((p.off + k) / poisonUnit p.space))

/-- Bytes divided where their poison marks change. -/
def markRuns : List (Byte × Bool) → List (List Byte × Bool)
  | [] => []
  | (b, m) :: rest =>
    match markRuns rest with
    | (bs, n) :: more => if m = n then (b :: bs, m) :: more else ([b], m) :: (bs, n) :: more
    | [] => [([b], m)]

/-- Bytes written at a place by an agent, each with its own poison mark (R413, R414). -/
def State.writeMarked (s : State) (by_ : Option SliceRef) (p : Place) (xs : List (Byte × Bool)) : State :=
  ((markRuns xs).foldl (fun (x : State × Nat) r => (x.1.writePlace by_ (p.plus x.2) r.1 r.2, x.2 + r.1.length)) (s, 0)).1

/-- The full/empty bit of the word at a place. -/
def State.fullPlace (s : State) (p : Place) : Bool := (s.memAt p).full p.off

/-- The full/empty bit of the word at a place set by an event of R168, with its wakes. -/
def State.setFullPlace (s : State) (by_ : Option SliceRef) (p : Place) (full : Bool) : State :=
  match p with
  | .glb pa => s.setPhysFull by_ pa full
  | _ =>
    if s.fullPlace p = full then s
    else (s.modMem p (fun m => m.setFull p.off full)).wake p.space p.home (p.off / 8) full

/-! ### Spaces (R50, R155) -/

/-- The space a code of R50 names. -/
def spaceOf : Nat → Space
  | 1 => .scr
  | 2 => .cls
  | 3 => .chp
  | 4 => .lane
  | _ => .glb

/-- The code of a space. -/
def Space.code : Space → Nat
  | .glb => 0
  | .scr => 1
  | .cls => 2
  | .chp => 3
  | .lane => 4

/-- The bytes of a space other than `glb` as a group sees it (R155). -/
def Group.spaceSize (g : Group) : Space → Nat
  | .glb => 0
  | .scr => 4096 * g.pages
  | .cls => 0x100000
  | .chp => 0x2000000
  | .lane => 0x100

/-- The place of an offset of a space other than `glb` for a slice and lane. -/
def Group.placeIn (g : Group) (r : SliceRef) (lane : Nat) (sp : Space) (o : Nat) : Place :=
  match sp with
  | .glb => .glb o
  | .scr => .scr g.gid o
  | .cls => .cls g.die (g.core / 8) o
  | .chp => .chp g.die o
  | .lane => .lane r lane o

/-- `n` bytes at an offset lie inside a space (R155). -/
def Group.inSpace (g : Group) (sp : Space) (ea : Dword) (n : Nat) : Bool := decide (ea.toNat + n ≤ g.spaceSize sp)

/-! ### Pieces of copies: the fragments of destination lines (R206, R224) -/

/-- The first byte of a destination row. -/
def Copy.rowAt (c : Copy) (r : Nat) : Nat := c.dst.toNat + r * c.dstStride

/-- Pieces of one row are numbered from its first line; rows are this far apart in the numbering. -/
def rowPieces : Nat := 2 ^ 32

/-- Pieces of one receiver of a multicast are this far apart in the numbering. -/
def receiverPieces : Nat := 2 ^ 64

/-- Piece `p` of a copy to one destination: its row, its first byte in the row, and its length. -/
def Copy.piece (c : Copy) (p : Nat) : Option (Nat × Nat × Nat) :=
  let r := p / rowPieces
  let line := c.rowAt r / 128 + p % rowPieces
  let lo := max (c.rowAt r) (line * 128)
  let hi := min (c.rowAt r + c.rowLen) ((line + 1) * 128)
  if r < c.rows ∧ lo < hi then some (r, lo - c.rowAt r, hi - lo) else none

/-- Bytes that a copy delivers to each destination (R224). -/
def Copy.total (c : Copy) : Nat := c.rows * c.rowLen

/-- Bytes landed at destination `j` of a copy, 0 for one that is no multicast. -/
def Copy.landedAt (c : Copy) (j : Nat) : Nat :=
  ((c.landed.filter (fun p => p / receiverPieces == j)).map (fun p => match c.piece (p % receiverPieces) with | some x => x.2.2 | none => 0)).foldl
    (· + ·) 0

/-- Whether a copy has bytes for a line of destination `j` still to land. -/
def Copy.owes (c : Copy) (j line : Nat) : Bool :=
  (List.range c.rows).any (fun r =>
    let p := r * rowPieces + (line - c.rowAt r / 128)
    decide (c.rowAt r / 128 ≤ line) && (c.piece p).isSome && !c.landed.contains (j * receiverPieces + p))

/-- Whether a copy still owes bytes to a line of a group's scratchpad: its own group's, or a receiver's. -/
def Copy.owesScr (c : Copy) (gid line : Nat) : Bool :=
  match c.kind with
  | .mcast => c.receivers.any (fun x => x.2 == gid && gid != c.gid && !c.dones.getLsbD x.1 && !c.drops.getLsbD x.1 && c.owes x.1 line)
  | .puts _ _ _ _ => false
  | _ => c.dsp == .scr && c.gid == gid && c.owes 0 line

/-- The copies in flight on a die. -/
def State.dieCopies (s : State) (die : Nat) : List Copy := (s.die die).cores.cells.flatMap (fun k => k.copies)

/-! ### Presence in the scratchpad (R205 to R209) -/

/-- The bound on the copies that the unpin of a page still waits for: under way, or put off by a pre-emption (R209). -/
def Group.unpinBound (g : Group) (page : Nat) : Option Nat :=
  match g.pageState.getD page .pinned with
  | .unpinning _ before => some before
  | _ => (g.unpins.find? (fun x => x.1 == page)).map (fun x => x.2.2)

/-- Whether a line of a group's scratchpad is absent: out of the array, in a page whose SPUNP has still to be done, or with bytes of a copy still to land (R206, R209). -/
def State.lineAbsent (s : State) (g : Group) (line : Nat) : Bool :=
  g.absent.contains line || (g.unpinBound (line / 32)).isSome || (s.dieCopies g.die).any (fun c => c.owesScr g.gid line)

/-- The refill of the page of a line starts at the line, when the page is unpinned (R207). -/
def State.startRefill (s : State) (gid line : Nat) : State :=
  s.modGroup gid (fun g => { g with pageState := g.pageState.modify (line / 32) (fun (p : PageState) => if p = .unpinned then .refilling line else p) })

/-- The memory that holds a scratchpad byte now: the array, or the backing page of an absent line (R205, R207). -/
def Group.held (g : Group) (off : Nat) : Memory := if g.absent.contains (off / 128) then g.backing else g.scr

/-- A scratchpad line changed by the controller or an engine where it is held; the refill of an absent line of an unpinned page starts, and brings the change (R207). -/
def State.modHeld (s : State) (gid off : Nat) (f : Memory → Memory) : State :=
  if (s.group gid).absent.contains (off / 128) then (s.modGroup gid (fun g => { g with backing := f g.backing })).startRefill gid (off / 128)
  else s.modGroup gid (fun g => { g with scr := f g.scr })

/-- A scratchpad word set full where it is held, with its wakes (R168, R207). -/
def State.fillHeld (s : State) (gid off : Nat) : State :=
  if ((s.group gid).held off).full off then s.modHeld gid off id else (s.modHeld gid off (fun m => m.setFull off true)).wake .scr gid (off / 8) true

/-! ### Where a lane's access stands -/

/-- What translation and presence find for one lane. -/
inductive Spot where
  | at_ (p : Place)
  | absent (line : Nat)
  | fault (seq : Nat)
  | migrate (vpage turn : Nat)
  | remote (pa : Nat)
  | denied (code : Nat)
  | unresolvable
  deriving DecidableEq, Repr

/-- The offset of an address in a window that may translate it: in range and not stale (R163). -/
def Window.offset? (w : Window) (ea : Dword) (n : Nat) : Option Nat :=
  let off := (ea - w.vbase).toNat
  if !w.stale && decide (off < 2 ^ 63) && decide (off + n ≤ w.limit) then some off else none

/-- The UNITID of a group's unit, 0 where none runs. -/
def State.unitIdOf (s : State) (g : Group) : Nat := match s.unit? g.uid with | some u => u.unitId | none => 0

/-- A lane's access of `n` bytes in a space: its place, or what stops it. A window serves `glb` where it can; full/empty forms and atomics on host pages go to the walker's view (R163, R167). -/
def State.spot (s : State) (r : SliceRef) (lane : Nat) (sp : Space) (ea : Dword) (n : Nat) (w : Option Window) (need : Need) (kind : Nat)
    (atHome : Bool) : State × Spot :=
  let g := s.group r.gid
  match sp with
  | .glb =>
    let viaTlb : State × Spot :=
      match s.reach g.coreRef g.part (s.unitIdOf g) ea need kind atHome with
      | (s, .ok pa _) => (s, .at_ (s.glbPlace pa))
      | (s, .denied code) => (s, .denied code)
      | (s, .fault seq) => (s, .fault seq)
      | (s, .unresolvable) => (s, .unresolvable)
      | (s, .migrate p n) => (s, .migrate p n)
      | (s, .remote pa) => (s, .remote pa)
    match w.bind (fun w => (w.offset? ea n).map (fun o => (w, o))) with
    | some (w, o) =>
      match need.missing ⟨w.read, w.write, false, w.fe⟩ with
      | some code => (s, .denied code)
      | none =>
        if w.host && (atHome || need.fe) then viaTlb
        else (s, .at_ (s.glbPlace (w.frame + o)))
    | none => viaTlb
  | .scr =>
    if s.lineAbsent g (ea.toNat / 128) then (s.startRefill g.gid (ea.toNat / 128), .absent (ea.toNat / 128))
    else (s, .at_ (.scr g.gid ea.toNat))
  | sp => (s, .at_ (g.placeIn r lane sp ea.toNat))

end Sys2Proof.Machine
end

