-- ==== Sys2Proof/Machine/Routine.lean ====
section
/-! DEFINITION. Atomic routines: which RV32I bodies firmware accepts, and how one run changes a line (R320 to R322). -/

namespace Sys2Proof.Machine

/-- A run of a routine: the registers, the bytes of the locked line, and the index of the next instruction. -/
structure RoutineRun where
  regs : List Word
  line : List Byte
  pc : Nat
  deriving DecidableEq, Repr

/-- A register of the run; x0 reads zero. -/
def RoutineRun.reg (r : RoutineRun) (i : Nat) : Word := if i = 0 then 0 else r.regs.getD i 0

/-- The run after an instruction that writes a register. -/
def RoutineRun.put (r : RoutineRun) (rd : Nat) (x : Word) : RoutineRun := { r with regs := r.regs.set rd x, pc := r.pc + 1 }

/-- The fields of an RV32I word. -/
def rvOp (w : Word) : Nat := bits w.toNat 6 0
def rvRd (w : Word) : Nat := bits w.toNat 11 7
def rvF3 (w : Word) : Nat := bits w.toNat 14 12
def rvRs1 (w : Word) : Nat := bits w.toNat 19 15
def rvRs2 (w : Word) : Nat := bits w.toNat 24 20
def rvF7 (w : Word) : Nat := bits w.toNat 31 25

/-- The immediates of RV32I words: I, S and B forms, sign-extended, and the U form. -/
def rvImmI (w : Word) : Word := (sext64 12 (bits w.toNat 31 20)).extractLsb' 0 32
def rvImmS (w : Word) : Word := (sext64 12 (bits w.toNat 31 25 * 32 + bits w.toNat 11 7)).extractLsb' 0 32
def rvImmB (w : Word) : Nat := bits w.toNat 7 7 * 2048 + bits w.toNat 30 25 * 32 + bits w.toNat 11 8 * 2
def rvImmU (w : Word) : Word := word (bits w.toNat 31 12 * 4096)

/-- Whether a branch offset is negative. -/
def rvBack (w : Word) : Bool := bit w.toNat 31

/-- The arithmetic of the register and immediate forms; `alt` selects SUB and the arithmetic shift. -/
def rvAlu (f3 : Nat) (alt : Bool) (x y : Word) : Word :=
  match f3 with
  | 0 => if alt then x - y else x + y
  | 1 => x <<< (y.toNat % 32)
  | 2 => if x.toInt < y.toInt then 1 else 0
  | 3 => if x.toNat < y.toNat then 1 else 0
  | 4 => x ^^^ y
  | 5 => if alt then x.sshiftRight (y.toNat % 32) else x >>> (y.toNat % 32)
  | 6 => x ||| y
  | _ => x &&& y

/-- Whether a branch is taken. -/
def rvTaken (f3 : Nat) (x y : Word) : Bool :=
  match f3 with
  | 0 => x == y
  | 1 => x != y
  | 4 => decide (x.toInt < y.toInt)
  | 5 => decide (y.toInt ≤ x.toInt)
  | 6 => decide (x.toNat < y.toNat)
  | _ => decide (y.toNat ≤ x.toNat)

/-- Bytes of a load or store by funct3. -/
def rvBytes (f3 : Nat) : Nat := 2 ^ (f3 % 4)

/-- The offset in the line that a load or store reaches (R322). -/
def rvPlace (f3 : Nat) (ea : Word) : Nat := ea.toNat % 128 / rvBytes f3 * rvBytes f3

/-- A loaded value extended by funct3. -/
def rvExtend (f3 x : Nat) : Word :=
  if f3 < 4 then (sext64 (8 * rvBytes f3) x).extractLsb' 0 32 else word x

/-- The line with bytes replaced from an offset. -/
def setLine (l : List Byte) (o : Nat) (bs : List Byte) : List Byte := l.take o ++ bs ++ l.drop (o + bs.length)

/-- One instruction of a run (R321, R322). -/
def RoutineRun.exec (r : RoutineRun) (w : Word) : RoutineRun :=
  let x := r.reg (rvRs1 w)
  let y := r.reg (rvRs2 w)
  let f3 := rvF3 w
  match rvOp w with
  | 0x33 => r.put (rvRd w) (rvAlu f3 (rvF7 w == 0x20) x y)
  | 0x13 => r.put (rvRd w) (rvAlu f3 (f3 == 5 && rvF7 w == 0x20) x (if f3 = 1 ∨ f3 = 5 then word (rvRs2 w) else rvImmI w))
  | 0x37 => r.put (rvRd w) (rvImmU w)
  | 0x63 => { r with pc := r.pc + (if rvTaken f3 x y then rvImmB w / 4 else 1) }
  | 0x03 => r.put (rvRd w) (rvExtend f3 (fromBytes ((r.line.drop (rvPlace f3 (x + rvImmI w))).take (rvBytes f3))))
  | 0x23 => { r with line := setLine r.line (rvPlace f3 (x + rvImmS w)) (toBytes (rvBytes f3) y.toNat), pc := r.pc + 1 }
  | _ => { r with pc := r.pc + 1 }

/-- A run until the PC passes the end of the body; every branch is forward, so the body's length bounds it. -/
def runRoutine (body : List Word) : Nat → RoutineRun → RoutineRun
  | 0, r => r
  | n + 1, r =>
    match (body.drop r.pc).head? with
    | some w => runRoutine body n (r.exec w)
    | none => r

/-- One run of R322 on a line: its bytes after, and the result pair. -/
def routineOnLine (body : List Word) (line : List Byte) (va : Dword) (b c : Dword) : List Byte × Dword :=
  let regs := (List.range 32).map (fun i =>
    match i with
    | 10 => b.extractLsb' 0 32
    | 11 => b.extractLsb' 32 32
    | 12 => c.extractLsb' 0 32
    | 13 => c.extractLsb' 32 32
    | 14 => word (va.toNat % 128)
    | 15 => word (va.toNat / 128 * 128)
    | _ => 0)
  let r := runRoutine body body.length ⟨regs, line, 0⟩
  (r.line, joinWords (r.reg 10) (r.reg 11))

/-- Whether R321 accepts the word at an index of a body of `n` words. -/
def rvAccepted (n i : Nat) (w : Word) : Bool :=
  let f3 := rvF3 w
  let f7 := rvF7 w
  match rvOp w with
  | 0x33 => f7 == 0 || (f7 == 0x20 && (f3 == 0 || f3 == 5))
  | 0x13 => (f3 != 1 && f3 != 5) || f7 == 0 || (f7 == 0x20 && f3 == 5)
  | 0x37 => true
  | 0x63 => f3 != 2 && f3 != 3 && !rvBack w && rvImmB w % 4 == 0 && rvImmB w != 0 && decide (i + rvImmB w / 4 ≤ n)
  | 0x03 => [0, 1, 2, 4, 5].contains f3
  | 0x23 => decide (f3 ≤ 2)
  | _ => false

/-- Whether firmware accepts a routine body (R320, R321). -/
def routineAccepted (body : List Word) : Bool :=
  decide (1 ≤ body.length) && decide (body.length ≤ 16) && (body.zipIdx).all (fun x => rvAccepted body.length x.2 x.1)

/-- The body in a routine slot of a partition. -/
def State.routine (s : State) (part slot : Nat) : Option (List Word) :=
  match s.part? part with
  | some p => p.routines.getD slot none
  | none => none

end Sys2Proof.Machine
end

