-- ==== Sys2Proof/Machine/Access.lean ====
section
/-! DEFINITION. How the lanes of a memory instruction are checked, translated, performed, parked, replayed and abandoned (R22, R25, R156 to R160, R164 to R173, R314 to R325, R395, R414, R467). -/

namespace Sys2Proof.Machine

/-! ### What an access is -/

def AccessOp.isAtomic : AccessOp → Bool
  | .atom _ _ | .routine _ | .bfins | .bffcs | .bfpls | .atomw => true
  | _ => false

/-- The full/empty forms (R164). -/
def AccessOp.isForm : AccessOp → Bool
  | .feq | .ldw | .ldc | .stf | .feset => true
  | _ => false

/-- The permissions an access needs (R384); transactional stores need both. -/
def AccessOp.need (op : AccessOp) (tx : Bool) : Need :=
  match op with
  | .load => needRead
  | .feq | .ldw => ⟨true, false, false, true⟩
  | .ldc => ⟨true, true, false, true⟩
  | .store => if tx then needBoth else needWrite
  | .stf | .feset => ⟨false, true, false, true⟩
  | _ => needBoth

/-- The access kind of a page fault (R171). -/
def AccessOp.kind (op : AccessOp) : Nat :=
  match op with
  | .load => 0
  | .feq | .ldw | .ldc | .stf | .feset => 2
  | _ => 1

/-- Lanes of the instruction's effective mask; one lane stands for all in `LDS`. -/
def Access.mask (a : Access) : Mask := Mask.ofFn (fun i => decide (a.lanes.get i ≠ .off))

/-- The lanes whose access is not performed. -/
def Access.left (a : Access) : Mask :=
  let m := Mask.ofFn (fun i => decide (a.lanes.get i ≠ .off) && decide (a.lanes.get i ≠ .done))
  if m = 0 then 0 else if a.bcast = 0 then m else a.bcast

/-- The instruction's effective mask. -/
def Access.eff (a : Access) : Mask := if a.bcast = 0 then a.mask else a.bcast

/-- The lanes of the destination that a lane's value reaches: an `s` register takes the highest lane's (R18, R157). -/
def Access.targets (a : Access) (lane : Nat) : List Nat :=
  if a.bcast ≠ 0 then (if specIsS a.dst then [0] else a.bcast.lanes)
  else if specIsS a.dst then (if a.mask.lanes.getLast? = some lane then [lane] else [])
  else [lane]

/-- The words a load's bytes give, extended by its size (R153). -/
def Access.words (a : Access) (bs : List Byte) : List Word :=
  let n := fromBytes bs
  if a.signed then [(sext64 (8 * a.size) n).extractLsb' 0 32]
  else (List.range a.regs).map (fun k => word (n / 2 ^ (32 * k)))

/-- The lanes not performed whose registers are owed nothing: all, but for an `s` register, which is owed its highest lane's value (R18, R25). -/
def Access.unowed (a : Access) : Mask :=
  if specIsS a.dst ∧ a.bcast = 0 then (match a.mask.lanes.getLast? with | some i => if a.left.getLsbD i then a.left else 0 | none => 0) else a.left

/-- The registers of a load set full again in the lanes not performed (R25). -/
def Slice.abandon (sl : Slice) (a : Access) : Slice :=
  let sl := if a.returns then sl.makeFullN a.dst a.regs a.unowed else sl
  { sl with retry := { sl.retry with used := 0, cycles := 0 } }

/-- A lane's state replaced. -/
def Access.setLane (a : Access) (i : Nat) (x : LaneState) : Access := { a with lanes := a.lanes.set i x }

/-! ### Address checks (R156, R314) -/

/-- The lanes of an access that fail a test of their address. -/
def Access.failing (a : Access) (bad : Dword → Bool) : Mask := Mask.ofFn (fun i => decide (a.lanes.get i ≠ .off) && bad (a.ea.get i))

/-- The lowest lane's address in a mask. -/
def Access.lowest (a : Access) (m : Mask) : Dword := a.ea.get (m.lanes.headD 0)

/-- The trap of a failed check. -/
def Access.checkTrap (a : Access) (m : Mask) (cause info : Nat) : Option Trap :=
  if m = 0 then none else some ⟨cause, a.lowest m, if a.bcast = 0 then m else a.bcast, word info⟩

/-- The spill area of the lane store (R33, R34). -/
def inSpillArea (ea : Dword) (n : Nat) : Bool := decide (0xC0 < ea.toNat + n)

/-- The alignment an access must have (R155, R314): `FEQ` and `FESET` that of a word, a routine none. -/
def Access.align (a : Access) : Nat := match a.op with | .routine _ => 1 | _ => a.size

/-- The first check of R156 or R314 that some lane fails. -/
def Access.check (a : Access) (g : Group) (sl : Slice) : Option Trap :=
  let out := if a.space = .glb then 0 else a.failing (fun ea => !g.inSpace a.space ea a.size)
  match a.checkTrap out 0x0A a.space.code with
  | some t => some t
  | none =>
    match a.checkTrap (if a.space = .glb then a.failing (fun ea => !canonical ea) else 0) 0x09 1 with
    | some t => some t
    | none =>
      match a.checkTrap (if a.space = .lane ∧ sl.spilled ≠ 0 then a.failing (fun ea => inSpillArea ea a.size) else 0) 0x09 5 with
      | some t => some t
      | none => a.checkTrap (a.failing (fun ea => ea.toNat % a.align != 0)) 0x07 a.align

/-! ### Atomic operations (R315, R317, R318) -/

/-- Bytes of a TY-typed word (R313). -/
def tyBytes (ty : Nat) : Nat := if ty = 2 ∨ ty = 3 then 8 else 4

/-- `atom_op` of R315 on values of `8 * tyBytes ty` bits. -/
def atomOp (op ty o v k : Nat) : Nat :=
  let w := 8 * tyBytes ty
  let sg := ty == 0 || ty == 2
  let lt : Bool := if sg then decide (signedOf w v < signedOf w o) else decide (v < o)
  match op with
  | 0 => if ty = 4 then (fmtF32.round .rne (Num.add .rne (fmtF32.decode o) (fmtF32.decode v)).num).bits else (o + v) % 2 ^ w
  | 1 => if lt then v else o
  | 2 => if lt then o else v
  | 3 => o &&& v
  | 4 => o ||| v
  | 5 => o ^^^ v
  | 6 => v
  | _ => if o = k then v else o

/-- The population of a 64-bit word. -/
def popc64 (x : Nat) : Nat := ((List.range 64).filter (bit x)).length

/-- The lowest clear bit of a 64-bit word, 64 when there is none. -/
def lowestClear (x : Nat) : Nat := ((List.range 64).find? (fun i => !bit x i)).getD 64

/-- The bytes of the unit an atomic works on as they become, and the value it returns, from the bytes as they were (R315, R317, R318, R322). -/
def atomResult (op : AccessOp) (body : List Word) (ea : Dword) (bs : List Byte) (b c : BitVec 128) : List Byte × Nat :=
  let o := fromBytes bs
  let out (n : Nat) : List Byte := toBytes bs.length n
  match op with
  | .atom f ty => (out (atomOp f ty o (b.toNat % 2 ^ (8 * bs.length)) (c.toNat % 2 ^ (8 * bs.length))), o)
  | .bfins => (out ((o &&& (2 ^ 64 - 1 - c.toNat % 2 ^ 64)) ||| (b.toNat % 2 ^ 64 &&& c.toNat % 2 ^ 64)), o)
  | .bffcs =>
    let j := lowestClear o
    (out (if j = 64 then o else o ||| 2 ^ j), j)
  | .bfpls =>
    let t := o ||| b.toNat % 2 ^ 64
    if popc64 t ≤ min (c.toNat % 2 ^ 32) 64 then (out t, 2 ^ 31 + popc64 t) else (out o, popc64 o)
  | .atomw => (out (if o = b.toNat then c.toNat else o), o)
  | .routine _ =>
    let r := routineOnLine body bs ea (b.extractLsb' 0 64) (c.extractLsb' 0 64)
    (r.1, r.2.toNat)
  | _ => (bs, o)

/-- The unit of memory an atomic reads and writes at its place: the line for a routine. -/
def AccessOp.unit (op : AccessOp) (size : Nat) (p : Place) : Place × Nat :=
  match op with
  | .routine _ => (match p with | .glb pa => .glb (pa / 128 * 128) | .reg pa => .reg (pa / 128 * 128) | q => q, 128)
  | _ => (p, size)

/-- An atomic of a core on a line of `glb` at the home of the line (R319). -/
def State.atomicAtHome (s : State) (c : CoreRef) (pa : Nat) : State := ((s.homeLookup c.die pa).recall pa).l2Touch pa .update

/-- A core granted the ownership of a line by its home, which reads the line for it (R308, R319). -/
def State.grantLine (s : State) (c : CoreRef) (pa : Nat) : State :=
  let s := ((s.homeLookup c.die pa).recall pa).l2Touch pa .read
  s.modDie (s.homeDie pa) (fun d => { d with owned := (pa / 128, c.die * 96 + c.core) :: d.owned })

/-- Where an atomic of a core on a line of `glb` runs, and what that does to the predictor, to ownership and to the L1 (R182, R319, R462); a routine runs at the home (R322). -/
def State.atomicOwner (s : State) (by_ : Option SliceRef) (c : CoreRef) (pa : Nat) (routine : Bool) : State :=
  let n := ((s.core c).predict pa).count
  if routine then s.atomicAtHome c pa
  else if 2 ≤ n then (s.modCore c (fun k => k.setPredict pa n)).atomicAtHome c pa
  else
    let s := match s.lineOwner pa with
      | some o =>
        if o = c then
          let s := s.modCore c (fun k => k.setPredict pa (n - 1))
          if (s.core c).hitsFresh pa then s else (s.homeLookup c.die pa).l2Touch pa .read
        else (s.modCore c (fun k => k.setPredict pa (min 3 (n + 1)))).grantLine c pa
      | none => (s.modCore c (fun k => k.setPredict pa n)).grantLine c pa
    s.l1Touch c (by_.map (fun r => (s.group r.gid).slotOf r.idx)) pa

/-- The bytes of an atomic written at their place, on a host page by the control die (R395); a transaction that holds the line meets a conflict when they change (R325). -/
def State.writeAtomic (s : State) (by_ : Option SliceRef) (c : CoreRef) (routine : Bool) (p : Place) (was data : List Byte) : State :=
  let s := s.modMem p (fun m => m.setBytes p.off data)
  let s := match by_, p with
    | _, .reg _ => s
    | some r, p => s.modSlice r (fun sl => sl.stores p.space p.home p.off was)
    | none, _ => s
  match p with
  | .glb pa =>
    let s := if s.physKind pa = .host then s else s.atomicOwner by_ c pa routine
    if was = data then s else (s.conflictLine by_ (pa / 128)).snoop (pa / 128)
  | .reg pa => s.windowWrite pa data
  | _ => s

/-! ### Performing one lane -/

/-- What performing a lane gives: a value, nothing, or a wait on its word. -/
inductive LaneResult where
  | value (ws : List Word) (mark : Option Dword)
  | done
  | wait (wantsFull takes : Bool)
  deriving DecidableEq, Repr

/-- The address of the unit of poison that holds an effective address (R413). -/
def originOf (sp : Space) (ea : Dword) : Dword := dword (ea.toNat / poisonUnit sp * poisonUnit sp)

/-- A load of `glb` passes through the L1 of its core, and through the home L2 slice on a miss, on a stale line, or where another core owns the line (R210, R308, R309, R319). -/
def State.loadTouch (s : State) (r : SliceRef) (hint : Option Nat) (pa : Nat) : State :=
  let g := s.group r.gid
  let s := if (s.core g.coreRef).hitsFresh pa && (s.lineOwner pa).all (fun o => o == g.coreRef) then s else ((s.findHome hint g.die pa).recall pa).l2Touch pa .read
  s.l1Touch g.coreRef (some (g.slotOf r.idx)) pa

/-- The request of a store or a full/empty form at the home of its line, which a form recalls and uses (R307, R308, R319); a form finds its word as it stands (R338, R341). -/
def State.toHome (s : State) (r : SliceRef) (op : AccessOp) (p : Place) : State :=
  let s := match p with
    | .glb pa => (fun s => if op.isForm then s.useHome pa false else s) (s.homeLookup (s.group r.gid).die pa)
    | _ => s
  if op.isForm then s.meetsPaths r p.space p.home (p.off / 8 * 8) 8 else s

/-- Where a load comes among the stores that the slice's other path has made: the spec leaves it open (R130), and the lanes of one load agree (R329). -/
def State.pathCut (s : State) (r : SliceRef) : Nat :=
  (Config.openValue s.fresh (2 ^ 65)).toNat % ((s.slice r).pathStores.length + 1)

/-- The bytes that a plain load finds at a place: on path B of a SPLIT it may find them as they were before stores of path A (R130, R174). -/
def State.loadBytes (s : State) (r : SliceRef) (p : Place) (n : Nat) : List Byte :=
  match p with
  | .reg _ => s.readPlace p n
  | p => (s.slice r).sees (s.pathCut r) p.space p.home p.off (s.readPlace p n)

/-- A plain load noted, so that a later one of its path sees nothing older (R338). -/
def State.loadSeen (s : State) (r : SliceRef) (p : Place) (n : Nat) : State := s.modSlice r (fun sl => sl.meets (s.pathCut r) p.space p.home p.off n)

/-- A plain store noted, for the paths that have still to run (R130, R174). -/
def State.storeNoted (s : State) (r : SliceRef) (p : Place) (n : Nat) : State :=
  match p with
  | .reg _ => s
  | p => s.modSlice r (fun sl => sl.stores p.space p.home p.off (s.readPlace p n))

/-- The bytes that a plain store leaves: on path B of a SPLIT a store that is no release may come before stores of path A, whose bytes then stay (R130, R332). -/
def State.storeLeaves (s : State) (r : SliceRef) (a : Access) (p : Place) (data : List Byte) : List Byte :=
  match p with
  | .reg _ => data
  | p => if a.release then data else (s.slice r).overtaken (s.pathCut r) p.space p.home p.off (s.readPlace p a.size) data

/-- The bytes a lane of a store writes at its place: a byte that a higher lane of the instruction has written stays as it is (R158). -/
def Access.storeBytes (a : Access) (m : Memory) (i : Nat) (p : Place) : List Byte :=
  let data := toBytes a.size (a.c.get i).toNat
  match p with
  | .glb pa =>
    if (List.range 4).all (fun j => (a.wrote.get j).isNone) then data
    else
      data.mapIdx (fun k x =>
        if (List.range 4).any (fun j => decide (i < j) && (match a.wrote.get j with | some b => decide (b ≤ pa + k) && decide (pa + k < b + a.size) | none => false))
        then m.byte (pa + k) else x)
  | _ => data

/-- The places that the lanes of a store have written, noted where the access is not done with (R158). -/
def Access.noteWritten (a : Access) (xs : List (Nat × Spot)) : Access :=
  if a.op ≠ .store ∨ a.left = 0 then a
  else { a with wrote := xs.foldl (fun w x => match x.2 with | .at_ (.glb pa) => w.set x.1 (some pa) | _ => w) a.wrote }

/-- The poison mark of what a lane reads at its place: the address of the first poisoned unit there (R413, R414). -/
def State.markAt (s : State) (a : Access) (i : Nat) (p : Place) : Option Dword :=
  (s.poisonPlace p a.size).map (fun u => originOf a.space (a.ea.get i + dword (u - p.off / poisonUnit a.space * poisonUnit a.space)))

/-- One lane performed at its place (R157, R164, R315). -/
def State.performLane (s : State) (r : SliceRef) (a : Access) (i : Nat) (p : Place) : State × LaneResult :=
  let g := s.group r.gid
  let mark := s.markAt a i p
  let bs := s.readPlace p a.size
  match a.op with
  | .load => ((match p with | .glb pa => s.loadTouch r a.hint pa | _ => s).loadSeen r p a.size, .value (a.words (s.loadBytes r p a.size)) mark)
  | .feq => (s.toHome r a.op p, .value [if s.fullPlace p then 1 else 0] mark)
  | .store =>
    let s := ((s.storeNoted r p a.size).toHome r a.op p).writePlace (some r) p (s.storeLeaves r a p (a.storeBytes s.mem i p)) (a.poison.get i).isSome
    (match p with | .glb pa => s.l1Store g.coreRef (some (g.slotOf r.idx)) pa | _ => s, .done)
  | .feset => ((s.toHome r a.op p).setFullPlace (some r) p (((a.c.get i).extractLsb' 0 32) != 0), .done)
  | .ldw => (s.toHome r a.op p, if s.fullPlace p then .value (a.words bs) mark else .wait true false)
  | .ldc => if s.fullPlace p then ((s.toHome r a.op p).setFullPlace (some r) p false, .value (a.words bs) mark) else (s.toHome r a.op p, .wait true true)
  | .stf =>
    if s.fullPlace p then (s.toHome r a.op p, .wait false true)
    else
      (((s.toHome r a.op p).writePlace (some r) p (toBytes a.size (a.c.get i).toNat) (a.poison.get i).isSome).setFullPlace (some r) p true, .done)
  | op =>
    let u := op.unit a.size p
    let was := s.readPlace u.1 u.2
    let body := match op with | .routine slot => (s.routine g.part slot).getD [] | _ => []
    let x := atomResult op body (a.ea.get i) was (a.b.get i) (a.c.get i)
    let s := s.writeAtomic (some r) g.coreRef (match op with | .routine _ => true | _ => false) u.1 was x.1
    (s, if a.returns then .value ((List.range a.regs).map (fun k => word (x.2 / 2 ^ (32 * k)))) none else .done)

/-- The park-list entry of a lane (R169). -/
def State.parkEntry? (s : State) (r : SliceRef) (i : Nat) : Option ParkEntry := s.parks.find? (fun e => decide (e.ref = r) && e.lane == i)

/-- A lane joins the park list of its word, or goes back to its place there: then it has lost a race, which spends a unit where a change of its word had woken it (R169, R173). -/
def State.parkLane (s : State) (r : SliceRef) (i : Nat) (p : Place) (wantsFull takes : Bool) : State :=
  match s.parkEntry? r i with
  | some x =>
    let s := { s with parks := s.parks.map (fun (e : ParkEntry) =>
      if e.ref = r ∧ e.lane = i then { e with space := p.space, home := p.home, word := p.off / 8, woken := false, free := false } else e) }
    if x.woken && !x.free then s.modSlice r (fun sl => { sl with retry := { sl.retry with used := sl.retry.used + 1 } }) else s
  | none =>
    { s with
      parks := s.parks ++ [⟨r, i, p.space, p.home, p.off / 8, wantsFull, takes, s.nextStamp, false, false⟩]
      nextStamp := s.nextStamp + 1 }

/-- Whether a slice counts the cycles of a full/empty wait: some lane of the form is parked, or has been woken, by a change of its word or by a shootdown, and has not been performed or parked again; a lane that waits for a page fault, a migration or presence does not count (R170, R173, R395). -/
def State.countsCycles (s : State) (r : SliceRef) : Bool :=
  match (s.slice r).wait with
  | some (.access a) =>
    (List.range 4).any (fun i => match a.lanes.get i with
      | .parked | .woken => true
      | .todo | .remote => (s.parkEntry? r i).isSome
      | _ => false)
  | _ => false

/-- The park-list entry of a lane leaves its list. -/
def State.unparkLane (s : State) (r : SliceRef) (i : Nat) : State :=
  { s with parks := s.parks.filter (fun e => !(decide (e.ref = r) && e.lane == i)) }

/-- One lane presented at its place: it is performed, its value owed, or it parks. -/
def State.presentLane (s : State) (r : SliceRef) (a : Access) (i : Nat) (p : Place) : State × Access :=
  match s.performLane r a i p with
  | (s, .value ws mark) =>
    let owe (s : State) (l : Nat) : State := s.modSlice r (fun sl => { sl with owed := sl.owed ++ [⟨a.dst, a.regs, l, ws, mark⟩] })
    (((a.targets i).foldl owe s).unparkLane r i, a.setLane i .done)
  | (s, .done) => (s.unparkLane r i, a.setLane i .done)
  | (s, .wait f t) => (s.parkLane r i p f t, a.setLane i .parked)

/-! ### Transactions (R324, R325) -/

/-- Whether an access joins the open transaction of its slice. -/
def Access.transacts (a : Access) (sl : Slice) : Bool := sl.tx.isSome && decide (a.space = .glb) && (a.op == .load || a.op == .store)

/-- The set with a line joined, or the reason that joining aborts. -/
def State.joinLine (s : State) (t : Transaction) (pa : Nat) (write : Bool) : Nat ⊕ Transaction :=
  let line := pa / 128
  if t.lines.any (fun l => l.1 == line) then
    .inr { t with lines := t.lines.map (fun l => if l.1 = line then (l.1, l.2 || write) else l) }
  else if 8 ≤ t.lines.length then .inl 2
  else
    match t.lines with
    | l :: _ => if s.homeDie (l.1 * 128) ≠ s.homeDie pa then .inl 3 else .inr { t with lines := t.lines ++ [(line, write)] }
    | [] => .inr { t with lines := [(line, write)] }

/-- A byte as an open transaction sees it, given what its place holds. -/
def Transaction.byteOr (t : Transaction) (x : Byte) (a : Nat) : Byte :=
  match t.buffer.find? (fun c => c.1 == a) with
  | some c => c.2
  | none => x

/-- The bytes of a load that a transaction takes from memory noted (R342). -/
def Transaction.loaded (t : Transaction) (pa n : Nat) : Transaction :=
  { t with reads := ((List.range n).map (· + pa)).foldl (fun l a => if t.buffer.any (fun c => c.1 == a) then l else risingAdd l a) t.reads }

/-- Bytes put into the buffer of a transaction. -/
def Transaction.buffered (t : Transaction) (a : Nat) : List Byte → Transaction
  | [] => t
  | x :: rest => { t with buffer := (a, x) :: t.buffer.filter (fun c => c.1 ≠ a) }.buffered (a + 1) rest

/-- The lanes of a transactional load or store in ascending order; an abort ends it. -/
def State.transactLanes (s : State) (r : SliceRef) (a : Access) : List (Nat × Nat) → State × Option Access
  | [] => (s, some a)
  | (i, pa) :: rest =>
    match (s.slice r).tx with
    | none => (s, none)
    | some t =>
      match s.joinLine t pa (a.op == .store) with
      | .inl reason => (s.modSlice r (fun sl => sl.abortTx reason 0), none)
      | .inr t =>
        match a.op with
        | .store =>
          let t := t.buffered pa (toBytes a.size (a.c.get i).toNat)
          let t := if (a.poison.get i).isSome then { t with poisoned := risingAdd t.poisoned (pa / 128) } else t
          let g := s.group r.gid
          let s := s.modSlice r (fun sl => { sl with tx := some t })
          (if s.glbPlace pa = .glb pa then (s.homeLookup g.die pa).l1Store g.coreRef (some (g.slotOf r.idx)) pa else s).transactLanes r (a.setLane i .done) rest
        | _ =>
          let bs := (s.readPlace (s.glbPlace pa) a.size).mapIdx (fun k x => t.byteOr x (pa + k))
          let mark :=
            if (s.mem.poisonAt 128 pa a.size).isSome || t.poisoned.contains (pa / 128) then some (originOf .glb (a.ea.get i)) else none
          let owe (s : State) (l : Nat) : State :=
            s.modSlice r (fun sl => { sl with owed := sl.owed ++ [⟨a.dst, a.regs, l, a.words bs, mark⟩] })
          let s := (a.targets i).foldl owe (s.modSlice r (fun sl => { sl with tx := some (t.loaded pa a.size) }))
          (if s.glbPlace pa = .glb pa then s.loadTouch r a.hint pa else s).transactLanes r (a.setLane i .done) rest

/-! ### Translation of the lanes -/

/-- The spots of some lanes, in order. -/
def State.spots (s : State) (r : SliceRef) (a : Access) (w : Option Window) (tx : Bool) : List Nat → State × List (Nat × Spot)
  | [] => (s, [])
  | i :: rest =>
    let x := s.spot r i a.space (a.ea.get i) (match a.op with | .routine _ => 1 | _ => a.size) w (a.op.need tx) a.op.kind
      (a.op.isAtomic || a.op.isForm)
    let y := x.1.spots r a w tx rest
    (y.1, (i, x.2) :: y.2)

/-- The window of an access, when it names one. -/
def Access.windowOf (a : Access) (sl : Slice) : Option Window := a.window.bind (fun k => sl.w.getD k none)

/-- A use of a stale window is noted, so that it is translated again later (R163). -/
def State.noteStale (s : State) (r : SliceRef) (a : Access) : State :=
  match a.window, a.windowOf (s.slice r) with
  | some k, some w => if w.stale then s.modSlice r (fun sl => { sl with w := sl.w.set k (some { w with used := true }) }) else s
  | _, _ => s

/-- The lanes of an access to be tried now. -/
def Access.todo (a : Access) : List Nat := (List.range 4).filter (fun i => decide (a.lanes.get i = .todo) || decide (a.lanes.get i = .woken))

/-- The lowest denial code among spots, with its lanes (R467). -/
def deniedLanes (xs : List (Nat × Spot)) : Option (Nat × Mask) :=
  let codes := xs.filterMap (fun x => match x.2 with | .denied c => some (x.1, c) | _ => none)
  match (codes.map Prod.snd).foldl (fun (m : Option Nat) c => match m with | some d => some (min d c) | none => some c) none with
  | none => none
  | some c => some (c, (codes.filter (fun x => x.2 == c)).foldl (fun m x => m ||| Mask.one x.1) 0)

/-- The lanes that no answer can resolve. -/
def unresolvableLanes (xs : List (Nat × Spot)) : Mask := xs.foldl (fun m x => if x.2 = .unresolvable then m ||| Mask.one x.1 else m) 0

/-- Whether a spot aborts a transaction: a page fault, a migration, or a host-resident page (R325). -/
def State.spotFaults (s : State) : Spot → Bool
  | .at_ (.glb pa) => s.physKind pa == .host
  | .fault _ | .migrate _ _ | .remote _ | .unresolvable => true
  | _ => false

/-- The access ended by a trap: what it had asked for is withdrawn. -/
def State.dropAccess (s : State) (r : SliceRef) (a : Access) : State := (s.withdraw r).modSlice r (fun sl => sl.abandon a)

/-- The trap of unresolvable lanes (R171). LDS, which makes one access for all its lanes, names the lowest of them in `XINFO` (DEDUCED, log 83). -/
def Access.faultTrap (a : Access) (bad : Mask) : Trap := ⟨0x08, a.lowest bad, a.left, word (a.op.kind + 16 * bad.toNat)⟩

/-- The trap of denied lanes: atomics record the failing lanes under R314, the others the unperformed lanes under R467. -/
def Access.deniedTrap (a : Access) (code : Nat) (bad : Mask) : Trap :=
  if a.op.isAtomic then ⟨0x09, a.lowest bad, bad, word code⟩ else ⟨0x09, a.lowest bad, a.left, word (code + 16 * bad.toNat)⟩

/-- A lane takes the place that its spot gives it. A FEQ or FESET of a page that the control die serves is held until it is served (R166, R395: DEDUCED, log 84). -/
def State.placeLane (r : SliceRef) (x : State × Access) (y : Nat × Spot) : State × Access :=
  match y.2 with
  | .at_ p => x.1.presentLane r x.2 y.1 p
  | .absent _ => (x.1, x.2.setLane y.1 .absent)
  | .fault seq => (x.1, x.2.setLane y.1 (.faulted seq))
  | .migrate p n => (x.1, x.2.setLane y.1 (.migrating p n))
  | .remote pa => ({ x.1 with remotes := x.1.remotes ++ [⟨r, y.1, pa⟩] }, x.2.setLane y.1 .remote)
  | _ => x

/-- The access a slice waits in. -/
def State.accessOf (s : State) (r : SliceRef) : Option Access :=
  match (s.slice r).wait with
  | some (.access a) => some a
  | _ => none

/-- The lanes of an access that are not performed. -/
def Access.leftLanes (a : Access) : List Nat := (List.range 4).filter (fun i => decide (a.lanes.get i ≠ .off) && decide (a.lanes.get i ≠ .done))

/-- The physical address that a lane of a slice's access in `glb` names, through its window or as the page table maps it now; none where it maps none. -/
def State.physOf (s : State) (r : SliceRef) (a : Access) (i : Nat) : Option Nat :=
  match (a.windowOf (s.slice r)).bind (fun w => (w.offset? (a.ea.get i) 1).map (fun o => w.frame + o)) with
  | some pa => some pa
  | none =>
    match s.walk (s.group r.gid).part ((a.ea.get i).toNat % 2 ^ 57) with
    | .leaf _ e => some (pteFrame e + (a.ea.get i).toNat % pageBytes (bits e 11 9))
    | _ => none

/-- The unit that a lane of an atomic names: a word or, for a routine, a line, in physical memory for `glb` (R315, R322). -/
def State.unitOf (s : State) (r : SliceRef) (a : Access) (i : Nat) : Option Nat :=
  (if a.space = .glb then s.physOf r a i else some (a.ea.get i).toNat).map (fun x => match a.op with | .routine _ => x / 128 | _ => x)

/-- Whether slice `j` of a gang waits in the atomic of another slice's instruction on a unit that one names; while a lane of it is not mapped, on which is not known (R315, R322). -/
def State.atomicBefore (s : State) (r : SliceRef) (a : Access) (j : Nat) : Bool :=
  match s.accessOf ⟨r.gid, j⟩ with
  | some b =>
    b.op.isAtomic && decide (b.addr = a.addr) && decide (b.space = a.space) &&
      b.leftLanes.any (fun i => match s.unitOf ⟨r.gid, j⟩ b i with
        | some u => a.leftLanes.any (fun k => s.unitOf r a k == some u)
        | none => true)
  | none => false

/-- The lower slices of a subgang that wait in the atomic that a slice of it issues with them, on a unit that it names (R315, R322). -/
def State.lowerWaiting (s : State) (r : SliceRef) (a : Access) : List Nat :=
  let n := (s.group r.gid).gangSize
  (List.range r.idx).filter (fun j => j / n == r.idx / n && (s.slice ⟨r.gid, j⟩).sub == (s.slice r).sub && s.atomicBefore r a j)

/-- Whether a lower slice that issued an atomic with this one has still to act on a unit it names. -/
def State.atomicWaits (s : State) (r : SliceRef) (a : Access) : Bool := a.behind.any (s.atomicBefore r a)

/-- Whether a spot must be awaited before its lane is translated: a page fault, a migration, or an absent line. -/
def Spot.blocks : Spot → Bool
  | .fault _ | .migrate _ _ | .absent _ => true
  | _ => false

/-- A lane of an atomic that must wait, since a lane of it is not translated or a lower slice comes first: it is held where it is translated (R314, R315). -/
def State.holdLane (r : SliceRef) (x : State × Access) (y : Nat × Spot) : State × Access :=
  if y.2.blocks then State.placeLane r x y else (x.1, x.2.setLane y.1 .held)

/-- The lanes to be tried as their spots leave them. -/
def State.placeLanes (s : State) (r : SliceRef) (a : Access) (xs : List (Nat × Spot)) : State × Access :=
  let a := if a.op.isAtomic then { a with behind := a.behind ++ s.lowerWaiting r a } else a
  let y := if a.op.isAtomic && (s.atomicWaits r a || xs.any (fun x => x.2.blocks)) then xs.foldl (State.holdLane r) (s, a) else xs.foldl (State.placeLane r) (s, a)
  (y.1, y.2.noteWritten xs)

/-- The completion of an access: its acquire is performed and its budget returns to zero (R166, R170, R462); after an acquire the slice meets nothing older (R332, R338). -/
def State.finishAccess (s : State) (r : SliceRef) (a : Access) : State :=
  let s := s.modSlice r (fun sl => { sl with retry := { sl.retry with used := 0, cycles := 0 }, pathStores := if a.acquire then [] else sl.pathStores })
  if a.acquire then s.acquire (s.group r.gid).coreRef a.scope else s

/-- Where an access stands after its lanes were tried. -/
def State.restAccess (s : State) (r : SliceRef) (a : Access) : State × Fate :=
  if a.left = 0 then (s.finishAccess r a, .next) else (s, .park (.access a))

/-- The lanes of an atomic whose target is poisoned: the home applies none (R414). -/
def State.poisonedTargets (s : State) (a : Access) (xs : List (Nat × Spot)) : Mask :=
  if a.op.isAtomic then
    xs.foldl (fun m x => match x.2 with
      | .at_ p => if (s.poisonPlace p a.size).isSome then m ||| Mask.one x.1 else m
      | _ => m) 0
  else 0

/-- Whether an access is a routine's that names an empty slot (R314). -/
def State.slotMissing (s : State) (r : SliceRef) (a : Access) : Bool :=
  match a.op with
  | .routine slot => (s.routine (s.group r.gid).part slot).isNone
  | _ => false

/-- The lanes to be tried are translated, and those that can be are performed, before a trap for lanes that no answer can resolve too; a lane that a permission stops leaves all of them undone (R159, R165, R171, R314, R315, R324, R467). -/
def State.advance (s : State) (r : SliceRef) (a : Access) : State × Fate :=
  let sl := s.slice r
  let tx := a.transacts sl
  let x := (s.noteStale r a).spots r a (a.windowOf sl) tx a.todo
  let s := x.1
  match deniedLanes x.2 with
  | some (code, bad) => (s.dropAccess r a, .trap (a.deniedTrap code bad))
  | none =>
    if s.slotMissing r a then (s.dropAccess r a, .trap ⟨0x09, a.lowest a.mask, a.mask, 8⟩)
    else if tx then
      if x.2.any (fun y => s.spotFaults y.2) then ((s.dropAccess r a).modSlice r (fun sl => sl.abortTx 5 0), .moved)
      else
        match s.transactLanes r a (x.2.filterMap (fun y => match y.2 with | .at_ (.glb pa) | .at_ (.reg pa) => some (y.1, pa) | _ => none)) with
        | (s, some a) => s.restAccess r a
        | (s, none) => (s.modSlice r (fun sl => sl.abandon a), .moved)
    else if unresolvableLanes x.2 ≠ 0 then
      let y := if a.op.isAtomic then (s, a) else s.placeLanes r a x.2
      (y.1.dropAccess r y.2, .trap (y.2.faultTrap (unresolvableLanes x.2)))
    else if s.poisonedTargets a x.2 ≠ 0 then
      (s.dropAccess r a, .poison (s.poisonedTargets a x.2) (originOf a.space (a.lowest (s.poisonedTargets a x.2))))
    else
      let y := s.placeLanes r a x.2
      y.1.restAccess r y.2

/-- A memory instruction at issue: its checks, its destination set empty, and its lanes tried. -/
def State.issueAccess (s : State) (r : SliceRef) (a : Access) : State × Fate :=
  match a.check (s.group r.gid) (s.slice r) with
  | some t => (s, .trap t)
  | none => (if a.returns then s.modSlice r (fun sl => sl.makeEmptyN a.dst a.regs a.eff) else s).advance r a

/-! ### After the issue -/

/-- An address and the address after it as a group, for what happens to a slice after its instruction issued. -/
def grpAt (addr next : Dword) : Grp :=
  { op := 0, wide := true, p := [], w := ⟨0, false, false, false, false, 0, 0, 0, 0, false, 0⟩, pfx := Prefixes.of [], shape := {}, addr := addr,
    next := next }

/-- A slice's wait replaced by a fate, and its gang divided again (R132). -/
def State.resume (s : State) (r : SliceRef) (addr next : Dword) (f : Fate) : State :=
  let k := r.idx / (s.group r.gid).gangSize
  let s := match f with
    | .park w => s.modSlice r (fun sl => { sl with wait := some w })
    | .moved => s
    | f => (s.modSlice r (fun sl => { sl with wait := none })).settleFate (grpAt addr next) r f
  s.divide r.gid k

/-- The outcome of a slice whose access goes on after its issue. -/
def State.goOn (s : State) (r : SliceRef) (a : Access) : Outcome := .next ((s.advance r a).1.resume r a.addr a.next (s.advance r a).2)

/-- R170: the retry budget of a full/empty wait has run out. -/
def State.budgetTrap (s : State) (r : SliceRef) (a : Access) (cycles : Bool) : State :=
  let code := match a.op with | .ldw => 1 | .ldc => 2 | _ => 3
  let t : Trap := ⟨0x06, dword ((a.lowest a.left).toNat / 8 * 8), a.left, word ((if cycles then 1 else 0) + 2 * code)⟩
  (s.dropAccess r a).resume r a.addr a.next (.trap t)

/-- Whether the lost races of a wait have reached their limit. -/
def Retry.lost (x : Retry) : Bool := x.wlim != 0 && decide (x.wlim ≤ x.used)

/-- Whether the cycles of a wait have reached their limit. -/
def Retry.late (x : Retry) : Bool := decide (2 ^ x.cexp ≤ x.cycles)

/-- R169, R173: a woken lane, or one whose page has been moved or unmapped, reissues its request; a lost race may exhaust the budget. -/
def State.reissue (s : State) (r : SliceRef) (lane : Nat) : Outcome :=
  match s.accessOf r with
  | none => .next s
  | some a =>
    if a.lanes.get lane ≠ .woken ∧ a.lanes.get lane ≠ .todo then .next s
    else
      let others := Lanes.ofFn (fun i => if i ≠ lane ∧ (a.lanes.get i = .woken ∨ a.lanes.get i = .todo) then LaneState.parked else a.lanes.get i)
      let back (b : Access) : Access :=
        { b with lanes := Lanes.ofFn (fun i => if i ≠ lane ∧ (a.lanes.get i = .woken ∨ a.lanes.get i = .todo) then a.lanes.get i else b.lanes.get i) }
      match s.advance r { a with lanes := others } with
      | (s, .park (.access b)) =>
        if (s.slice r).retry.lost then .next (s.budgetTrap r (back b) false) else .next (s.resume r a.addr a.next (.park (.access (back b))))
      | (s, f) => .next (s.resume r a.addr a.next f)

/-- Whether a lane blocked by a fault or a migration may go on, and its page fault's answer. -/
def State.laneFree (s : State) (g : Group) (a : Access) (i : Nat) : Bool :=
  match a.lanes.get i with
  | .faulted seq => (s.faultAnswer g.part seq).isSome
  | .migrating p n => s.migrationOver g.part p n
  | .absent => !s.lineAbsent g ((a.ea.get i).toNat / 128)
  | .held => true
  | _ => false

/-- Whether a lane waits for the answer to a fault or for a migration. -/
def LaneState.faulting : LaneState → Bool
  | .faulted _ => true
  | .migrating _ _ => true
  | _ => false

/-- The access with the lanes that may be replayed to be tried again: present lines at once, faults when every one is resolved, and an atomic whole, after the lower slices of its gang (R160, R171, R314, R315). -/
def State.replayable (s : State) (g : Group) (r : SliceRef) (a : Access) : Access :=
  let stuck := (List.range 4).any (fun i => (a.lanes.get i).faulting && !s.laneFree g a i)
  let held := a.op.isAtomic && s.atomicWaits r a || a.op.isAtomic && (List.range 4).any (fun i => ((a.lanes.get i).faulting || decide (a.lanes.get i = .absent)) && !s.laneFree g a i)
  { a with lanes := Lanes.ofFn (fun i =>
      if s.laneFree g a i && (!(a.lanes.get i).faulting || !stuck) && !held then LaneState.todo else a.lanes.get i) }

/-- R171: the unfinished lanes of a parked instruction are replayed. -/
def State.replayAccess (s : State) (r : SliceRef) : Outcome :=
  match s.accessOf r with
  | none => .next s
  | some a =>
    let b := s.replayable (s.group r.gid) r a
    if b.lanes = a.lanes then .next s
    else
      let hold := Lanes.ofFn (fun i => if b.lanes.get i = .woken then LaneState.parked else b.lanes.get i)
      let back (x : Access) : Access := { x with lanes := Lanes.ofFn (fun i => if b.lanes.get i = .woken then .woken else x.lanes.get i) }
      match s.advance r { b with lanes := hold } with
      | (s, .park (.access x)) =>
        if (s.slice r).retry.lost then .next (s.budgetTrap r (back x) false) else .next (s.resume r a.addr a.next (.park (.access (back x))))
      | (s, f) => .next (s.resume r a.addr a.next f)

/-! ### A block of an instruction that acts once per slice -/

/-- Packets of the stream to a package that are not acknowledged (R451). -/
def State.unacked (s : State) (dst : Nat) : List Kept := s.kept.filter (fun k => k.packet.dst == dst)

/-- Whether a packet more would overflow the reorder buffer of its destination (R452). -/
def State.streamFull (s : State) (dst : Nat) : Bool := decide (1024 ≤ (s.unacked dst).length)

/-- Whether what blocks an agent is over. -/
def State.blockOver (s : State) (part : Nat) (g : Group) : Block → Bool
  | .fault seq => (s.faultAnswer part seq).isSome
  | .migration p n => s.migrationOver part p n
  | .presence line => !s.lineAbsent g line
  | .hosts lines => lines.all (fun l => !s.backInvalidates.contains l)
  | .room package => !s.streamFull package

/-- Whether the host has answered FAIL to the fault of a block (R387). -/
def State.failedBlock (s : State) (part : Nat) : Block → Bool
  | .fault seq => s.faultAnswer part seq == some false
  | _ => false

/-- A value that an earlier producer owes arrives (R22). -/
def execLoadValueArrival (r : SliceRef) (k : Nat) (s : State) : Outcome :=
  match ((s.slice r).owed.drop k).head? with
  | some o => .next (s.modSlice r (fun sl => { (sl.deliver o) with owed := sl.owed.eraseIdx k }))
  | none => .next s

def execFeReissue (r : SliceRef) (lane : Nat) (s : State) : Outcome := s.unlessEarly r (s.reissue r lane)

/-- R170: the cycle limit, or the limit of lost races, of a full/empty wait. -/
def execRetryBudgetExhausted (r : SliceRef) (s : State) : Outcome :=
  match s.accessOf r with
  | none => .next s
  | some a =>
    let x := (s.slice r).retry
    if x.lost then s.unlessEarly r (.next (s.budgetTrap r a false))
    else if x.late then s.unlessEarly r (.next (s.budgetTrap r a true))
    else .next s

end Sys2Proof.Machine
end

