-- ==== Sys2Proof/Machine/Crypto.lean ====
section
/-! DEFINITION. SHA-512 and Ed25519 as the boot ROM and the firmware use them (R420, R424, R425). -/

namespace Sys2Proof.Machine

/-! ### SHA-512 -/

/-- Round constants of SHA-512, eight to a row: fractional parts of the cube roots of the first eighty primes. -/
def shaK0 : List Dword := [0x428A2F98D728AE22, 0x7137449123EF65CD, 0xB5C0FBCFEC4D3B2F, 0xE9B5DBA58189DBBC, 0x3956C25BF348B538, 0x59F111F1B605D019, 0x923F82A4AF194F9B, 0xAB1C5ED5DA6D8118]
def shaK1 : List Dword := [0xD807AA98A3030242, 0x12835B0145706FBE, 0x243185BE4EE4B28C, 0x550C7DC3D5FFB4E2, 0x72BE5D74F27B896F, 0x80DEB1FE3B1696B1, 0x9BDC06A725C71235, 0xC19BF174CF692694]
def shaK2 : List Dword := [0xE49B69C19EF14AD2, 0xEFBE4786384F25E3, 0xFC19DC68B8CD5B5, 0x240CA1CC77AC9C65, 0x2DE92C6F592B0275, 0x4A7484AA6EA6E483, 0x5CB0A9DCBD41FBD4, 0x76F988DA831153B5]
def shaK3 : List Dword := [0x983E5152EE66DFAB, 0xA831C66D2DB43210, 0xB00327C898FB213F, 0xBF597FC7BEEF0EE4, 0xC6E00BF33DA88FC2, 0xD5A79147930AA725, 0x6CA6351E003826F, 0x142929670A0E6E70]
def shaK4 : List Dword := [0x27B70A8546D22FFC, 0x2E1B21385C26C926, 0x4D2C6DFC5AC42AED, 0x53380D139D95B3DF, 0x650A73548BAF63DE, 0x766A0ABB3C77B2A8, 0x81C2C92E47EDAEE6, 0x92722C851482353B]
def shaK5 : List Dword := [0xA2BFE8A14CF10364, 0xA81A664BBC423001, 0xC24B8B70D0F89791, 0xC76C51A30654BE30, 0xD192E819D6EF5218, 0xD69906245565A910, 0xF40E35855771202A, 0x106AA07032BBD1B8]
def shaK6 : List Dword := [0x19A4C116B8D2D0C8, 0x1E376C085141AB53, 0x2748774CDF8EEB99, 0x34B0BCB5E19B48A8, 0x391C0CB3C5C95A63, 0x4ED8AA4AE3418ACB, 0x5B9CCA4F7763E373, 0x682E6FF3D6B2B8A3]
def shaK7 : List Dword := [0x748F82EE5DEFB2FC, 0x78A5636F43172F60, 0x84C87814A1F0AB72, 0x8CC702081A6439EC, 0x90BEFFFA23631E28, 0xA4506CEBDE82BDE9, 0xBEF9A3F7B2C67915, 0xC67178F2E372532B]
def shaK8 : List Dword := [0xCA273ECEEA26619C, 0xD186B8C721C0C207, 0xEADA7DD6CDE0EB1E, 0xF57D4F7FEE6ED178, 0x6F067AA72176FBA, 0xA637DC5A2C898A6, 0x113F9804BEF90DAE, 0x1B710B35131C471B]
def shaK9 : List Dword := [0x28DB77F523047D84, 0x32CAAB7B40C72493, 0x3C9EBE0A15C9BEBC, 0x431D67C49C100D4C, 0x4CC5D4BECB3E42B6, 0x597F299CFC657E2A, 0x5FCB6FAB3AD6FAEC, 0x6C44198C4A475817]

def shaK : List Dword := shaK0 ++ shaK1 ++ shaK2 ++ shaK3 ++ shaK4 ++ shaK5 ++ shaK6 ++ shaK7 ++ shaK8 ++ shaK9

/-- The initial hash: fractional parts of the square roots of the first eight primes. -/
def shaInit : List Dword := [0x6A09E667F3BCC908, 0xBB67AE8584CAA73B, 0x3C6EF372FE94F82B, 0xA54FF53A5F1D36F1, 0x510E527FADE682D1, 0x9B05688C2B3E6C1F, 0x1F83D9ABFB41BD6B, 0x5BE0CD19137E2179]

/-- The eight working words. -/
structure ShaState where
  a : Dword
  b : Dword
  c : Dword
  d : Dword
  e : Dword
  f : Dword
  g : Dword
  h : Dword
  deriving DecidableEq, Repr

def ShaState.words (x : ShaState) : List Dword := [x.a, x.b, x.c, x.d, x.e, x.f, x.g, x.h]
def ShaState.of (l : List Dword) : ShaState :=
  ⟨l.getD 0 0, l.getD 1 0, l.getD 2 0, l.getD 3 0, l.getD 4 0, l.getD 5 0, l.getD 6 0, l.getD 7 0⟩

/-- One round, with its constant and its schedule word. -/
def ShaState.round (x : ShaState) (k w : Dword) : ShaState :=
  let s1 := x.e.rotateRight 14 ^^^ x.e.rotateRight 18 ^^^ x.e.rotateRight 41
  let ch := (x.e &&& x.f) ^^^ (~~~x.e &&& x.g)
  let t1 := x.h + s1 + ch + k + w
  let s0 := x.a.rotateRight 28 ^^^ x.a.rotateRight 34 ^^^ x.a.rotateRight 39
  let maj := (x.a &&& x.b) ^^^ (x.a &&& x.c) ^^^ (x.b &&& x.c)
  ⟨t1 + (s0 + maj), x.a, x.b, x.c, x.d + t1, x.e, x.f, x.g⟩

/-- The next schedule word, from the last sixteen, oldest first. -/
def shaNext (l : List Dword) : Dword :=
  let x := l.getD 1 0
  let y := l.getD 14 0
  (y.rotateRight 19 ^^^ y.rotateRight 61 ^^^ (y >>> 6)) + l.getD 9 0 + (x.rotateRight 1 ^^^ x.rotateRight 8 ^^^ (x >>> 7)) + l.getD 0 0

/-- The rounds of one block: the constants left, and the last sixteen schedule words. -/
def shaRounds : List Dword → List Dword → ShaState → ShaState
  | [], _, x => x
  | k :: ks, w, x => shaRounds ks (w.drop 1 ++ [shaNext w]) (x.round k (w.headD 0))

/-- A big-endian 64-bit word of a block. -/
def shaWord (b : List Byte) (i : Nat) : Dword := BitVec.ofNat 64 (fromBytes ((b.drop (8 * i)).take 8).reverse)

/-- The hash after a block. -/
def shaBlock (h : List Dword) (b : List Byte) : List Dword :=
  ((shaRounds shaK ((List.range 16).map (shaWord b)) (ShaState.of h)).words.zip h).map (fun x => x.1 + x.2)

/-- The hash after `n` blocks. -/
def shaBlocks : Nat → List Byte → List Dword → List Dword
  | 0, _, h => h
  | n + 1, m, h => shaBlocks n (m.drop 128) (shaBlock h (m.take 128))

/-- SHA-512 of a message: 64 bytes. -/
def sha512 (m : List Byte) : List Byte :=
  let zeros := (128 - (m.length + 17) % 128) % 128
  let p := m ++ [0x80#8] ++ List.replicate zeros 0#8 ++ (toBytes 16 (8 * m.length)).reverse
  (shaBlocks (p.length / 128) p shaInit).flatMap (fun w => (toBytes 8 w.toNat).reverse)

/-! ### Ed25519 (RFC 8032) -/

/-- The field prime. -/
def edP : Nat := 2 ^ 255 - 19

/-- The order of the base point. -/
def edL : Nat := 2 ^ 252 + 27742317777372353535851937790883648493

/-- The bits of an exponent, highest first. -/
def bitsDown (n x : Nat) : List Bool := ((List.range n).map (fun i => x / 2 ^ i % 2 == 1)).reverse

/-- A power in the field. -/
def edPow (x e : Nat) : Nat := (bitsDown 256 e).foldl (fun a b => let q := a * a % edP; if b then q * x % edP else q) 1

def edInv (x : Nat) : Nat := edPow x (edP - 2)
def edSub (x y : Nat) : Nat := (x + edP - y % edP) % edP

/-- The curve constant. -/
def edD : Nat := edSub 0 (121665 * edInv 121666 % edP)

/-- A point in extended coordinates. -/
structure EdPoint where
  x : Nat
  y : Nat
  z : Nat
  t : Nat
  deriving DecidableEq, Repr

def EdPoint.zero : EdPoint := ⟨0, 1, 1, 0⟩

def EdPoint.add (p q : EdPoint) : EdPoint :=
  let a := edSub p.y p.x * edSub q.y q.x % edP
  let b := (p.y + p.x) * (q.y + q.x) % edP
  let c := 2 * p.t * q.t % edP * edD % edP
  let d := 2 * p.z * q.z % edP
  let e := edSub b a
  let f := edSub d c
  let g := (d + c) % edP
  let h := (b + a) % edP
  ⟨e * f % edP, g * h % edP, f * g % edP, e * h % edP⟩

def EdPoint.mul (p : EdPoint) (n : Nat) : EdPoint := (bitsDown 512 n).foldl (fun a b => let q := a.add a; if b then q.add p else q) EdPoint.zero

def EdPoint.same (p q : EdPoint) : Bool := p.x * q.z % edP == q.x * p.z % edP && p.y * q.z % edP == q.y * p.z % edP

/-- The `x` of a `y` with a sign bit, where the curve has one. -/
def edRecover (y sign : Nat) : Option Nat :=
  if edP ≤ y then none
  else
    let x2 := edSub (y * y) 1 * edInv ((edD * (y * y % edP) + 1) % edP) % edP
    if x2 = 0 then (if sign = 1 then none else some 0)
    else
      let r := edPow x2 ((edP + 3) / 8)
      let r := if r * r % edP = x2 then r else r * edPow 2 ((edP - 1) / 4) % edP
      if r * r % edP ≠ x2 then none else some (if r % 2 = sign then r else edP - r)

/-- A point from its 32 bytes. -/
def edDecode (bs : List Byte) : Option EdPoint :=
  let n := fromBytes bs
  let y := n % 2 ^ 255
  (edRecover y (n / 2 ^ 255)).map (fun x => ⟨x, y, 1, x * y % edP⟩)

/-- The 32 bytes of a point. -/
def EdPoint.encode (p : EdPoint) : List Byte :=
  let zi := edInv p.z
  toBytes 32 (p.y * zi % edP + p.x * zi % edP % 2 * 2 ^ 255)

/-- The base point. -/
def edBase : EdPoint :=
  let y := 4 * edInv 5 % edP
  let x := (edRecover y 0).getD 0
  ⟨x, y, 1, x * y % edP⟩

/-- The secret scalar and the nonce half of a seed. -/
def edSecret (seed : List Byte) : Nat × List Byte :=
  let h := sha512 seed
  let a := fromBytes (h.take 32)
  (a % 2 ^ 254 / 8 * 8 + 2 ^ 254, h.drop 32)

/-- The public key of a seed. -/
def edPublic (seed : List Byte) : List Byte := (edBase.mul (edSecret seed).1).encode

/-- The signature of a message, pure form. -/
def edSign (seed m : List Byte) : List Byte :=
  let s := edSecret seed
  let pub := edPublic seed
  let r := fromBytes (sha512 (s.2 ++ m)) % edL
  let rp := (edBase.mul r).encode
  let k := fromBytes (sha512 (rp ++ pub ++ m)) % edL
  rp ++ toBytes 32 ((r + k * s.1) % edL)

/-- Whether a signature of a message holds under a public key. -/
def edVerify (pub m sig : List Byte) : Bool :=
  match edDecode pub, edDecode (sig.take 32) with
  | some a, some r =>
    let s := fromBytes (sig.drop 32)
    let k := fromBytes (sha512 (sig.take 32 ++ pub ++ m)) % edL
    sig.length == 64 && pub.length == 32 && decide (s < edL) && (edBase.mul s).same (r.add (a.mul k))
  | _, _ => false

end Sys2Proof.Machine
end

