-- ==== Sys2Proof/Machine/LaneInt.lean ====
section
/-! DEFINITION. Lane instructions on integers and bits: moves, integer arithmetic, comparisons, logic, shifts, bit fields, addresses and byte permutation (R98 to R108). -/

namespace Sys2Proof.Machine

/-! ### Writing lanes -/

/-- Per-lane values of one or two words written to d in the effective lanes, and flags raised unless NF is set (R28, R96). -/
def writeLanes (words : Nat) (x : Lanes (Dword × Flags)) (c : Ctx) (s : State) : State :=
  let d := c.g.w.d.toNat
  let v := Lanes.ofFn (fun i => (x.get i).1)
  let s := s.modSlice c.ref (fun sl =>
    if words = 2 then sl.setPairs d c.eff v else sl.setLanes d c.eff (Lanes.ofFn (fun i => (v.get i).extractLsb' 0 32)))
  if c.g.w.nf then s else s.raiseFlags c.ref c.eff (Lanes.ofFn (fun i => (x.get i).2))

/-- An instruction that writes one result per lane, computed from the slice and the lane. -/
def laneResult (words : Nat) (f : Ctx → Slice → Nat → Dword × Flags) (c : Ctx) (s : State) : State × Fate :=
  (writeLanes words (Lanes.ofFn (f c (s.slice c.ref))) c s, .next)

/-- A mask register changed in the effective lanes, bit i to the outcome in lane i (R104). -/
def writeMaskLanes (k : Nat) (f : Nat → Bool) (c : Ctx) (s : State) : State :=
  s.modSlice c.ref (fun sl => sl.setMask k ((sl.mask k &&& ~~~c.eff) ||| (c.eff &&& Mask.ofFn f)))

/-! ### Operand forms of ITY and W64 (R94) -/

/-- The ITY field. -/
def ityOf (c : Ctx) : Nat := WForm.field c.g.w 51 50
/-- Whether ITY is signed: i32 and i64. -/
def itySigned (c : Ctx) : Bool := ityOf c % 2 == 0
/-- The width in bits of ITY. -/
def ityBits (c : Ctx) : Nat := 32 * ityWords (ityOf c)

/-- Operands a, b and c of an instruction of `words` words in a lane; b takes an XI prefix (R51). -/
def opA (words : Nat) (c : Ctx) (sl : Slice) (i : Nat) : Nat := (sl.operandN words c.g0 c.g.w.a.toNat i).toNat
def opB (words : Nat) (c : Ctx) (sl : Slice) (i : Nat) : Nat := (sl.operandB c.g.pfx words c.g0 c.g.w.b.toNat i).toNat
def opC (words : Nat) (c : Ctx) (sl : Slice) (i : Nat) : Nat := (sl.operandN words c.g0 c.g.w.c.toNat i).toNat

/-- A two-operand integer instruction under ITY: `f signed width a b`. -/
def laneInt (f : Bool → Nat → Nat → Nat → Nat) (c : Ctx) (s : State) : State × Fate :=
  let n := ityWords (ityOf c)
  laneResult n (fun c sl i => (dword (f (itySigned c) (ityBits c) (opA n c sl i) (opB n c sl i)), 0)) c s

/-- A two-operand instruction under W64: `f width a b`. -/
def laneLogic (f : Nat → Nat → Nat → Nat) (c : Ctx) (s : State) : State × Fate :=
  let n := w64 c.g.w
  laneResult n (fun c sl i => (dword (f (32 * n) (opA n c sl i) (opB n c sl i)), 0)) c s

/-- A shift under W64: the amount b is 32 bits (R105). -/
def laneShift (f : Nat → Nat → Nat → Nat) (c : Ctx) (s : State) : State × Fate :=
  let n := w64 c.g.w
  laneResult n (fun c sl i => (dword (f (32 * n) (opA n c sl i) (opB 1 c sl i)), 0)) c s

/-! ### Integer results (R100, R105 to R108) -/

def intAdd (_ : Bool) (w a b : Nat) : Nat := (a + b) % 2 ^ w
def intSub (_ : Bool) (w a b : Nat) : Nat := (a + 2 ^ w - b) % 2 ^ w
def intMul (_ : Bool) (w a b : Nat) : Nat := a * b % 2 ^ w
/-- The value an operand is read as. -/
def intValue (sg : Bool) (w x : Nat) : Int := if sg then signedOf w x else (x : Int)
def intMulHigh (sg : Bool) (w a b : Nat) : Nat := wrapInt w (intValue sg w a * intValue sg w b / (2 : Int) ^ w)
def intMin (sg : Bool) (w a b : Nat) : Nat := if intValue sg w a ≤ intValue sg w b then a else b
def intMax (sg : Bool) (w a b : Nat) : Nat := if intValue sg w b ≤ intValue sg w a then a else b
def intDiv (sg : Bool) (w a b : Nat) : Nat := wrapInt w ((intValue sg w a).tdiv (intValue sg w b))
def intRem (sg : Bool) (w a b : Nat) : Nat := wrapInt w ((intValue sg w a).tmod (intValue sg w b))
def intAbs (w a : Nat) : Nat := wrapInt w (Int.natAbs (signedOf w a))

def logicAnd (_ a b : Nat) : Nat := a &&& b
def logicOr (_ a b : Nat) : Nat := a ||| b
def logicXor (_ a b : Nat) : Nat := a ^^^ b
def shiftLeft (w a b : Nat) : Nat := if w ≤ b then 0 else a * 2 ^ b % 2 ^ w
def shiftRight (w a b : Nat) : Nat := if w ≤ b then 0 else a / 2 ^ b
def shiftArith (w a b : Nat) : Nat := wrapInt w (signedOf w a / (2 : Int) ^ (min b (w - 1)))
def rotateLeft (w a b : Nat) : Nat := (a * 2 ^ (b % w) ||| a / 2 ^ (w - b % w)) % 2 ^ w

/-- The effective length of a bit field (R106). -/
def fieldLen (w desc : Nat) : Nat := if w ≤ desc % 256 then 0 else min (desc / 256 % 256) (w - desc % 256)

def fieldExtract (sx : Bool) (w a desc : Nat) : Nat :=
  let n := fieldLen w desc
  let f := a / 2 ^ (desc % 256) % 2 ^ n
  if n = 0 then 0 else if sx then wrapInt w (signedOf n f) else f

def fieldInsert (w a b desc : Nat) : Nat :=
  let pos := desc % 256
  let k := (2 ^ fieldLen w desc - 1) * 2 ^ pos
  (a - (a &&& k)) ||| (b * 2 ^ pos &&& k)

/-- The number of 1 bits among the low `w`. -/
def onesIn (w a : Nat) : Nat := ((List.range w).filter (bit a)).length
def leadingZeros (w a : Nat) : Nat := w - bitLen a
def reverseBits (w a : Nat) : Nat := ((List.range w).filter (bit a)).foldl (fun r j => r + 2 ^ (w - 1 - j)) 0

/-- Byte `j` of the result of BPERM, after the byte before it (R108). -/
def permByte (src sel j prev : Nat) : Nat :=
  let code := sel / 2 ^ (4 * j) % 16
  if code < 8 then src / 2 ^ (8 * code) % 256
  else
    match code with
    | 9 => 0xFF
    | 0xA => if j ≠ 0 ∧ 128 ≤ prev then 0xFF else 0
    | 0xB => if j = 0 then 0 else prev
    | _ => 0

def bytePermute (a b sel : Nat) : Nat :=
  let src := a + 2 ^ 32 * b
  let b0 := permByte src sel 0 0
  let b1 := permByte src sel 1 b0
  let b2 := permByte src sel 2 b1
  let b3 := permByte src sel 3 b2
  b0 + 2 ^ 8 * b1 + 2 ^ 16 * b2 + 2 ^ 24 * b3

/-! ### Moves (R98, R99, R414) -/

/-- NOP: nothing but the advance. -/
def actNop (_ : Ctx) (s : State) : State × Fate := (s, .next)

/-- The poison mark of word `k` of an operand in a lane. -/
def carried (sl : Slice) (spec k i : Nat) : Option Dword := if spec < 192 then sl.poisonOf (spec + k) i else none

/-- Values of one or two words and their marks, word by word, written to d (R414). -/
def moveLanes (words : Nat) (from_ : Slice → Nat → Nat) (c : Ctx) (s : State) : State × Fate :=
  let sl := s.slice c.ref
  let d := c.g.w.d.toNat
  let val (k i : Nat) : Word := (sl.operandN words c.g0 (from_ sl i) i).extractLsb' (32 * k) 32
  let put (x : Slice) (k : Nat) : Slice :=
    x.setLanesP (d + k) c.eff (Lanes.ofFn (val k)) (Lanes.ofFn (fun i => carried sl (from_ sl i) k i))
  (s.modSlice c.ref (fun x => (List.range words).foldl put x), .next)

def actMov (c : Ctx) (s : State) : State × Fate := moveLanes (w64 c.g.w) (fun _ _ => c.g.w.a.toNat) c s
def actSel (c : Ctx) (s : State) : State × Fate :=
  moveLanes (w64 c.g.w) (fun sl i => if (sl.mask (WForm.field c.g.w 53 51)).getLsbD i then c.g.w.a.toNat else c.g.w.b.toNat) c s

/-! ### Forms of their own -/

/-- IMAD: the low bits of a product and a sum (R100). -/
def actImad (c : Ctx) (s : State) : State × Fate :=
  let n := ityWords (ityOf c)
  laneResult n (fun c sl i => (dword ((opA n c sl i * opB n c sl i + opC n c sl i) % 2 ^ (32 * n)), 0)) c s

/-- IDIV and IREM: a zero divisor in any effective lane traps, and no lane is written (R101). -/
def actDivide (f : Bool → Nat → Nat → Nat → Nat) (c : Ctx) (s : State) : State × Fate :=
  let n := ityWords (ityOf c)
  let sl := s.slice c.ref
  let zero := c.eff &&& Mask.ofFn (fun i => opB n c sl i == 0)
  if zero ≠ 0 then (s, .trap ⟨0x0D, c.g.addr, zero, 0⟩) else laneInt f c s

def actIabs (c : Ctx) (s : State) : State × Fate :=
  let n := ityWords (ityOf c)
  laneResult n (fun c sl i => (dword (intAbs (32 * n) (opA n c sl i)), 0)) c s

/-- The outcome combined into a mask bit under CMB (R104). -/
def combineBit (cmb : Nat) (old p : Bool) : Bool :=
  match cmb with
  | 0 => p
  | 1 => old && p
  | _ => old || p

/-- The outcome of a comparison code on an order (R104). -/
def condOn (cond : Nat) (o : Ordering) : Bool :=
  match cond with
  | 0 => o == .eq
  | 1 => o != .eq
  | 2 => o == .lt
  | 3 => o != .gt
  | 4 => o == .gt
  | _ => o != .lt

def actIcmp (c : Ctx) (s : State) : State × Fate :=
  let n := ityWords (ityOf c)
  let sl := s.slice c.ref
  let k := WForm.field c.g.w 57 55
  let v (x : Nat) : Int := intValue (itySigned c) (32 * n) x
  let p (i : Nat) : Bool := condOn (WForm.field c.g.w 54 52) (compare (v (opA n c sl i)) (v (opB n c sl i)))
  (writeMaskLanes k (fun i => combineBit (WForm.field c.g.w 59 58) ((sl.mask k).getLsbD i) (p i)) c s, .next)

def actNot (c : Ctx) (s : State) : State × Fate :=
  let n := w64 c.g.w
  laneResult n (fun c sl i => (dword (2 ^ (32 * n) - 1 - opA n c sl i), 0)) c s

def actBfx (c : Ctx) (s : State) : State × Fate := laneShift (fieldExtract (WForm.field c.g.w 51 51 == 1)) c s
def actBfi (c : Ctx) (s : State) : State × Fate :=
  let n := w64 c.g.w
  laneResult n (fun c sl i => (dword (fieldInsert (32 * n) (opA n c sl i) (opB n c sl i) (opC 1 c sl i)), 0)) c s

/-- A count of a source of one or two words, written as one word (R107). -/
def actCount (f : Nat → Nat → Nat) (c : Ctx) (s : State) : State × Fate :=
  let n := w64 c.g.w
  laneResult 1 (fun c sl i => (dword (f (32 * n) (opA n c sl i)), 0)) c s

def actBrev (c : Ctx) (s : State) : State × Fate :=
  let n := w64 c.g.w
  laneResult n (fun c sl i => (dword (reverseBits (32 * n) (opA n c sl i)), 0)) c s

/-- LEA: base plus scaled index (R103). -/
def actLea (c : Ctx) (s : State) : State × Fate :=
  let idx (x : Nat) : Dword := if WForm.field c.g.w 53 53 = 1 then sext64 32 x else dword x
  laneResult 2 (fun c sl i => (dword (opA 2 c sl i) + idx (opB 1 c sl i) <<< WForm.field c.g.w 52 50, 0)) c s

def actBperm (c : Ctx) (s : State) : State × Fate :=
  laneResult 1 (fun c sl i => (dword (bytePermute (opA 1 c sl i) (opB 1 c sl i) (opC 1 c sl i)), 0)) c s

/-- IADDX: add or subtract with the carry in a mask register (R102). -/
def actIaddx (c : Ctx) (s : State) : State × Fate :=
  let sl := s.slice c.ref
  let k := WForm.field c.g.w 52 50
  let sub := WForm.field c.g.w 53 53 == 1
  let cin (i : Nat) : Nat := if k = 0 ∨ WForm.field c.g.w 54 54 = 1 then 0 else if (sl.mask k).getLsbD i then 1 else 0
  let t (i : Nat) : Int :=
    if sub then (opA 1 c sl i : Int) - opB 1 c sl i - cin i else (opA 1 c sl i : Int) + opB 1 c sl i + cin i
  let x := laneResult 1 (fun _ _ i => (dword (wrapInt 32 (t i)), 0)) c s
  (writeMaskLanes k (fun i => if sub then decide (t i < 0) else decide ((2 : Int) ^ 32 ≤ t i)) c x.1, .next)

/-! ### Random numbers (R121, R122) -/

/-- One step of the xorshift state. -/
def rngStep (x : Dword) : Dword :=
  let x := if x = 0 then 0x9E3779B97F4A7C15 else x
  let x := x ^^^ (x <<< 13)
  let x := x ^^^ (x >>> 7)
  x ^^^ (x <<< 17)

/-- The mixing function of RSPLIT. -/
def mix64 (z : Dword) : Dword :=
  let z := (z ^^^ (z >>> 30)) * 0xBF58476D1CE4E5B9
  let z := (z ^^^ (z >>> 27)) * 0x94D049BB133111EB
  z ^^^ (z >>> 31)

/-- The random-number state of the effective lanes replaced. -/
def setRng (c : Ctx) (f : Slice → Nat → Dword) (s : State) : State :=
  s.modSlice c.ref (fun sl => { sl with rng := Lanes.merge c.eff sl.rng (Lanes.ofFn (f sl)) })

def actRsplit (c : Ctx) (s : State) : State × Fate :=
  let grp := s.group c.ref.gid
  let gl (i : Nat) : Dword := dword (512 * grp.index + 4 * c.ref.idx + i)
  (setRng c (fun sl i => mix64 (dword (opA 2 c sl i) + 0x9E3779B97F4A7C15 * (gl i + 1))) s, .next)

def actRnext (c : Ctx) (s : State) : State × Fate :=
  let s := setRng c (fun sl i => rngStep (sl.rng.get i)) s
  if WForm.field c.g.w 50 50 = 1 then laneResult 2 (fun _ sl i => (sl.rng.get i, 0)) c s
  else laneResult 1 (fun _ sl i => (sl.rng.get i >>> 32, 0)) c s

def actRunif (c : Ctx) (s : State) : State × Fate :=
  let s := setRng c (fun sl i => rngStep (sl.rng.get i)) s
  laneResult 1 (fun _ sl i => (dword ((fmtF32.round .rne (.fin false ((sl.rng.get i).toNat / 2 ^ 40) (-24))).bits), 0)) c s

/-! ### Meanings -/

def execNopC (p : List Prefix) (w : CForm) (s : State) : Outcome := issueEach 0x00 false p (expand w) actNop s
def execNop (p : List Prefix) (w : WForm) (s : State) : Outcome := issueEach 0x00 true p w actNop s
def execMovC (p : List Prefix) (w : CForm) (s : State) : Outcome := issueEach 0x01 false p (expand w) actMov s
def execMov (p : List Prefix) (w : WForm) (s : State) : Outcome := issueEach 0x01 true p w actMov s
def execSel (p : List Prefix) (w : WForm) (s : State) : Outcome := issueEach 0x02 true p w actSel s
def execIaddC (p : List Prefix) (w : CForm) (s : State) : Outcome := issueEach 0x03 false p (expand w) (laneInt intAdd) s
def execIadd (p : List Prefix) (w : WForm) (s : State) : Outcome := issueEach 0x03 true p w (laneInt intAdd) s
def execIsubC (p : List Prefix) (w : CForm) (s : State) : Outcome := issueEach 0x04 false p (expand w) (laneInt intSub) s
def execIsub (p : List Prefix) (w : WForm) (s : State) : Outcome := issueEach 0x04 true p w (laneInt intSub) s
def execImulC (p : List Prefix) (w : CForm) (s : State) : Outcome := issueEach 0x05 false p (expand w) (laneInt intMul) s
def execImul (p : List Prefix) (w : WForm) (s : State) : Outcome := issueEach 0x05 true p w (laneInt intMul) s
def execImulh (p : List Prefix) (w : WForm) (s : State) : Outcome := issueEach 0x06 true p w (laneInt intMulHigh) s
def execImad (p : List Prefix) (w : WForm) (s : State) : Outcome := issueEach 0x07 true p w actImad s
def execIdiv (p : List Prefix) (w : WForm) (s : State) : Outcome := issueEach 0x08 true p w (actDivide intDiv) s
def execIrem (p : List Prefix) (w : WForm) (s : State) : Outcome := issueEach 0x09 true p w (actDivide intRem) s
def execIminC (p : List Prefix) (w : CForm) (s : State) : Outcome := issueEach 0x0A false p (expand w) (laneInt intMin) s
def execImin (p : List Prefix) (w : WForm) (s : State) : Outcome := issueEach 0x0A true p w (laneInt intMin) s
def execImaxC (p : List Prefix) (w : CForm) (s : State) : Outcome := issueEach 0x0B false p (expand w) (laneInt intMax) s
def execImax (p : List Prefix) (w : WForm) (s : State) : Outcome := issueEach 0x0B true p w (laneInt intMax) s
def execIabs (p : List Prefix) (w : WForm) (s : State) : Outcome := issueEach 0x0C true p w actIabs s
def execIcmp (p : List Prefix) (w : WForm) (s : State) : Outcome := issueEach 0x0D true p w actIcmp s
def execAndC (p : List Prefix) (w : CForm) (s : State) : Outcome := issueEach 0x0E false p (expand w) (laneLogic logicAnd) s
def execAnd (p : List Prefix) (w : WForm) (s : State) : Outcome := issueEach 0x0E true p w (laneLogic logicAnd) s
def execOrC (p : List Prefix) (w : CForm) (s : State) : Outcome := issueEach 0x0F false p (expand w) (laneLogic logicOr) s
def execOr (p : List Prefix) (w : WForm) (s : State) : Outcome := issueEach 0x0F true p w (laneLogic logicOr) s
def execXorC (p : List Prefix) (w : CForm) (s : State) : Outcome := issueEach 0x10 false p (expand w) (laneLogic logicXor) s
def execXor (p : List Prefix) (w : WForm) (s : State) : Outcome := issueEach 0x10 true p w (laneLogic logicXor) s
def execNotC (p : List Prefix) (w : CForm) (s : State) : Outcome := issueEach 0x11 false p (expand w) actNot s
def execNot (p : List Prefix) (w : WForm) (s : State) : Outcome := issueEach 0x11 true p w actNot s
def execShlC (p : List Prefix) (w : CForm) (s : State) : Outcome := issueEach 0x12 false p (expand w) (laneShift shiftLeft) s
def execShl (p : List Prefix) (w : WForm) (s : State) : Outcome := issueEach 0x12 true p w (laneShift shiftLeft) s
def execShrC (p : List Prefix) (w : CForm) (s : State) : Outcome := issueEach 0x13 false p (expand w) (laneShift shiftRight) s
def execShr (p : List Prefix) (w : WForm) (s : State) : Outcome := issueEach 0x13 true p w (laneShift shiftRight) s
def execSarC (p : List Prefix) (w : CForm) (s : State) : Outcome := issueEach 0x14 false p (expand w) (laneShift shiftArith) s
def execSar (p : List Prefix) (w : WForm) (s : State) : Outcome := issueEach 0x14 true p w (laneShift shiftArith) s
def execRot (p : List Prefix) (w : WForm) (s : State) : Outcome := issueEach 0x15 true p w (laneShift rotateLeft) s
def execBfx (p : List Prefix) (w : WForm) (s : State) : Outcome := issueEach 0x16 true p w actBfx s
def execBfi (p : List Prefix) (w : WForm) (s : State) : Outcome := issueEach 0x17 true p w actBfi s
def execPopc (p : List Prefix) (w : WForm) (s : State) : Outcome := issueEach 0x18 true p w (actCount onesIn) s
def execClz (p : List Prefix) (w : WForm) (s : State) : Outcome := issueEach 0x19 true p w (actCount leadingZeros) s
def execBrev (p : List Prefix) (w : WForm) (s : State) : Outcome := issueEach 0x1A true p w actBrev s
def execLea (p : List Prefix) (w : WForm) (s : State) : Outcome := issueEach 0x1B true p w actLea s
def execBperm (p : List Prefix) (w : WForm) (s : State) : Outcome := issueEach 0x1F true p w actBperm s
def execRsplit (p : List Prefix) (w : WForm) (s : State) : Outcome := issueEach 0x39 true p w actRsplit s
def execRnext (p : List Prefix) (w : WForm) (s : State) : Outcome := issueEach 0x3A true p w actRnext s
def execRunif (p : List Prefix) (w : WForm) (s : State) : Outcome := issueEach 0x3B true p w actRunif s
def execIaddx (p : List Prefix) (w : WForm) (s : State) : Outcome := issueEach 0x3C true p w actIaddx s

end Sys2Proof.Machine
end

