-- ==== Sys2Proof/Machine/Control.lean ====
section
/-! DEFINITION. Control of a slice: branches, the mask stack, gangs, special registers, the format register, traps, regions, leases, and illegal groups (R27 to R38, R123 to R149, R191 to R193). -/

namespace Sys2Proof.Machine

/-! ### Targets (R123, R125, R146) -/

/-- The target of a relative transfer (R123). -/
def relTarget (c : Ctx) : Dword :=
  let t := c.g.w.b.toNat + 2 ^ 8 * c.g.w.c.toNat + 2 ^ 16 * WForm.field c.g.w 63 58
  c.g.addr + 4 * sext64 22 t

/-- A taken transfer: a pending cancel is taken when the target is at or below the group's own address (R146). -/
def takeBranch (c : Ctx) (s : State) (target : Dword) : Fate :=
  if target ≤ c.g.addr then
    match s.pending c.ref c.eff with
    | some t => .trap t
    | none => .goto target
  else .goto target

/-- The misaligned trap of a control transfer (R125). -/
def checkTarget (c : Ctx) (t : Dword) (f : Fate) : Fate := if t.extractLsb' 0 2 ≠ 0 then .trap ⟨0x07, t, c.eff, 0⟩ else f

/-- The fate of a transfer whose effects besides the PC are carried out only when it is taken. -/
def transfer (c : Ctx) (s : State) (t : Dword) (effect : State → State) : State × Fate :=
  let f := checkTarget c t (takeBranch c s t)
  match f with
  | .goto _ => (effect s, f)
  | _ => (s, f)

/-- A 64-bit uniform operand in an `s` pair. -/
def pairAt (sl : Slice) (spec : Nat) : Dword := joinWords (sl.reg spec 0) (sl.reg (spec + 1) 0)

def actBra (c : Ctx) (s : State) : State × Fate := (s, takeBranch c s (relTarget c))
def actBrx (c : Ctx) (s : State) : State × Fate := transfer c s (pairAt (s.slice c.ref) c.g.w.a.toNat) id

/-- CALL writes its link only when it transfers (R125). -/
def actCall (c : Ctx) (s : State) : State × Fate :=
  let t := if WForm.field c.g.w 50 50 = 1 then pairAt (s.slice c.ref) c.g.w.a.toNat else relTarget c
  transfer c s t (fun s => s.modSlice c.ref (fun sl => sl.setPairs c.g.w.d.toNat c.eff (Lanes.all (c.g.addr + 8))))

/-- RET; `ret.x` leaves the trap handler (R125). -/
def actRet (c : Ctx) (s : State) : State × Fate :=
  let sl := s.slice c.ref
  if WForm.field c.g.w 50 50 = 1 then transfer c s sl.trap.xpc (fun s => s.modSlice c.ref Slice.returnFromTrap)
  else transfer c s (pairAt sl c.g.w.a.toNat) id

/-- The test of CBR on lane sets (R126). -/
def cbrTaken (cond p eff : Nat) : Bool :=
  match cond with
  | 0 => p != 0
  | 1 => p == eff
  | _ => p == 0

def actCbr (c : Ctx) (s : State) : State × Fate :=
  let k := WForm.field c.g.w 55 53
  let p := c.eff &&& (s.slice c.ref).mask k
  (s, if cbrTaken (WForm.field c.g.w 51 50) p.toNat c.eff.toNat then takeBranch c s (relTarget c) else .next)

/-- CBR over a gang: one outcome for every slice of the subgang (R126). -/
def runCbrGang : Run := fun cs s =>
  let set (f : Ctx → Mask) : Nat := (cs.map (fun c => (f c).toNat * 2 ^ c.g0)).foldl (· + ·) 0
  match cs with
  | [] => ⟨s, [], .next⟩
  | c :: _ =>
    let taken := cbrTaken (WForm.field c.g.w 51 50) (set (fun c => c.eff &&& (s.slice c.ref).mask (WForm.field c.g.w 55 53))) (set (fun c => c.eff))
    if taken then
      let f := takeBranch c s (relTarget c)
      ⟨s, cs.map (fun c => (c.ref.idx, takeBranch c s (relTarget c))), match f with | .goto t => .goto t | _ => .next⟩
    else ⟨s, cs.map (fun c => (c.ref.idx, .next)), .next⟩

/-- LOOP (R127). -/
def actLoop (c : Ctx) (s : State) : State × Fate :=
  let n := (s.slice c.ref).reg c.g.w.a.toNat 0 - 1
  let dec (s : State) : State := s.modSlice c.ref (fun sl => sl.setLane c.g.w.a.toNat 0 n none)
  if n = 0 then (dec s, .next)
  else
    match takeBranch c s (relTarget c) with
    | .goto t => (dec s, .goto t)
    | f => (s, f)

/-! ### Divergence (R128, R129, R131) -/

/-- SPLIT (R128). -/
def actSplit (c : Ctx) (s : State) : State × Fate :=
  let sl := s.slice c.ref
  let m := sl.mask (WForm.field c.g.w 52 50)
  let pa := sl.active &&& m
  let pb := sl.active &&& ~~~m
  let lother := c.g.addr + 4 * sext64 16 (c.g.w.a.toNat * 2 ^ 8 + c.g.w.d.toNat)
  let both := pa ≠ 0 ∧ pb ≠ 0
  if 48 < sl.depth + (if both then 2 else 1) then (s, .trap ⟨0x0A, 0, c.eff, 1⟩)
  else
    let s := s.modSlice c.ref (fun sl =>
      let x := sl.push ⟨relTarget c, sl.active, sl.fmt⟩
      let x := if both then x.push ⟨lother, pb, sl.fmt⟩ else x
      { x with active := if pa ≠ 0 then pa else pb })
    (s, if pa ≠ 0 then .next else .goto lother)

/-- JOIN below the depth of an open transaction is misuse (R324). -/
def ownJoin : Own := fun s c =>
  let sl := s.slice c.ref
  match sl.tx with
  | some t => if sl.depth ≠ 0 ∧ sl.depth ≤ t.depth then some (misuseTx s c 5) else none
  | none => none

/-- JOIN (R129). -/
def actJoin (c : Ctx) (s : State) : State × Fate :=
  match (s.slice c.ref).pop with
  | none => (s, .trap ⟨0x0A, 0, c.eff, 2⟩)
  | some (e, sl) => (s.modSlice c.ref (fun _ => { sl with active := e.mask, fmt := e.fmt }), .goto e.pc)

/-- Entries popped until one has lanes (R131): the slice there, or none. -/
def popLive : Nat → Slice → Option (StackEntry × Slice)
  | 0, _ => none
  | n + 1, sl =>
    match sl.pop with
    | none => none
    | some (e, sl) => if e.mask ≠ 0 then some (e, sl) else popLive n sl

/-- EXIT (R131). -/
def actExit (c : Ctx) (s : State) : State × Fate :=
  let sl := (s.slice c.ref).dropLanes c.eff
  let left := sl.active &&& ~~~c.eff
  if left ≠ 0 then (s.modSlice c.ref (fun _ => { sl with active := left }), .next)
  else
    match popLive 49 sl with
    | some (e, sl) => (s.modSlice c.ref (fun _ => { sl with active := e.mask, fmt := e.fmt }), .goto e.pc)
    | none => (s.modSlice c.ref (fun _ => sl.finish), .moved)

/-! ### Gangs (R134 to R136, R140) -/

def actPart (_ : Ctx) (s : State) : State × Fate := (s, .alone)

/-- REGANG: at once on an unparted gang or a gang of one slice, else a wait (R135). -/
def actRegang (c : Ctx) (s : State) : State × Fate :=
  let g := s.group c.ref.gid
  if g.gangSize = 1 ∨ (g.gang (c.ref.idx / g.gangSize)).parted = false then (s, .next) else (s, .stay (.regang c.eff))

/-- The lowest lane of a mask. -/
def lowestLane (m : Mask) : Nat := m.lanes.head?.getD 0

/-- ELECT of one slice (R136). -/
def actElect (c : Ctx) (s : State) : State × Fate :=
  let i := lowestLane c.eff
  (s.modSlice c.ref (fun sl => (sl.setMask (WForm.field c.g.w 52 50) (Mask.one i)).setLanes c.g.w.d.toNat c.eff (Lanes.all (word i))), .next)

/-- ELECT over a gang (R136). -/
def runElectGang : Run := fun cs s =>
  match cs with
  | [] => ⟨s, [], .next⟩
  | c0 :: _ =>
    let l := c0.g0 + lowestLane c0.eff
    let put (c : Ctx) (s : State) : State :=
      s.modSlice c.ref (fun sl =>
        (sl.setMask (WForm.field c.g.w 52 50) (if c.ref = c0.ref then Mask.one (l % 4) else 0)).setLanes c.g.w.d.toNat c.eff (Lanes.all (word l)))
    ⟨cs.foldl (fun s c => put c s) s, cs.map (fun c => (c.ref.idx, .next)), .next⟩

/-- YIELD (R140). -/
def actYield (c : Ctx) (s : State) : State × Fate :=
  let g := s.group c.ref.gid
  (s.endIssuerRun ⟨c.ref.gid, c.ref.idx / g.gangSize, (s.slice c.ref).sub⟩, .next)

/-! ### Traps and regions (R144, R147) -/

/-- TRAP and BKPT (R144). -/
def actTrap (cause : Nat) (c : Ctx) (s : State) : State × Fate := (s, .trap ⟨cause, 0, c.eff, c.g.w.mod.zeroExtend 32⟩)

/-- REGION (R147). -/
def actRegion (c : Ctx) (s : State) : State × Fate := (s.modSlice c.ref (fun sl => { sl with regpc := (c.g.addr + 8) &&& ~~~1 }), .next)

/-! ### Special registers (R37, R38, R138) -/

/-- `MNSTAT` (R282). -/
def Mint.stat (m : Mint) : Word :=
  word ((if m.asyf then 2 ^ 31 else 0) + (if m.physical then 2 ^ 30 else 0) + (if m.clearing then 2 ^ 29 else 0)
    + (if m.current.isSome || !m.queue.isEmpty then 2 ^ 28 else 0) + (if m.cpv then 2 ^ 27 else 0) + (if m.satf then 2 ^ 26 else 0)
    + min 4095 m.stalls * 2 ^ 8 + m.last % 256)

/-- `FERETRY` (R170). -/
def Retry.read (r : Retry) : Word := word (r.used % 2 ^ 11 * 2 ^ 21 + r.cexp * 2 ^ 16 + r.wlim)

/-- A special register as read in a lane (R37). -/
def srValue (s : State) (r : SliceRef) (i : Nat) (index : Nat) : Dword :=
  let g := s.group r.gid
  let sl := s.slice r
  let k := s.core g.coreRef
  let d := s.die g.die
  let gang := g.gang (r.idx / g.gangSize)
  let rec_ := s.recordOf g.uid
  match index with
  | 0x00 => dword i
  | 0x01 => dword r.idx
  | 0x02 => dword (g.gangSize * 2 ^ 16 + r.idx / g.gangSize * 2 ^ 8 + r.idx % g.gangSize)
  | 0x03 => dword g.index
  | 0x04 => dword g.core
  | 0x05 => dword (g.core / 8)
  | 0x06 => dword g.die
  | 0x07 => dword g.part
  | 0x08 => dword ((s.unit? g.uid).map (fun u => u.unitId) |>.getD 0)
  | 0x09 => rec_.frame
  | 0x0A => rec_.completion
  | 0x0B => rec_.arg
  | 0x10 => (readXf sl g.gsat i).zeroExtend 64
  | 0x11 => sl.fmt.zeroExtend 64
  | 0x12 => ((sl.rng.get i).extractLsb' 0 32).zeroExtend 64
  | 0x13 => ((sl.rng.get i).extractLsb' 32 32).zeroExtend 64
  | 0x14 => dword gang.declared
  | 0x15 => dword (measuredLease k gang)
  | 0x16 => dword gang.victims
  | 0x18 => dword k.clock
  | 0x19 => d.time
  | 0x1A => match sl.latch with | some l => l.1 | none => d.tofs
  | 0x1B => match sl.latch with | some l => l.2 | none => d.trate
  | 0x20 => sl.trap.xpc
  | 0x21 => sl.trap.xcause.zeroExtend 64
  | 0x22 => sl.trap.xaddr
  | 0x23 => sl.trap.xmask.zeroExtend 64
  | 0x24 => sl.trap.xinfo.zeroExtend 64
  | 0x28 => sl.txstat.zeroExtend 64
  | 0x29 => k.matrix.confl.zeroExtend 64
  | 0x2A => k.mint.stat.zeroExtend 64
  | 0x2B => sl.retry.read.zeroExtend 64
  | 0x2C => sl.regpc
  | _ => 0

def srIndex (c : Ctx) : Nat := WForm.field c.g.w 55 50

/-- SRD; a read of `TIME` latches the die's offset and rate (R138, R405). -/
def actSrd (c : Ctx) (s : State) : State × Fate :=
  let n := srIndex c
  let x := Lanes.ofFn (fun i => (srValue s c.ref i n, (0 : Flags)))
  let d := s.die (s.group c.ref.gid).die
  let s := if n = 0x19 then s.modSlice c.ref (fun sl => { sl with latch := some (d.tofs, d.trate) }) else s
  (writeLanes (srWords n) x c s, .next)

/-- The registers that `SWR` may write (R37). -/
def srWritable (n : Nat) : Bool := [0x10, 0x11, 0x12, 0x13, 0x20, 0x21, 0x22, 0x23, 0x24, 0x2B].contains n

/-- SWR of a read-only register takes the protection trap (R38). -/
def ownSwr : Own := fun _ c => if srWritable (srIndex c) then none else some (.trap ⟨0x09, c.g.addr, c.eff, 12⟩)

/-- The highest active lane of a mask. -/
def highestLane (m : Mask) : Nat := m.lanes.getLast?.getD 0

/-- SWR (R28, R30, R38, R138, R142, R170). -/
def actSwr (c : Ctx) (s : State) : State × Fate :=
  let n := srIndex c
  let sl := s.slice c.ref
  let x (i : Nat) : Dword := sl.operandN (srWords n) c.g0 c.g.w.a.toNat i
  let v := x (highestLane c.eff)
  let lo := v.extractLsb' 0 32
  let bad : Fate := .trap ⟨0x02, c.g.addr, c.eff, infoRuntime⟩
  let put (f : Slice → Slice) : State × Fate := (s.modSlice c.ref f, .next)
  match n with
  | 0x10 =>
    let s := s.modSlice c.ref (fun sl => { sl with xf := Lanes.merge c.eff sl.xf (Lanes.ofFn (fun i => (x i).extractLsb' 0 6)) })
    (if c.eff.lanes.any (fun i => (x i).getLsbD 8) then s.modGroup c.ref.gid (fun g => { g with gsat := false }) else s, .next)
  | 0x11 => if 5 ≤ lo.toNat % 8 then (s, bad) else put (fun sl => { sl with fmt := lo.extractLsb' 0 10 })
  | 0x12 => put (fun sl => { sl with rng := Lanes.merge c.eff sl.rng (Lanes.ofFn (fun i => (sl.rng.get i).extractLsb' 32 32 ++ (x i).extractLsb' 0 32)) })
  | 0x13 => put (fun sl => { sl with rng := Lanes.merge c.eff sl.rng (Lanes.ofFn (fun i => (x i).extractLsb' 0 32 ++ (sl.rng.get i).extractLsb' 0 32)) })
  | 0x20 => put (fun sl => { sl with trap := { sl.trap with xpc := v } })
  | 0x21 => put (fun sl => { sl with trap := { sl.trap with xcause := lo &&& 0x800000FF } })
  | 0x22 => put (fun sl => { sl with trap := { sl.trap with xaddr := v } })
  | 0x23 => put (fun sl => { sl with trap := { sl.trap with xmask := lo &&& 0xF } })
  | 0x24 => put (fun sl => { sl with trap := { sl.trap with xinfo := lo } })
  | 0x2B =>
    if bits lo.toNat 20 16 < 8 then (s, bad)
    else put (fun sl => { sl with retry := { sl.retry with cexp := bits lo.toNat 20 16, wlim := bits lo.toNat 10 0 } })
  | _ => (s, .next)

/-- SETFMT (R139). -/
def actSetfmt (c : Ctx) (s : State) : State × Fate :=
  let f := WForm.field c.g.w
  (s.modSlice c.ref (fun sl =>
    let rm := if f 60 60 = 1 then f 52 50 else sl.fmt.toNat % 8
    let sat := if f 61 61 = 1 then f 53 53 else bits sl.fmt.toNat 3 3
    let arm := if f 62 62 = 1 then f 59 54 else bits sl.fmt.toNat 9 4
    { sl with fmt := BitVec.ofNat 10 (rm + 8 * sat + 16 * arm) }), .next)

/-! ### Leases (R191 to R193, R324) -/

/-- `lease.req` while a participating slice has an open transaction is misuse in every participating slice (R324). -/
def ownLease : Own := fun s c =>
  if WForm.field c.g.w 63 63 = 0 then none
  else
    let g := s.group c.ref.gid
    let mates := (g.subgang (c.ref.idx / g.gangSize) (s.slice c.ref).sub).filter (fun i => effOf (g.slice i) c.g != 0)
    if mates.any (fun i => (g.slice i).tx.isSome) then some (misuseTx s c 4) else none

/-- LEASE, once per subgang; the lowest slice supplies the value (R192). -/
def runLease : Run := fun cs s =>
  match cs with
  | [] => ⟨s, [], .next⟩
  | c :: _ =>
    let req := WForm.field c.g.w 63 63 == 1
    let n := if WForm.field c.g.w 50 50 = 1 then WForm.field c.g.w 62 51 else ((s.slice c.ref).operand c.g0 c.g.w.a.toNat (lowestLane c.eff)).toNat
    let k := c.ref.idx / (s.group c.ref.gid).gangSize
    if 2048 < n then ⟨s, cs.map (fun c => (c.ref.idx, .trap ⟨0x1D, 0, c.eff, word n⟩)), .next⟩
    else if req then
      let s := s.modGang c.ref.gid k (fun (x : Gang) => { x with declared := n, active := false, heldWindows := 0 })
      let s := cs.foldl (fun s c => s.modSlice c.ref (fun sl => { sl with pc := c.g.next })) s
      ⟨s, cs.map (fun c => (c.ref.idx, .stay .leaseReq)), .next⟩
    else ⟨s.modGang c.ref.gid k (fun (x : Gang) => { x with declared := n }), cs.map (fun c => (c.ref.idx, .next)), .next⟩

/-- The value of LEASEQ for a gang (R193). -/
def leaseqValue (s : State) (c : Ctx) (a : Nat) : Word :=
  let g := s.group c.ref.gid
  let k := s.core g.coreRef
  let gs := s.gangsOf g.coreRef
  let i := c.ref.idx / g.gangSize
  let me := g.gang i
  match WForm.field c.g.w 51 50 with
  | 0 => BitVec.ofInt 32 ((k.leaseLimit : Int) - activeSum k gs)
  | 1 => word (effectiveLease k me)
  | 2 => word (gs.length * 2 ^ 16 + (gs.filter (fun x => x.gang.active)).length)
  | _ =>
    let others := activeSum k (gs.filter (fun x => !(x.gid == g.gid && x.k == i)))
    if others + max 8 (max a (measuredLease k me)) ≤ k.leaseLimit then 1 else 0

/-- LEASEQ: one value for every participating slice (R193). The operand of `leaseq.fit` is that of the lowest participating slice, where slices of a subgang differ (DEDUCED, log 85). -/
def runLeaseq : Run := fun cs s =>
  match cs with
  | [] => ⟨s, [], .next⟩
  | c0 :: _ =>
    let v := leaseqValue s c0 ((s.slice c0.ref).operand c0.g0 c0.g.w.a.toNat (lowestLane c0.eff)).toNat
    ⟨cs.foldl (fun s c => writeLanes 1 (Lanes.all (v.zeroExtend 64, 0)) c s) s, cs.map (fun c => (c.ref.idx, .next)), .next⟩

/-! ### Illegal groups (R52, R55, R56) -/

/-- The group of an illegal instruction as it issues: words alone, with no operands. -/
def rawGrp (g : RawGroup) (a : Dword) : Grp :=
  { op := 0, wide := false, p := [], w := ⟨0, false, false, false, false, 0, 0, 0, 0, false, 0⟩, pfx := Prefixes.of [], shape := {}, addr := a,
    next := a + dword (4 * g.prefixes.length + if g.wide then 8 else 4) }

/-- A group that is no instruction: slices with an empty mask pass it, the others take the trap of its words. -/
def State.issueRaw (s : State) (who : Issuer) (g : RawGroup) : State :=
  let a := s.issueAddr who
  let grp := rawGrp g a
  let cs := (s.contexts who grp).map (fun c => { c with eff := rawEff (s.slice c.ref) g })
  if cs.any (fun c => (s.slice c.ref).wait.isSome || s.awaitsRemote c) then s
  else s.conclude who grp (cs.map (fun c =>
    (c.ref.idx, if c.eff = 0 then .next else .trap (RawGroup_trap g a c.eff))))

/-! ### Meanings -/

def execBra (p : List Prefix) (w : WForm) (s : State) : Outcome := issueEach 0x40 true p w actBra s
def execBrx (p : List Prefix) (w : WForm) (s : State) : Outcome := issueEach 0x41 true p w actBrx s
def execCbr (p : List Prefix) (w : WForm) (s : State) : Outcome :=
  issue 0x42 true p w ownNone (if WForm.field w 52 52 = 1 then runCbrGang else eachSlice actCbr) s
def execCall (p : List Prefix) (w : WForm) (s : State) : Outcome := issueEach 0x43 true p w actCall s
def execRet (p : List Prefix) (w : WForm) (s : State) : Outcome := issueEach 0x44 true p w actRet s
def execSplit (p : List Prefix) (w : WForm) (s : State) : Outcome := issueEach 0x45 true p w actSplit s
def execJoinC (p : List Prefix) (w : CForm) (s : State) : Outcome := issue 0x46 false p (expand w) ownJoin (eachSlice actJoin) s
def execJoin (p : List Prefix) (w : WForm) (s : State) : Outcome := issue 0x46 true p w ownJoin (eachSlice actJoin) s
def execLoop (p : List Prefix) (w : WForm) (s : State) : Outcome := issueEach 0x47 true p w actLoop s
def execPart (p : List Prefix) (w : WForm) (s : State) : Outcome := issueEach 0x48 true p w actPart s
def execRegang (p : List Prefix) (w : WForm) (s : State) : Outcome := issueEach 0x49 true p w actRegang s
def execElect (p : List Prefix) (w : WForm) (s : State) : Outcome :=
  issue 0x4A true p w ownNone (if WForm.field w 53 53 = 1 then runElectGang else eachSlice actElect) s
def execExitC (p : List Prefix) (w : CForm) (s : State) : Outcome := issueEach 0x4B false p (expand w) actExit s
def execExit (p : List Prefix) (w : WForm) (s : State) : Outcome := issueEach 0x4B true p w actExit s
def execTrap (p : List Prefix) (w : WForm) (s : State) : Outcome := issueEach 0x4C true p w (actTrap 0x0E) s
def execBkpt (p : List Prefix) (w : WForm) (s : State) : Outcome := issueEach 0x4D true p w (actTrap 0x0F) s
def execSrd (p : List Prefix) (w : WForm) (s : State) : Outcome := issueEach 0x4E true p w actSrd s
def execSwr (p : List Prefix) (w : WForm) (s : State) : Outcome := issue 0x4F true p w ownSwr (eachSlice actSwr) s
def execSetfmt (p : List Prefix) (w : WForm) (s : State) : Outcome := issueEach 0x50 true p w actSetfmt s
def execRegion (p : List Prefix) (w : WForm) (s : State) : Outcome := issueEach 0x51 true p w actRegion s
def execYieldC (p : List Prefix) (w : CForm) (s : State) : Outcome := issueEach 0x52 false p (expand w) actYield s
def execYield (p : List Prefix) (w : WForm) (s : State) : Outcome := issueEach 0x52 true p w actYield s
def execLease (p : List Prefix) (w : WForm) (s : State) : Outcome := issue 0x53 true p w ownLease runLease s
def execLeaseq (p : List Prefix) (w : WForm) (s : State) : Outcome := issue 0x54 true p w ownNone runLeaseq s
def execIllegalInstructionGroup (g : RawGroup) (s : State) : Outcome :=
  match s.issuer with
  | none => .fault .noIssuer
  | some who => .next (s.issueRaw who g)

end Sys2Proof.Machine
end

