-- ==== Sys2Proof/Machine/SliceMemory.lean ====
section
/-! DEFINITION. The memory instructions of a slice: loads, stores, full/empty forms, windows, prefetch and fences, and the background translation of windows (R151 to R176). -/

namespace Sys2Proof.Machine

/-! ### The memory operand (R152 to R154) -/

/-- Bytes, registers and sign extension of a size code (R153). -/
def sizeOf (sz : Nat) : Nat × Nat × Bool :=
  match sz with
  | 1 => (8, 2, false)
  | 2 => (16, 4, false)
  | 3 => (1, 1, false)
  | 4 => (1, 1, true)
  | 5 => (2, 1, false)
  | 6 => (2, 1, true)
  | _ => (4, 1, false)

/-- An operand of 1, 2 or 4 words in a lane, lowest word first, in 128 bits. -/
def dataOf (sl : Slice) (g0 spec regs lane : Nat) : BitVec 128 :=
  if regs = 4 then
    (sl.reg (spec + 3) lane ++ sl.reg (spec + 2) lane ++ sl.reg (spec + 1) lane ++ sl.reg spec lane : BitVec 128)
  else (sl.operandN regs g0 spec lane).zeroExtend 128

/-- The poison mark that a data operand passes on in a lane (R414). -/
def dataPoison (c : Ctx) (sl : Slice) (lane : Nat) : Option Dword := sl.poisonIn (c.g.shape.c.reads c.g.w.c.toNat) lane

/-- The access of a memory instruction with its operands as read at issue (R154). -/
def memAccess (op : AccessOp) (size regs : Nat) (sg returns acq rel : Bool) (once : Bool) (dflt : Nat) (c : Ctx) (sl : Slice) : Access :=
  let low := c.eff.lanes.headD 0
  { op := op, returns := returns, space := spaceOf c.g.pfx.space, size := size, signed := sg, dst := c.g.w.d.toNat, regs := regs,
    bcast := if once then c.eff else 0,
    ea := Lanes.ofFn (effAddr c sl), b := Lanes.all 0, c := Lanes.ofFn (dataOf sl c.g0 c.g.w.c.toNat regs),
    poison := Lanes.ofFn (dataPoison c sl), window := if WForm.field c.g.w 50 50 = 1 then some (c.g.w.a.toNat % 8) else none,
    hint := if op = .load ∧ 0xE0 ≤ c.g.w.c.toNat then some (c.g.w.c.toNat - 0xE0) else none,
    scope := c.g.pfx.scope dflt, acquire := acq, release := rel, wrote := Lanes.all none, behind := [],
    lanes := Lanes.ofFn (fun i => if c.eff.getLsbD i && (!once || i == low) then LaneState.todo else .off), addr := c.g.addr, next := c.g.next }

def actLoad (op : AccessOp) (acqDefault once : Bool) (c : Ctx) (s : State) : State × Fate :=
  let z := sizeOf (WForm.field c.g.w 56 54)
  let acq := c.g.pfx.order (if acqDefault then 1 else 0) == 1
  s.issueAccess c.ref (memAccess op z.1 z.2.1 z.2.2 true acq false once 1 c (s.slice c.ref))

def actStore (op : AccessOp) (relDefault : Bool) (c : Ctx) (s : State) : State × Fate :=
  let z := sizeOf (WForm.field c.g.w 56 54)
  let rel := c.g.pfx.order (if relDefault then 2 else 0) == 2
  s.issueAccess c.ref (memAccess op z.1 z.2.1 z.2.2 false false rel false 1 c (s.slice c.ref))

/-- FEQ: an access of the whole word that gives one 32-bit value. -/
def actFeq (c : Ctx) (s : State) : State × Fate := s.issueAccess c.ref (memAccess .feq 8 1 false true false false false 1 c (s.slice c.ref))

/-- FESET: an access of the whole word; c is a 32-bit operand. -/
def actFeset (c : Ctx) (s : State) : State × Fate := s.issueAccess c.ref (memAccess .feset 8 1 false false false false false 1 c (s.slice c.ref))

/-! ### Windows (R162, R163) -/

/-- A window at a virtual address under a leaf. -/
def Window.of (va : Dword) (pa : Nat) (t : TlbEntry) : Window :=
  { vbase := va, frame := pa, limit := t.vpage + pageBytes t.size - va.toNat % 2 ^ 57, read := t.perm.r, write := t.perm.w, host := t.host,
    fe := t.perm.fe, stale := false, used := false }

/-- BWIN (R162). -/
def actBwin (c : Ctx) (s : State) : State × Fate :=
  let sl := s.slice c.ref
  let g := s.group c.ref.gid
  let va := pairAt' sl c.g.w.a.toNat
  if !canonical va then (s, .trap ⟨0x09, va, c.eff, 1⟩)
  else
    match s.reach g.coreRef g.part (s.unitIdOf g) va needRead 0 false with
    | (s, .ok pa t) =>
      let w := Window.of va pa t
      (s.modSlice c.ref (fun sl =>
        let sl := { sl with w := sl.w.set (WForm.field c.g.w 52 50) (some w) }
        if WForm.field c.g.w 53 53 = 1 then sl.setLanes c.g.w.d.toNat c.eff (Lanes.all (word w.limit)) else sl), .next)
    | (s, .denied code) => (s, .trap ⟨0x09, va, c.eff, word code⟩)
    | (s, .fault seq) => (s, .park (.replay (.fault seq) ⟨0x08, va, c.eff, word (16 * c.eff.toNat)⟩))
    | (s, .migrate p n) => (s, .park (.replay (.migration p n) ⟨0x08, va, c.eff, word (16 * c.eff.toNat)⟩))
    | (s, _) => (s, .trap ⟨0x08, va, c.eff, word (16 * c.eff.toNat)⟩)
where
  pairAt' (sl : Slice) (spec : Nat) : Dword := joinWords (sl.reg spec 0) (sl.reg (spec + 1) 0)

/-- BWREL (R162). -/
def actBwrel (c : Ctx) (s : State) : State × Fate :=
  (s.modSlice c.ref (fun sl =>
    if WForm.field c.g.w 53 53 = 1 then { sl with w := Bank.all 8 none } else { sl with w := sl.w.set (WForm.field c.g.w 52 50) none }), .next)

/-- R163: a stale window that has been used is translated again; a failure leaves it stale and raises nothing. -/
def execWindowRetranslation (r : SliceRef) (k : Nat) (s : State) : Outcome :=
  let g := s.group r.gid
  match (s.slice r).w.getD k none with
  | some w =>
    if w.stale && w.used then
      let put (s : State) (x : Window) : Outcome := .next (s.modSlice r (fun sl => { sl with w := sl.w.set k (some x) }))
      match s.translate g.coreRef g.part w.vbase.toNat false with
      | (s, .ok t pa) => if s.mustMigrate t (w.vbase.toNat % 2 ^ 57) then put s { w with used := false } else put s (Window.of w.vbase pa t)
      | (s, _) => put s { w with used := false }
    else .next s
  | none => .next s

/-! ### Prefetch and fences (R175, R176) -/

/-- One lane's line requested into a level; a lane that cannot be translated is dropped. -/
def State.prefetchLane (c : Ctx) (a : Access) (level : Nat) (s : State) (i : Nat) : State :=
  let g := s.group c.ref.gid
  match a.space with
  | .glb =>
    let found : State × Option Nat :=
      match (a.windowOf (s.slice c.ref)).bind (fun w => (w.offset? (a.ea.get i) 1).map (fun o => (w, o))) with
      | some (w, o) => (s, if w.read then some (w.frame + o) else none)
      | none =>
        match s.translate g.coreRef g.part (a.ea.get i).toNat false with
        | (s, .ok t pa) => (s, if t.perm.r && !s.mustMigrate t ((a.ea.get i).toNat % 2 ^ 57) then some pa else none)
        | (s, _) => (s, none)
    match found with
    | (s, some pa) =>
      if s.physKind pa = .registers then s
      else if level = 0 then s.loadTouch c.ref none pa
      else if level = 1 then ((s.homeLookup g.die pa).recall pa).l2Touch pa .read
      else (s.homeLookup g.die pa).askBases [⟨1, homeSlice pa, pa / 128 * 128, 0⟩]
    | (s, none) => s
  | .scr => if s.lineAbsent g ((a.ea.get i).toNat / 128) then s.startRefill g.gid ((a.ea.get i).toNat / 128) else s
  | _ => s

/-- PREF (R175). -/
def actPref (c : Ctx) (s : State) : State × Fate :=
  let a := memAccess .load 1 1 false false false false false 1 c (s.slice c.ref)
  match a.check (s.group c.ref.gid) (s.slice c.ref) with
  | some t => (s, .trap t)
  | none => (a.todo.foldl (State.prefetchLane c a (WForm.field c.g.w 56 54)) (s.noteStale c.ref a), .next)

/-- FENCE (R176, R462). A release at system scope completes once the host ports have given back the lines written before it (R461). -/
def actFence (c : Ctx) (s : State) : State × Fate :=
  let acquires := c.g.pfx.order 3 % 2 == 1
  if 2 ≤ c.g.pfx.order 3 ∧ 5 ≤ c.g.pfx.scope 4 ∧ s.backInvalidates ≠ [] then (s, .stay (.release s.backInvalidates acquires c.g.next))
  else (if acquires then s.acquire (s.group c.ref.gid).coreRef (c.g.pfx.scope 4) else s, .next)

/-! ### Meanings -/

def execLd (p : List Prefix) (w : WForm) (s : State) : Outcome := issueEach 0x60 true p w (actLoad .load false false) s
def execSt (p : List Prefix) (w : WForm) (s : State) : Outcome := issueEach 0x61 true p w (actStore .store false) s
def execLdw (p : List Prefix) (w : WForm) (s : State) : Outcome := issueEach 0x62 true p w (actLoad .ldw true false) s
def execLdc (p : List Prefix) (w : WForm) (s : State) : Outcome := issueEach 0x63 true p w (actLoad .ldc true false) s
def execStf (p : List Prefix) (w : WForm) (s : State) : Outcome := issueEach 0x64 true p w (actStore .stf true) s
def execFeq (p : List Prefix) (w : WForm) (s : State) : Outcome := issueEach 0x65 true p w actFeq s
def execFeset (p : List Prefix) (w : WForm) (s : State) : Outcome := issueEach 0x66 true p w actFeset s
def execBwin (p : List Prefix) (w : WForm) (s : State) : Outcome := issueEach 0x67 true p w actBwin s
def execBwrel (p : List Prefix) (w : WForm) (s : State) : Outcome := issueEach 0x68 true p w actBwrel s
def execPref (p : List Prefix) (w : WForm) (s : State) : Outcome := issueEach 0x69 true p w actPref s
def execFence (p : List Prefix) (w : WForm) (s : State) : Outcome := issueEach 0x6A true p w actFence s
def execLds (p : List Prefix) (w : WForm) (s : State) : Outcome := issueEach 0x6B true p w (actLoad .load false true) s

end Sys2Proof.Machine
end

