-- ==== Sys2Proof/Machine/DieOps.lean ====
section
/-! DEFINITION. Atomics and transactions of a die, conflicts and the commit unit (R313 to R327). -/

namespace Sys2Proof.Machine

/-! ### Atomics (R313 to R319, R322) -/

/-- The access of an atomic with its operands as read at issue: its unit's bytes, the words of d, b and c, and its space. -/
def atomAccess (op : AccessOp) (returns : Bool) (size dn bn cn sp : Nat) (c : Ctx) (sl : Slice) : Access :=
  { op := op, returns := returns, space := spaceOf sp, size := size, signed := false, dst := c.g.w.d.toNat, regs := dn, bcast := 0,
    ea := Lanes.ofFn (atomAddr c sl), b := Lanes.ofFn (dataOf sl c.g0 c.g.w.b.toNat bn), c := Lanes.ofFn (dataOf sl c.g0 c.g.w.c.toNat cn),
    poison := Lanes.all none, window := none, hint := none, wrote := Lanes.all none, behind := [], scope := c.g.pfx.scope 4, acquire := c.g.pfx.order 0 % 2 == 1, release := decide (2 ≤ c.g.pfx.order 0),
    lanes := Lanes.ofFn (fun i => if c.eff.getLsbD i then LaneState.todo else .off), addr := c.g.addr, next := c.g.next }

/-- A slice's part of an atomic; one that parks waits at once, so that a higher slice finds it (R315). -/
def partOfAtomic (act : Ctx → State → State × Fate) (c : Ctx) (s : State) : State × Fate :=
  match act c s with
  | (s, .park w) => (s.modSlice c.ref (fun sl => { sl with wait := some w }), .park w)
  | x => x

/-- The slices of an atomic in ascending order; poison in any present lane leaves every lane undone, and every slice consumes it (R315, R414). -/
def runAtomic (act : Ctx → State → State × Fate) : Run := fun cs s =>
  let r := eachSlice (partOfAtomic act) cs s
  match r.fates.findSome? (fun f => match f.2 with | .poison _ o => some o | _ => none) with
  | none => r
  | some o =>
    ⟨s, r.fates.map (fun (f : Nat × Fate) =>
      match f.2 with
      | .trap t => (f.1, .trap t)
      | .poison l x => (f.1, .poison l x)
      | _ => (f.1, .poison 0 o)), r.idle⟩

def actAtom (returns : Bool) (c : Ctx) (s : State) : State × Fate :=
  let f := WForm.field c.g.w
  let n := tyBytes (f 56 54) / 4
  s.issueAccess c.ref (atomAccess (.atom (f 53 50) (f 56 54)) returns (4 * n) n n n (f 59 57) c (s.slice c.ref))

def actAtomp (c : Ctx) (s : State) : State × Fate :=
  s.issueAccess c.ref (atomAccess (.routine (WForm.field c.g.w 53 50)) true 1 2 2 2 0 c (s.slice c.ref))

def actBfins (c : Ctx) (s : State) : State × Fate :=
  s.issueAccess c.ref (atomAccess .bfins true 8 2 2 2 (WForm.field c.g.w 52 50) c (s.slice c.ref))
def actBffcs (c : Ctx) (s : State) : State × Fate :=
  s.issueAccess c.ref (atomAccess .bffcs true 8 1 1 1 (WForm.field c.g.w 52 50) c (s.slice c.ref))
def actBfpls (c : Ctx) (s : State) : State × Fate :=
  s.issueAccess c.ref (atomAccess .bfpls true 8 1 2 1 (WForm.field c.g.w 52 50) c (s.slice c.ref))
def actAtomw (c : Ctx) (s : State) : State × Fate :=
  s.issueAccess c.ref (atomAccess .atomw true 16 4 4 4 0 c (s.slice c.ref))

/-! ### Transactions (R323 to R327) -/

/-- TXB (R323). -/
def actTxb (c : Ctx) (s : State) : State × Fate :=
  let sl := s.slice c.ref
  match sl.tx with
  | some _ => (s, .misuse ⟨0x17, s.unstated c.ref.idx, c.eff, 1⟩)
  | none =>
    (s.modSlice c.ref (fun sl =>
      { sl with
        tx := some { abortPc := relTarget c, depth := sl.depth, active := sl.active, fmt := sl.fmt, lines := [], reads := [], buffer := [], poisoned := [],
                     conflict := false }
        txstat := sl.txstat ||| 0x80000000 }), .next)

/-- TXC: the commit is asked of the commit unit of the set's home die (R323, R326). -/
def actTxc (c : Ctx) (s : State) : State × Fate :=
  match (s.slice c.ref).tx with
  | none => (s, .trap ⟨0x17, s.unstated c.ref.idx, c.eff, 2⟩)
  | some t =>
    let die := match t.lines with | l :: _ => s.homeDie (l.1 * 128) | [] => (s.group c.ref.gid).die
    (s.modDie die (fun d => { d with commits := d.commits ++ [c.ref] }), .stay (.commit c.eff))

/-- TXA (R323). -/
def actTxa (c : Ctx) (s : State) : State × Fate :=
  match (s.slice c.ref).tx with
  | none => (s, .trap ⟨0x17, s.unstated c.ref.idx, c.eff, 3⟩)
  | some _ => (s.modSlice c.ref (fun sl => sl.abortTx 6 (WForm.field c.g.w 57 50)), .moved)

/-- The write set of a transaction performed at its home (R326). -/
def State.writeSet (s : State) (r : SliceRef) (t : Transaction) : State :=
  let s := t.lines.foldl (fun s l => if l.2 then s.homeLookup (s.group r.gid).die (128 * l.1) else s) s
  let s := t.buffer.foldl (fun s c => s.writePlace (some r) (s.glbPlace c.1) [c.2] false) s
  let whole (l : Nat) : Bool := (List.range 128).all (fun k => t.buffer.any (fun c => c.1 == 128 * l + k))
  let mark (m : Memory) (l : Nat × Bool) : Memory :=
    if !l.2 then m
    else if t.poisoned.contains l.1 then m.addPoison 128 (128 * l.1) 1
    else if whole l.1 then m.clearPoison 128 (128 * l.1) 128
    else m
  { s with mem := t.lines.foldl mark s.mem }

/-- The commit of one slice's transaction, or its abort by a conflict (R326, R327). -/
def State.commitSlice (s : State) (r : SliceRef) (t : Transaction) : State :=
  let k := r.idx / (s.group r.gid).gangSize
  if t.conflict then (s.modSlice r (fun sl => { sl with wait := none }.abortTx 1 0)).divide r.gid k
  else
    let s := (s.writeSet r t).modSlice r (fun sl =>
      { sl with tx := none, txstat := word (2 ^ 30 + t.lines.length % 16 * 2 ^ 8), regpc := 0, wait := none, pc := sl.pc + 8 })
    (s.acquire (s.group r.gid).coreRef 4).divide r.gid k

/-- Whether a lower slice of a waiting slice's subgang still waits for its commit: they commit in ascending order, whatever the home dies of their sets (R323). -/
def State.commitWaits (s : State) (r : SliceRef) : Bool :=
  let n := (s.group r.gid).gangSize
  (List.range r.idx).any (fun j => j / n == r.idx / n && (s.slice ⟨r.gid, j⟩).sub == (s.slice r).sub &&
    (match (s.slice ⟨r.gid, j⟩).wait with | some (.commit _) => true | _ => false))

/-- R326: the commit unit of a die performs the oldest commit. -/
def execCommit (die : Nat) (s : State) : Outcome :=
  match (s.die die).commits with
  | [] => .next s
  | r :: rest =>
    if s.commitWaits r then .next s
    else
      let s := s.modDie die (fun d => { d with commits := rest })
      match (s.slice r).tx, (s.slice r).wait with
      | some t, some (.commit _) => .next (s.commitSlice r t)
      | _, _ => .next s

/-- A slice whose transaction is aborted from outside stops waiting: its parked access is withdrawn, its registers full again where they are owed nothing, and its commit is asked for no more (R25, R325). -/
def State.breakWait (s : State) (r : SliceRef) : State :=
  match (s.slice r).wait with
  | some (.access a) => s.dropAccess r a
  | some (.commit _) => { s with dies := s.dies.map (fun (d : Die) => { d with commits := d.commits.filter (fun x => x ≠ r) }) }
  | _ => s

/-- R325: a conflict that the home has found reaches the slice. -/
def execConflict (r : SliceRef) (s : State) : Outcome :=
  match (s.slice r).tx with
  | some t =>
    if t.conflict then
      let k := r.idx / (s.group r.gid).gangSize
      .next (((s.breakWait r).modSlice r (fun sl => { sl with wait := none }.abortTx 1 0)).divide r.gid k)
    else .next s
  | none => .next s

/-! ### Meanings -/

def execAtom (p : List Prefix) (w : WForm) (s : State) : Outcome := issue 0xC0 true p w ownNone (runAtomic (actAtom true)) s
def execAtomr (p : List Prefix) (w : WForm) (s : State) : Outcome := issue 0xC1 true p w ownNone (runAtomic (actAtom false)) s
def execAtomp (p : List Prefix) (w : WForm) (s : State) : Outcome := issue 0xC2 true p w ownNone (runAtomic actAtomp) s
def execBfins (p : List Prefix) (w : WForm) (s : State) : Outcome := issue 0xC3 true p w ownNone (runAtomic actBfins) s
def execBffcs (p : List Prefix) (w : WForm) (s : State) : Outcome := issue 0xC4 true p w ownNone (runAtomic actBffcs) s
def execBfpls (p : List Prefix) (w : WForm) (s : State) : Outcome := issue 0xC5 true p w ownNone (runAtomic actBfpls) s
def execTxb (p : List Prefix) (w : WForm) (s : State) : Outcome := issueEach 0xC6 true p w actTxb s
def execTxc (p : List Prefix) (w : WForm) (s : State) : Outcome := issueEach 0xC7 true p w actTxc s
def execTxa (p : List Prefix) (w : WForm) (s : State) : Outcome := issueEach 0xC8 true p w actTxa s
def execAtomw (p : List Prefix) (w : WForm) (s : State) : Outcome := issue 0xC9 true p w ownNone (runAtomic actAtomw) s

end Sys2Proof.Machine
end

