-- ==== Sys2Proof/Machine/Shadow.lean ====
section
/-! DEFINITION. Shadow execution: what the primaries of pairs leave for their shadows, the load-value queues, and what the shadows execute (R197 to R201). -/

namespace Sys2Proof.Machine

/-! ### What a primary leaves (R198, R199) -/

/-- Whether a slice has gone through a group, or waits in it: its state has changed, not by a trap, an abort or a restart, and not by a wait before the group. -/
def Slice.passed (before after : Slice) : Bool :=
  decide ({ after with sub := before.sub } ≠ before) && !before.diverted after &&
    match after.wait with
    | some (.replay _ _) | some (.fetch _ _) | some (.handler _ _) | some (.abortDrain _) | some .restartDrain => false
    | _ => true

/-- A path signature after a slice has gone through a group: it follows from the next PC and the active mask (R199). -/
def Control.sign (k : Control) (signature : Word) : Word := Config.pathSignature signature k.pc k.active

/-- The state after the primaries of a subgang have issued a group: their path signatures follow it, and their shadows have it to go through. They execute it themselves, unless it is compared, brings values from outside, waits for what engines and other agents have done, or its primary still waits in it: those the primary performs for both (R198, R199). -/
def State.trailIssue (before : State) (who : Issuer) (i : Instr) (after : State) : State :=
  if !(before.group who.gid).shadow then after
  else
    match issueFields i with
    | none => after
    | some (op, wide, p, w) =>
      let a := before.issueAddr who
      let g := Grp.of op wide p w a
      let cs := (before.contexts who g).filter (fun c => (before.slice c.ref).passed (after.slice c.ref) && !(after.slice c.ref).ended)
      let now (c : Ctx) : Option Control := if (after.slice c.ref).wait.isNone then some (after.slice c.ref).control else none
      let own := !g.takesQueued && !g.shape.compared && !g.shape.acquires && cs.all (fun c => (now c).isSome)
      let item : Trailing :=
        { gang := who.gang, sub := who.sub, instr := i, addr := a, own := own, queued := g.takesQueued
          regs := if own then [] else g.shape.d.writes w.d.toNat
          entries := cs.map (fun c =>
            (c.ref.idx, ⟨c.eff, Lanes.ofFn (fun l => if c.eff.getLsbD l then c.address (before.slice c.ref) l else none), [], (before.slice c.ref).control, now c⟩)) }
      after.modGroup who.gid (fun grp =>
        { grp with
          shadows := grp.shadows.mapIdx (fun n (x : Shadow) =>
            match (item.entry? n).bind (fun e => e.now) with
            | some k => { x with primary := k.sign x.primary }
            | none => x)
          trail := if cs.isEmpty then grp.trail else grp.trail ++ [item] })

/-- The values of an entry that have been delivered to its primary by now, once it has gone through the group; flags that a `MACCR` raises arrive with its value (R198, R254). -/
def QueueEntry.receive (sl : Slice) (regs : List Nat) (e : QueueEntry) : QueueEntry :=
  if e.now.isNone then e
  else
    let more := regs.flatMap (fun x => (e.mask.lanes.filter (fun i =>
        !e.values.any (fun o => o.dst == x && o.lane == i) && sl.emptyIn x (Mask.one i) == 0)).map (fun i => ⟨x, 1, i, [sl.reg x i], sl.poisonOf x i⟩))
    { e with values := e.values ++ more, now := if more.isEmpty then e.now else e.now.map (fun k => { k with xf := Lanes.ofFn (fun i => k.xf.get i ||| sl.xf.get i) }) }

/-- The entry of a group whose primary waits in it no longer: the primary has gone through it. -/
def QueueEntry.close (sl : Slice) (e : QueueEntry) : QueueEntry :=
  if sl.wait.isSome then e else { e with now := some (e.now.getD sl.control) }

/-- The pairs of a group at the end of a step: primaries that wait no longer have gone through their groups, and values that have arrived stand in the load-value queues (R198). -/
def Group.received (g : Group) : Group :=
  let closing (i : Nat) : Bool := (g.slice i).wait.isNone && (g.trailOf i).any (fun x => match x.entry? i with | some e => e.now.isNone | none => false)
  { g with
    shadows := g.shadows.mapIdx (fun i (x : Shadow) => if closing i then { x with primary := (g.slice i).control.sign x.primary } else x)
    trail := g.trail.map (fun (x : Trailing) =>
      { x with entries := x.entries.map (fun y => (y.1, (y.2.close (g.slice y.1)).receive (g.slice y.1) x.regs)) }) }

/-- A shadow whose primary has been taken from its path goes with it: it takes the same trap, aborts its transaction on its own mask stack, or restarts, with the registers it has (R199, R200, R325). -/
def Slice.divertWith (before after sh : Slice) : Slice :=
  let sh := if before.tx.isSome && after.tx.isNone then { (sh.abortTx 0 0) with txstat := after.txstat } else sh
  { sh with trap := after.trap, regpc := after.regpc, pc := after.pc, wait := none }

/-- A pair after its primary may have been taken from its path, or ended: its queue is empty then, and its path signatures agree again (R200; log 14). -/
def Group.followSlice (before g : Group) (i : Nat) : Group :=
  if (g.slice i).ended then g.dropTrail i
  else if (before.slice i).diverted (g.slice i) then
    { g.dropTrail i with
      shadows := g.shadows.modify i (fun (x : Shadow) => { x with slice := Slice.divertWith (before.slice i) (g.slice i) x.slice, signature := x.primary }) }
  else g

/-- Every pair of a group after something has happened. -/
def Group.followFrom (before g : Group) : Group :=
  if !g.shadow || g.swapped then g else (List.range g.shadows.length).foldl (Group.followSlice before) g

/-- Every pair of the device after something has happened. -/
def State.followFrom (s before : State) : State := { s with groups := s.groups.map (fun g => Group.followFrom (before.group g.gid) g) }

/-- Every pair of a group at the end of a step. -/
def Group.follow (before g : Group) : Group :=
  if !g.shadow || g.swapped then g else (Group.followFrom before g).received

/-- Every pair of the device at the end of a step. -/
def State.followShadows (s before : State) : State := { s with groups := s.groups.map (fun g => Group.follow (before.group g.gid) g) }

/-! ### What a shadow goes through (R197, R198) -/

/-- A shadow after a group: the values of its own lane store have arrived, it waits for nothing, and its signature follows. -/
def Shadow.after (x : Shadow) (sl : Slice) : Shadow :=
  let sl := { (sl.owed.foldl Slice.deliver sl) with owed := [], wait := none }
  { x with slice := sl, signature := sl.control.sign x.signature }

/-- A shadow takes what its primary has left it of a group (R198, R199). -/
def Shadow.take (x : Shadow) (e : QueueEntry) : Shadow :=
  x.after ((e.values.foldl Slice.deliver x.slice).carry e.was (e.now.getD e.was))

/-- What a shadow finds different from an entry of its queue, if anything: the effective mask, or an address; or an upset of the hardware in one of the two (R198, R200). -/
def State.entryMismatch (s : State) (c : Ctx) (e : QueueEntry) : Option (Nat × Dword) :=
  let sl := (s.shadowOf c.ref).slice
  if effOf sl c.g ≠ e.mask then some (5, 0)
  else
    match e.mask.lanes.find? (fun i => decide (c.address sl i ≠ e.addrs.get i)) with
    | some i => some (2, (e.addrs.get i).getD 0)
    | none => (Config.shadowUpset (s.fresh * 128 + c.ref.idx)).map (fun x => if x.1 % 2 = 0 then (2, (e.addrs.get (x.2 % 4)).getD 0) else (5, 0))

/-- The pair of a slice after a disagreement found by its shadow: no wait holds it, and it restarts or its unit is cancelled (R200). -/
def State.upsetPair (s : State) (r : SliceRef) (a : Dword) (eff : Mask) (kind : Nat) (addr : Dword) : State :=
  (((s.breakWait r).modSlice r (fun sl => { sl with wait := none })).takeMismatch r a eff kind addr).divide r.gid (r.idx / (s.group r.gid).gangSize)

/-- One shadow takes its entry, or the pair restarts or is cancelled (R198, R200). -/
def State.takeEntry (x : Trailing) (g : Grp) (size : Nat) (gid : Nat) (s : State) (i : Nat) : State :=
  match x.entry? i with
  | none => s
  | some e =>
    let c : Ctx := ⟨g, ⟨gid, i⟩, e.mask, 4 * (i - x.gang * size)⟩
    match if x.queued then s.entryMismatch c e else none with
    | some (kind, addr) => s.upsetPair c.ref x.addr e.mask kind addr
    | none => s.modGroup gid (fun grp => { grp with shadows := grp.shadows.modify i (fun y => y.take e) })

/-- A shadow with what engines keep for its pair: they are asked by the primary, for both (R197, R199). -/
def Slice.besidePair (primary shadow : Slice) : Slice :=
  { shadow with copies := primary.copies, matrix := primary.matrix, mintPosted := primary.mintPosted, mintFailures := primary.mintFailures }

/-- The device as the shadows of a group's slices see it while they execute the group at an address: the slices that execute it are the shadows, as one subgang; they take no cancel of their own, and no engine owes them flags. -/
def State.asShadows (s : State) (gid gang : Nat) (members : List Nat) (a : Dword) : State :=
  { (s.modGroup gid (fun g =>
      { g with
        shadow := false
        slices := g.shadows.mapIdx (fun i (y : Shadow) =>
          if members.contains i then { Slice.besidePair (g.slice i) y.slice with sub := 0, pc := a } else { g.slice i with sub := 1 }) })) with
    issuer := some ⟨gid, gang, 0⟩
    agenda := []
    units := s.units.map (fun (u : UnitState) => { u with pendingCancel := none, budgetOut := false, cycles := 0 })
    dies := s.dies.map (fun (d : Die) =>
      { d with cores := d.cores.map (fun (k : Core) => { k with matrix := { k.matrix with queue := k.matrix.queue.filter (fun q => q.gid != gid) } }) }) }

/-- One shadow after it has executed a group itself, `sl` being what it has become. Where it consumes poison, both slices of the pair restart (R200); where it takes a trap that its primary has not taken, they disagree (R199); where it cannot go on, it goes where its primary went. -/
def State.ranShadow (x : Trailing) (gid : Nat) (sl : Slice) (s : State) (i : Nat) : State :=
  let r : SliceRef := ⟨gid, i⟩
  let was := (s.shadowOf r).slice
  let mask := ((x.entry? i).map (fun e => e.mask)).getD 0
  if sl.regpc.getLsbD 0 && !was.regpc.getLsbD 0 then
    ((s.breakWait r).modSlice r (fun p => { p with wait := none }.restart)).divide gid x.gang
  else if { was with pc := x.addr }.diverted sl || sl.ended then s.upsetPair r x.addr mask 4 0
  else
    s.modGroup gid (fun grp => { grp with shadows := grp.shadows.modify i (fun y =>
      if sl.wait.isSome || sl.pc == x.addr then (match x.entry? i with | some e => y.take e | none => y) else y.after sl) })

/-- A trail without the entries that some shadows go through now. -/
def Group.without (g : Group) (at_ : Nat) (x : Trailing) : Group :=
  { g with trail := (g.trail.modify at_ (fun (y : Trailing) => { y with entries := y.entries.filter (fun e => !x.members.contains e.1) })).filter (fun y => !y.entries.isEmpty) }

/-- The shadows of a subgang go through the oldest group that they may: they take what their primaries have left them, or execute it on their own registers; they change nothing but themselves. -/
def State.trailStep (run : Instr → State → Outcome) (who : Issuer) (s : State) : State :=
  let g := s.group who.gid
  match g.nextTrailing who.gang (who.sub - 2000) with
  | none => s
  | some (n, x) =>
    let rest := s.modGroup who.gid (fun g => g.without n x)
    match issueFields x.instr with
    | none => rest
    | some (op, wide, p, w) =>
      if !x.own then x.members.foldl (State.takeEntry x (Grp.of op wide p w x.addr) g.gangSize who.gid) rest
      else
        match run x.instr (s.asShadows who.gid x.gang x.members x.addr) with
        | .next t => x.members.foldl (fun s i => s.ranShadow x who.gid ((t.group who.gid).slice i) i) rest
        | _ => x.members.foldl (State.takeEntry x (Grp.of op wide p w x.addr) g.gangSize who.gid) rest

/-! ### Traps of a pair (R199) -/

/-- What the comparison of the trap records of a pair finds different, if anything: the path signature, the mask, or the record; `own` is the shadow after the same group (R199, R200). -/
def Shadow.trapDiffers (x : Shadow) (primary own : Slice) : Option Nat :=
  if x.signature ≠ x.primary then some 3
  else if own.trap.xmask ≠ primary.trap.xmask then some 5
  else if own.trap ≠ primary.trap ∨ own.txstat ≠ primary.txstat then some 4
  else none

/-- A group whose slices trap in a launch with shadow execution: they wait at it until their shadows have reached it, which is a cancel point, and take the trap only where the record that the shadow finds at it agrees (R199). `go` is the group as the issuing subgang of a state executes it, and `t` what it leaves. -/
def State.trapsCompared (before : State) (who : Issuer) (eff : Nat → Mask) (go : State → State) (t : State) : State :=
  let g := before.group who.gid
  if !g.shadow then t
  else
    let ids := g.subgang who.gang who.sub
    let ref (i : Nat) : SliceRef := ⟨who.gid, i⟩
    let trapped := ids.filter (fun i => (before.slice (ref i)).trapped (t.slice (ref i)))
    let at_ := grpAt (before.issueAddr who) (before.issueAddr who)
    if trapped.any g.behind then
      before.conclude who at_ (ids.filterMap (fun i => (before.pending (ref i) (eff i)).map (fun x => (i, Fate.trap x))))
    else
      let u := go (before.asShadows who.gid who.gang ids (before.issueAddr who))
      let bad := trapped.filterMap (fun i => ((before.shadowOf (ref i)).trapDiffers (t.slice (ref i)) (u.slice (ref i))).map (fun k => (i, Fate.upset k 0)))
      if bad.isEmpty then t else before.conclude who at_ bad

end Sys2Proof.Machine
end

