-- ==== Sys2Proof/Machine/Barrier.lean ====
section
/-! DEFINITION. Byte-counting barriers in scratchpad, copy batches, and what a wait delivers of the copies it covers (R216 to R220, R227, R230, R232). -/

namespace Sys2Proof.Machine

/-! ### The object (R216, R217) -/

/-- A barrier object: its header and its two phase slots. -/
structure BarrierObject where
  header : Nat
  slot0 : Nat
  slot1 : Nat
  deriving DecidableEq, Repr

/-- Header fields. -/
def BarrierObject.ph (o : BarrierObject) : Nat := bits o.header 63 62
def BarrierObject.pois (o : BarrierObject) : Bool := bit o.header 61
def BarrierObject.mis (o : BarrierObject) : Bool := bit o.header 60

/-- The slot of a phase tag. -/
def BarrierObject.slot (o : BarrierObject) (t : Nat) : Nat := if t % 2 = 0 then o.slot0 else o.slot1
def BarrierObject.setSlot (o : BarrierObject) (t x : Nat) : BarrierObject := if t % 2 = 0 then { o with slot0 := x } else { o with slot1 := x }

/-- Slot fields. -/
def slotPost (x : Nat) : Bool := bit x 63
def slotExp (x : Nat) : Nat := bits x 62 32
def slotArr (x : Nat) : Nat := bits x 31 0

def BarrierObject.setPh (o : BarrierObject) (n : Nat) : BarrierObject := { o with header := o.header % 2 ^ 62 + n % 4 * 2 ^ 62 }
def BarrierObject.setPois (o : BarrierObject) : BarrierObject := if o.pois then o else { o with header := o.header + 2 ^ 61 }
def BarrierObject.setMis (o : BarrierObject) : BarrierObject := if o.mis then o else { o with header := o.header + 2 ^ 60 }

/-- `delta(T)` of R217. -/
def BarrierObject.delta (o : BarrierObject) (t : Nat) : Nat := (t + 4 - o.ph) % 4

/-- `check_complete` of R217, with the phases completed; at most the two slots complete. -/
def BarrierObject.complete : Nat → BarrierObject → BarrierObject × List Nat
  | 0, o => (o, [])
  | n + 1, o =>
    let x := o.slot o.ph
    if slotPost x && slotArr x == slotExp x then
      let r := ((o.setSlot o.ph 0).setPh (o.ph + 1)).complete n
      (r.1, o.ph :: r.2)
    else (o, [])

/-- `arrive(T, n)` of R217. -/
def BarrierObject.arrive (o : BarrierObject) (t n : Nat) : BarrierObject × List Nat :=
  let x := o.slot t
  if o.mis then (o, [])
  else if 2 ≤ o.delta t then (o.setMis, [])
  else if 2 ^ 32 - 1 < slotArr x + n then (o.setMis, [])
  else
    let o := o.setSlot t (x + n)
    if slotPost x && decide (slotExp x < slotArr x + n) then (o.setMis, []) else o.complete 2

/-- `post(T, n)` of R217, or the code of R219 that refuses it. -/
def BarrierObject.post (o : BarrierObject) (t n : Nat) : Nat ⊕ (BarrierObject × List Nat) :=
  let x := o.slot t
  if o.mis then .inl 1
  else if 2 ≤ o.delta t then .inl 2
  else if slotPost x then .inl 3
  else if 2 ^ 31 - 1 < n then .inl 4
  else if n < slotArr x then .inl 9
  else .inr ((o.setSlot t (x % 2 ^ 32 + n * 2 ^ 32 + 2 ^ 63)).complete 2)

/-! ### The object in the scratchpad -/

/-- The barrier object at an offset of a group's scratchpad, in the array or in backing pages. -/
def Group.barrierAt (g : Group) (a : Nat) : BarrierObject := ⟨(g.held a).num a 8, (g.held (a + 8)).num (a + 8) 8, (g.held (a + 16)).num (a + 16) 8⟩

/-- The tag of a wait after a phase of its barrier has completed: four up with its own phase and with every later one. -/
def tagAfter (t phase : Nat) : Nat := if t = phase ∨ 4 ≤ t then t + 4 else t

/-- The age of a report after a phase of its barrier has completed. -/
def CopyReport.after (x : CopyReport) (phase : Nat) : CopyReport := if x.phase = phase ∨ x.age ≠ 0 then { x with age := x.age + 1 } else x

/-- A slice when phases of a barrier have completed: its wait on one of them is marked, and its reports of the barrier age (R218, R227). -/
def Slice.phaseDone (sl : Slice) (a : Nat) (phases : List Nat) : Slice :=
  let sl : Slice := { sl with copies := { sl.copies with reports := sl.copies.reports.map (fun (x : CopyReport) => if x.barrier = some a then phases.foldl CopyReport.after x else x) } }
  match sl.wait with
  | some (.bwait b t eff next) => if b = a then { sl with wait := some (.bwait b (phases.foldl tagAfter t) eff next) } else sl
  | _ => sl

/-- A slice when BINIT resets a barrier: no phase counts the copies that were counted in its old ones any more (R216, R227). -/
def Slice.phaseGone (sl : Slice) (a : Nat) : Slice :=
  let sl : Slice := { sl with copies := { sl.copies with reports := sl.copies.reports.map (fun (x : CopyReport) =>
      if x.barrier = some a ∧ x.age = 0 then { x with phase := 4 } else x) } }
  sl.phaseDone a [4]

/-- The object at an offset replaced, where its words are held, and the waiters of the completed phases marked. -/
def State.setBarrier (s : State) (gid a : Nat) (o : BarrierObject) (phases : List Nat) : State :=
  let s := ((s.modHeld gid a (fun m => m.setNum a 8 o.header)).modHeld gid (a + 8) (fun m => m.setNum (a + 8) 8 o.slot0)).modHeld gid (a + 16)
    (fun m => m.setNum (a + 16) 8 o.slot1)
  s.modGroup gid (fun g => { g with slices := g.slices.map (fun sl => sl.phaseDone a phases) })

/-- BINIT: the object at an offset reset (R216). -/
def State.initBarrier (s : State) (gid a : Nat) : State :=
  (s.setBarrier gid a ⟨0, 0, 0⟩ []).modGroup gid (fun g => { g with slices := g.slices.map (fun sl => sl.phaseGone a) })

/-- `n` bytes arrive at a group's barrier with a tag; whether this arrival set MIS. -/
def State.arriveAt (s : State) (gid a t n : Nat) : State × Bool :=
  let o := (s.group gid).barrierAt a
  let r := o.arrive t n
  (s.setBarrier gid a r.1 r.2, !o.mis && r.1.mis)

/-- POIS set in a group's barrier (R232). -/
def State.poisonBarrier (s : State) (gid a : Nat) : State := s.setBarrier gid a ((s.group gid).barrierAt a).setPois []

/-- The lines a barrier object touches. -/
def barrierLines (a : Nat) : List Nat := [a / 128, (a + 23) / 128]

/-- The first absent line among some, with its refill started. -/
def State.absentAmong (s : State) (gid : Nat) (lines : List Nat) : State × Option Nat :=
  match lines.find? (fun l => s.lineAbsent (s.group gid) l) with
  | some l => (s.startRefill gid l, some l)
  | none => (s, none)

/-! ### Batches and reports (R227, R230, R232) -/

/-- Whether a slice has a copy of a batch in flight. -/
def State.batchOpen (s : State) (r : SliceRef) (batch : Nat) : Bool :=
  (s.core (s.group r.gid).coreRef).copies.any (fun c => c.gid == r.gid && c.idx == r.idx && c.batch == batch)

/-- The sealed batches of a slice that are unfinished. -/
def State.unfinished (s : State) (r : SliceRef) : List Nat := (s.slice r).copies.sealed_.filter (s.batchOpen r)

/-- Of two reports, the one of the older batch, then of the copy issued first. -/
def CopyReport.older (x y : CopyReport) : Bool := decide (x.batch < y.batch) || (x.batch == y.batch && decide (x.order ≤ y.order))

/-- The oldest report. -/
def oldestReport : List CopyReport → Option CopyReport
  | [] => none
  | x :: rest => match oldestReport rest with | some y => some (if x.older y then x else y) | none => some x

/-- Whether a report tells of a fault or of misuse. -/
def CopyReport.bad (x : CopyReport) : Bool := x.fault.isSome || x.misuse

/-- The trap that delivers a report (R219, R232). -/
def CopyReport.trap (x : CopyReport) (atBarrier : Bool) (eff : Mask) : Trap :=
  match x.fault with
  | some (a, kind) => ⟨0x12, a, eff, word (kind + (if atBarrier then 4 else 0) + x.batch % 2 ^ 16 * 2 ^ 16)⟩
  | none => ⟨0x11, dword (x.barrier.getD 0), eff, 1⟩

/-- A delivered fault or misuse leaves its report. -/
def State.deliverReport (s : State) (r : SliceRef) (x : CopyReport) : State :=
  s.modSlice r (fun sl =>
    { sl with copies := { sl.copies with reports := (sl.copies.reports.map (fun y =>
        if y = x then (if y.fault.isSome then { y with fault := none } else { y with misuse := false }) else y)).filter (fun y => y.bad || y.flags != 0) } })

/-- The flags of reports that a wait covers are delivered (R227), those of a copy that ended by a fault, too, of which R227 does not speak (DESIGN CHOICE, log 97). -/
def State.deliverFlags (s : State) (r : SliceRef) (covers : CopyReport → Bool) : State :=
  let xs := (s.slice r).copies.reports.filter covers
  let s := xs.foldl (fun s x => s.raiseFlagsAll r x.mask x.flags) s
  s.modSlice r (fun sl => { sl with copies := { sl.copies with reports := sl.copies.reports.filter (fun x => !covers x || x.bad) } })

/-- CWAIT for a slice: nothing while too many sealed batches are unfinished, else the oldest report of a finished batch or completion (R230, R232). -/
def State.tryCwait (s : State) (r : SliceRef) (n : Nat) (eff : Mask) : Option (State × Fate) :=
  let open_ := s.unfinished r
  if n < open_.length then none
  else
    let cp := (s.slice r).copies
    let covers (x : CopyReport) : Bool := cp.sealed_.contains x.batch && !open_.contains x.batch
    match oldestReport (cp.reports.filter (fun x => covers x && x.bad)) with
    | some x => some (s.deliverReport r x, .trap (x.trap false eff))
    | none =>
      let s := s.deliverFlags r covers
      some (s.modSlice r (fun sl => { sl with copies := { sl.copies with sealed_ := sl.copies.sealed_.filter (open_.contains ·) } }), .next)

/-- CSEAL for a slice: nothing while 15 sealed batches are unfinished (R230). The model counts batches without end; CSEAL gives their numbers modulo 2^32. -/
def State.tryCseal (s : State) (r : SliceRef) (d : Option Nat) (eff : Mask) : Option (State × Fate) :=
  if 15 ≤ (s.unfinished r).length then none
  else
    some (s.modSlice r (fun sl =>
      let n := sl.copies.current
      let sl := { sl with copies := { sl.copies with current := n + 1, sealed_ := sl.copies.sealed_ ++ [n] } }
      match d with
      | some d => sl.setLanes d eff (Lanes.all (word n))
      | none => sl), .next)

/-- Whether a report is of a copy that the phase a BWAIT has completed counts: the phase of its tag, completed as often ago as the wait's (R227). -/
def CopyReport.countedBy (a t : Nat) (x : CopyReport) : Bool := x.barrier == some a && x.phase == t % 4 && x.age == max 1 (t / 4)

/-- BWAIT for a slice: a completed phase, a fault or misuse to deliver, a wait, or misuse of the tag (R218, R227, R232). A tag of 4 and above names a phase that has completed: its quotient by 4 counts the completions from that phase on. The issuer of the copy, once its own report is delivered, finds a poisoned barrier as any other slice does, for its phase never completes (DESIGN CHOICE, log 31: R232 speaks of other slices there, and of a wait that completes when no fault remains). -/
def State.tryBwait (s : State) (r : SliceRef) (a t : Nat) (eff : Mask) : Option (State × Fate) :=
  let o := (s.group r.gid).barrierAt a
  let finish : State × Fate := (s.deliverFlags r (CopyReport.countedBy a t), .next)
  if 4 ≤ t then some finish
  else
    match oldestReport ((s.slice r).copies.reports.filter (fun x => x.bad && x.barrier == some a)) with
    | some x => some (s.deliverReport r x, .trap (x.trap true eff))
    | none =>
      if o.mis then some (s, .trap ⟨0x11, dword a, eff, 1⟩)
      else if o.pois then some (s, .trap ⟨0x12, dword a, eff, 12⟩)
      else
        match o.delta t with
        | 3 => some finish
        | 2 => some (s, .trap ⟨0x11, dword a, eff, 5⟩)
        | _ => none

end Sys2Proof.Machine
end

