-- ==== Sys2Proof/Machine/CoreMemory.lean ====
section
/-! DEFINITION. What a group's slices share on their core: scratchpad pages, queues, byte-counting barriers, copy batches and the group barrier (R203 to R221, R230). -/

namespace Sys2Proof.Machine

/-- A uniform 32-bit operand (R203). -/
def uni (c : Ctx) (s : State) (spec : Nat) : Nat := ((s.slice c.ref).operand c.g0 spec (lowestLane c.eff)).toNat

/-- A wait tried at once: the instruction parks only when it has to wait (R133). -/
def parkUnless (s : State) (w : Wait) : Option (State × Fate) → State × Fate
  | some x => x
  | none => (s, .park w)

/-- A wait for a line, after which the instruction is executed again. -/
def absentWait (l : Nat) : Wait := .replay (.presence l) ⟨0x08, 0, 0, 0⟩

/-! ### Scratchpad pages (R207 to R209) -/

/-- Pages `a` to `a + b - 1` of a group. -/
def pagesFrom (a b : Nat) : List Nat := (List.range b).map (· + a)

/-- Every named page is pinned. -/
def State.allPinned (s : State) (gid a b : Nat) : Bool := (pagesFrom a b).all (fun p => (s.group gid).pageState.getD p .pinned == .pinned)

/-- The refill of unpinned pages starts. -/
def State.refillPages (s : State) (gid a b : Nat) : State := (pagesFrom a b).foldl (fun s p => s.startRefill gid (32 * p)) s

/-- SPPIN (R209). -/
def actSppin (c : Ctx) (s : State) : State × Fate :=
  let a := uni c s c.g.w.a.toNat
  let b := uni c s c.g.w.b.toNat
  if b = 0 then (s, .next)
  else if (s.group c.ref.gid).pages < a + b then (s, .trap ⟨0x0A, dword (4096 * a), c.eff, 1⟩)
  else
    let s := s.refillPages c.ref.gid a b
    if WForm.field c.g.w 50 50 = 1 ∧ !s.allPinned c.ref.gid a b then
      match s.pending c.ref c.eff with
      | some t => (s, .trap t)
      | none => (s, .park (.sppin a b c.eff c.g.next))
    else (s, .next)

/-- SPUNP: the pages are unpinned later, once earlier copies have landed; accesses after it find their lines absent (R209). -/
def actSpunp (c : Ctx) (s : State) : State × Fate :=
  let a := uni c s c.g.w.a.toNat
  let b := uni c s c.g.w.b.toNat
  if b = 0 then (s, .next)
  else if (s.group c.ref.gid).pages < a + b then (s, .trap ⟨0x0A, dword (4096 * a), c.eff, 1⟩)
  else
    let drop := WForm.field c.g.w 50 50 == 1
    let mark (l : List PageState) (p : Nat) : List PageState := l.modify p (fun (x : PageState) => if x = .pinned then .unpinning drop s.nextCopy else x)
    (s.modGroup c.ref.gid (fun g => { g with pageState := (pagesFrom a b).foldl mark g.pageState }), .next)

/-- Bytes, bits and marks of `[a, a + n)` of one memory put at the same offsets of another. -/
def Memory.movePart (dst m : Memory) (a n : Nat) : Memory :=
  let d := dst.copySpan m a n a 8
  (m.poison.filter (fun u => decide (a ≤ 8 * u) && decide (8 * u < a + n))).foldl (fun (d : Memory) u => { d with poison := risingAdd d.poison u }) d

/-- The line of a refilling page that comes next, in ascending order from the line that started it (R207). -/
def Group.nextRefill (g : Group) (page : Nat) : Option Nat :=
  match g.pageState.getD page .pinned with
  | .refilling start =>
    let ls := (List.range 32).map (fun k => 32 * page + (start % 32 + k) % 32)
    ls.find? (g.absent.contains ·)
  | _ => none

/-- A page whose 32 lines are present is pinned, and an unpin that a pre-emption put off goes on (R207, R209). -/
def Group.pinPage (g : Group) (page : Nat) : Group :=
  match g.unpins.find? (fun x => x.1 == page) with
  | some x => { g with pageState := g.pageState.set page (.unpinning x.2.1 x.2.2), unpins := g.unpins.filter (fun y => y.1 ≠ page) }
  | none => { g with pageState := g.pageState.set page .pinned }

/-- R207: a line returns from its backing page; with all 32 present the page is pinned. -/
def execRefill (gid page line : Nat) (s : State) : Outcome :=
  let g := s.group gid
  if g.nextRefill page = some line then
    .next (s.modGroup gid (fun g =>
      let g := { g with scr := g.scr.movePart g.backing (128 * line) 128, absent := g.absent.filter (· ≠ line) }
      if g.absent.any (fun l => l / 32 == page) then g else g.pinPage page))
  else .next s

/-- Whether a copy issued before a bound has bytes for a page still to land. -/
def Copy.owesPage (c : Copy) (gid page : Nat) : Bool := (List.range 32).any (fun k => c.owesScr gid (32 * page + k))

/-- The lines of a page that some agent waits for: a lane, an instruction, or a copy. -/
def State.wanted (s : State) (gid page : Nat) : Option Nat :=
  let g := s.group gid
  let lanes : List Nat := g.slices.flatMap (fun sl =>
    match sl.wait with
    | some (.access a) => (List.range 4).filterMap (fun i => if a.lanes.get i = .absent then some ((a.ea.get i).toNat / 128) else none)
    | some (.replay (.presence l) _) => [l]
    | _ => [])
  lanes.find? (fun l => l / 32 == page)

/-- A page's lines leave the array: written to the backing page, or dropped (R209). -/
def Group.unpin (g : Group) (page : Nat) (drop : Bool) : Group :=
  { g with
    backing := if drop then g.backing.eraseSpan 8 (4096 * page) 4096 else g.backing.movePart g.scr (4096 * page) 4096
    scr := g.scr.eraseSpan 8 (4096 * page) 4096
    absent := (List.range 32).foldl (fun l k => risingAdd l (32 * page + k)) g.absent
    pageState := g.pageState.set page .unpinned }

/-- The refills that slices of a group wait for start (R207, R208). -/
def State.refillWanted (s : State) (gid : Nat) : State :=
  (List.range (s.group gid).pages).foldl (fun s page => match s.wanted gid page with | some l => s.startRefill gid l | none => s) s

/-- The words of a page that `spunp.drop` sets full: those that were empty wake their park lists (R168, R169, R209). -/
def State.dropWakes (s : State) (g : Group) (page : Nat) : State :=
  (g.scr.empties.filter (fun w => decide (512 * page ≤ w) && decide (w < 512 * (page + 1)))).foldl (fun s w => s.wake .scr g.gid w true) s

/-- R209: the deferred work of SPUNP, once every earlier copy into the page has landed. -/
def execUnpinWriteback (gid page : Nat) (s : State) : Outcome :=
  let g := s.group gid
  match g.pageState.getD page .pinned with
  | .unpinning drop before =>
    if (s.dieCopies g.die).any (fun c => decide (c.id < before) && c.owesPage gid page) then .next s
    else
      let s := (if drop then s.dropWakes g page else s).modGroup gid (fun g => g.unpin page drop)
      .next (match s.wanted gid page with | some l => s.startRefill gid l | none => s)
  | _ => .next s

/-! ### Queues (R211 to R215) -/

/-- Queue `n` of a group. -/
def Group.queue (g : Group) (n : Nat) : Queue := g.queues.getD n ⟨false, 0, 0, false, 0, 0, 0, 0, 0, [], [], [], []⟩

/-- The state with a queue changed. -/
def State.modQueue (s : State) (gid n : Nat) (f : Queue → Queue) : State := s.modGroup gid (fun g => { g with queues := g.queues.modify n f })

/-- The queue-misuse trap (R215). -/
def queueTrap (n code : Nat) (eff : Mask) : Fate := .trap ⟨0x10, 0, eff, word (n * 256 + code)⟩

/-- Bytes of an entry. -/
def Queue.entry (q : Queue) : Nat := if q.wide then 32 else 16

/-- The lines that hold entry `i` of a queue. -/
def Queue.lines (q : Queue) (i : Nat) : List Nat := [(q.base + i * q.entry) / 128, (q.base + i * q.entry + q.entry - 1) / 128]

/-- QINIT (R212, R215). A ring of no entry whose base lies beyond the scratchpad takes 0x0A, and not code 3: no byte of it lies outside, and the spec does not say which (DESIGN CHOICE, log 96). -/
def actQinit (c : Ctx) (s : State) : State × Fate :=
  let n := WForm.field c.g.w 53 50
  let base := uni c s c.g.w.a.toNat
  let cfg := uni c s c.g.w.b.toNat
  let len := uni c s c.g.w.c.toNat
  let g := s.group c.ref.gid
  let q := g.queue n
  let wide := bit cfg 24
  let nprod := bits cfg 23 16
  let plo := bits cfg 15 8
  let allow := bits cfg 7 0
  let entry := if wide then 32 else 16
  let cap := len / entry
  if cfg / 2 ^ 25 ≠ 0 then (s, .trap ⟨0x02, c.g.addr, c.eff, infoRuntime⟩)
  else if base % 16 ≠ 0 ∨ len % entry ≠ 0 then (s, queueTrap n 6 c.eff)
  else if 4096 * g.pages < base + len then (s, .trap ⟨0x0A, dword (max base (4096 * g.pages)), c.eff, 1⟩)
  else if nprod = 0 ∨ allow = 0 ∨ cap = 0 ∨ cap < nprod * allow ∨ g.gangs.length < plo + nprod then (s, queueTrap n 3 c.eff)
  else if q.valid && (q.count != 0 || !q.pushers.isEmpty || !q.poppers.isEmpty) then (s, queueTrap n 4 c.eff)
  else
    (s.modQueue c.ref.gid n (fun _ =>
      { valid := true, base := base, cap := cap, wide := wide, head := 0, tail := 0, count := 0, plo := plo, nprod := nprod,
        allowance := List.replicate nprod allow, tags := [], pushers := [], poppers := [] }), .next)

/-- The misuse that a push, pop or peek finds: codes 1, 5 and, for a push, 2 (R215). -/
def queueMisuse (q : Queue) (w64 : Bool) (pushGang : Option Nat) : Option Nat :=
  if !q.valid then some 1
  else if w64 != q.wide then some 5
  else match pushGang with
    | some k => if q.plo ≤ k ∧ k < q.plo + q.nprod then none else some 2
    | none => none

/-- Bytes written to a group's scratchpad in words of 8, each with its poison mark. -/
def Memory.storeUnits (m : Memory) (a : Nat) : List (Nat × Bool) → Memory
  | [] => m
  | (x, p) :: rest => (m.store 8 a (toBytes 8 x) p).storeUnits (a + 8) rest

/-- The 8-byte units of an entry: a lane's pair, or two lanes' words. -/
def entryUnits (wide : Bool) (words : List Word) (poison : List (Option Dword)) : List (Nat × Bool) :=
  let w (i : Nat) : Nat := (words.getD i 0).toNat
  let p (i : Nat) : Bool := (poison.getD i none).isSome
  if wide then (List.range 4).map (fun i => (w (2 * i) + 2 ^ 32 * w (2 * i + 1), p i))
  else [(w 0 + 2 ^ 32 * w 1, p 0 || p 1), (w 2 + 2 ^ 32 * w 3, p 2 || p 3)]

/-- A push by a slice of gang `k`: nothing while its gang has no allowance or the entry's line is absent (R213). -/
def State.tryPush (s : State) (gid n k : Nat) (words : List Word) (poison : List (Option Dword)) : State × Option State :=
  let q := (s.group gid).queue n
  if q.allowance.getD (k - q.plo) 0 = 0 then (s, none)
  else
    match s.absentAmong gid (q.lines q.tail) with
    | (s, some _) => (s, none)
    | (s, none) =>
      let s := s.modGroup gid (fun g => { g with scr := g.scr.storeUnits (q.base + q.tail * q.entry) (entryUnits q.wide words poison) })
      (s, some (s.modQueue gid n (fun q =>
        { q with allowance := q.allowance.modify (k - q.plo) (· - 1), tail := (q.tail + 1) % q.cap, count := q.count + 1, tags := q.tags ++ [k] })))

/-- The words of lane `i` of the entry at index `e`, and the mark of their unit. -/
def Group.entryLane (g : Group) (q : Queue) (e i : Nat) : List Word × Option Dword :=
  let n := if q.wide then 8 else 4
  let a := q.base + e * q.entry + i * n
  ((List.range (n / 4)).map (fun k => word (g.scr.num (a + 4 * k) 4)), (g.scr.poisonAt 8 a n).map dword)

/-- A pop granted to a slice: the head entry is consumed, its lanes' values are owed, and its producer's allowance returns (R213). -/
def State.tryPop (s : State) (r : SliceRef) (n dst regs : Nat) (eff : Mask) : State × Option State :=
  let g := s.group r.gid
  let q := g.queue n
  if q.count = 0 then (s, none)
  else
    match s.absentAmong r.gid (q.lines q.head) with
    | (s, some _) => (s, none)
    | (s, none) =>
      let lanes := if specIsS dst then (eff.lanes.getLast?).toList else eff.lanes
      let owed := lanes.map (fun i => let x := g.entryLane q q.head i; (⟨dst, regs, i, x.1, x.2⟩ : Owed))
      let s := s.modSlice r (fun sl => { sl with owed := sl.owed ++ owed })
      let s := s.modQueue r.gid n (fun q =>
        { q with
          head := (q.head + 1) % q.cap
          count := q.count - 1
          tags := q.tags.drop 1
          allowance := q.allowance.modify (q.tags.headD 0 - q.plo) (· + 1) })
      (s, some s)

/-- The misuse of QPUSH, QPOP and QPEEK, which depends on no operand and so is found before any is waited for (R56, R215). -/
def ownQueue (push : Bool) : Own := fun s c =>
  let g := s.group c.ref.gid
  let n := WForm.field c.g.w 53 50
  (queueMisuse (g.queue n) (WForm.field c.g.w 54 54 == 1) (if push then some (c.ref.idx / g.gangSize) else none)).map (fun code => queueTrap n code c.eff)

/-- QPUSH of one slice (R213). -/
def actQpush (c : Ctx) (s : State) : State × Fate :=
  let n := WForm.field c.g.w 53 50
  let w64 := WForm.field c.g.w 54 54 == 1
  let g := s.group c.ref.gid
  let sl := s.slice c.ref
  let k := c.ref.idx / g.gangSize
  let a := c.g.w.a.toNat
  let lane (i : Nat) : List Word :=
    let x := if c.eff.getLsbD i then sl.operandN (if w64 then 2 else 1) c.g0 a i else 0
    if w64 then [x.extractLsb' 0 32, x.extractLsb' 32 32] else [x.extractLsb' 0 32]
  let words := (List.range 4).flatMap lane
  let poison := (List.range 4).map (fun i => if c.eff.getLsbD i then sl.poisonIn (c.g.shape.a.reads a) i else none)
  match s.tryPush c.ref.gid n k words poison with
  | (_, some s) => (s, .next)
  | (s, none) =>
    (s.modQueue c.ref.gid n (fun q => { q with pushers := q.pushers ++ [c.ref.idx] }), .park (.qpush n words poison c.eff c.g.next))

/-- QPOP of one slice; its destination is set empty at issue (R213). -/
def actQpop (c : Ctx) (s : State) : State × Fate :=
  let n := WForm.field c.g.w 53 50
  let d := c.g.w.d.toNat
  let regs := if WForm.field c.g.w 54 54 = 1 then 2 else 1
  let s := s.modSlice c.ref (fun sl => sl.makeEmptyN d regs c.eff)
  match (if ((s.group c.ref.gid).queue n).poppers.isEmpty then s.tryPop c.ref n d regs c.eff else (s, none)) with
  | (_, some s) => (s, .next)
  | (s, none) =>
    (s.modQueue c.ref.gid n (fun q => { q with poppers := q.poppers ++ [c.ref.idx] }), .park (.qpop n d regs c.eff c.g.next))

/-- QPEEK (R214). It waits for no entry; a line of the entry's ring that is absent it waits for as every access does (R160), though R214 says that it never waits (DEDUCED, log 98). -/
def actQpeek (c : Ctx) (s : State) : State × Fate :=
  let n := WForm.field c.g.w 53 50
  let w64 := WForm.field c.g.w 54 54 == 1
  let k := WForm.field c.g.w 57 55
  let g := s.group c.ref.gid
  let q := g.queue n
  if q.count = 0 then (s.modSlice c.ref (fun sl => sl.setMask k 0), .next)
  else
    match s.absentAmong c.ref.gid (q.lines q.head) with
    | (s, some l) => (s, .park (absentWait l))
    | (s, none) =>
      let x (i : Nat) : List Word × Option Dword := g.entryLane q q.head i
      (s.modSlice c.ref (fun sl =>
        let sl := (List.range (if w64 then 2 else 1)).foldl (fun (sl : Slice) j =>
          sl.setLanesP (c.g.w.d.toNat + j) c.eff (Lanes.ofFn (fun i => (x i).1.getD j 0)) (Lanes.ofFn (fun i => (x i).2))) sl
        sl.setMask k c.eff), .next)

/-! ### Barriers (R216 to R219) -/

/-- The checks of a barrier's address: inside the scratchpad, then aligned to 8 (R216). -/
def barrierCheck (g : Group) (a : Nat) (eff : Mask) : Option Trap :=
  if 4096 * g.pages < a + 24 then some ⟨0x0A, dword a, eff, 1⟩
  else if a % 8 ≠ 0 then some ⟨0x07, dword a, eff, 8⟩
  else none

/-- A barrier instruction at its address: the checks, the presence of the object, then what it does. -/
def atBarrier (c : Ctx) (s : State) (f : Nat → State → State × Fate) : State × Fate :=
  let a := uni c s c.g.w.a.toNat
  match barrierCheck (s.group c.ref.gid) a c.eff with
  | some t => (s, .trap t)
  | none =>
    match s.absentAmong c.ref.gid (barrierLines a) with
    | (s, some l) => (s, .park (absentWait l))
    | (s, none) => f a s

def tagOf (c : Ctx) : Nat := WForm.field c.g.w 51 50

def actBinit (c : Ctx) (s : State) : State × Fate := atBarrier c s (fun a s => (s.initBarrier c.ref.gid a, .next))

def actBexp (c : Ctx) (s : State) : State × Fate :=
  atBarrier c s (fun a s =>
    match ((s.group c.ref.gid).barrierAt a).post (tagOf c) (uni c s c.g.w.b.toNat) with
    | .inl code => (s, .trap ⟨0x11, dword a, c.eff, word code⟩)
    | .inr r => (s.setBarrier c.ref.gid a r.1 r.2, .next))

/-- BARV: an arrival that sets MIS is reported to its slice (R219). -/
def actBarv (c : Ctx) (s : State) : State × Fate :=
  atBarrier c s (fun a s =>
    match s.arriveAt c.ref.gid a (tagOf c) (uni c s c.g.w.b.toNat) with
    | (s, true) => (s, .trap ⟨0x11, dword a, c.eff, 1⟩)
    | (s, false) => (s, .next))

/-- A wait that is a cancel point: a pending cancel is taken before it begins (R146). -/
def parkOrCancel (c : Ctx) (s : State) (w : Wait) : State × Fate :=
  match s.pending c.ref c.eff with
  | some t => (s, .trap t)
  | none => (s, .park w)

def actBwait (c : Ctx) (s : State) : State × Fate :=
  atBarrier c s (fun a s =>
    match s.tryBwait c.ref a (tagOf c) c.eff with
    | some x => x
    | none => parkOrCancel c s (.bwait a (tagOf c) c.eff c.g.next))

/-! ### Copy batches (R230) -/

def actCseal (c : Ctx) (s : State) : State × Fate :=
  let d := if c.g.w.d = 0 then none else some c.g.w.d.toNat
  match s.tryCseal c.ref d c.eff with
  | some x => x
  | none => parkOrCancel c s (.cseal d c.eff c.g.next)

def actCwait (c : Ctx) (s : State) : State × Fate :=
  let n := WForm.field c.g.w 53 50
  match s.tryCwait c.ref n c.eff with
  | some x => x
  | none => parkOrCancel c s (.cwait n c.eff c.g.next)

/-! ### The group barrier (R221) -/

/-- Whether a slice waits at the group barrier. -/
def Slice.atGsync (sl : Slice) : Bool := match sl.wait with | some (.gsync _ _) => true | _ => false

/-- Every unexited slice of a group waits at the group barrier, or arrives now. -/
def Group.gsyncFull (g : Group) (now : List Nat) : Bool :=
  (g.slices.zipIdx).all (fun x => x.1.ended || x.1.atGsync || now.contains x.2)

/-- The generation completes: every waiting slice goes on (R221). -/
def State.releaseGsync (s : State) (gid : Nat) : State :=
  let g := s.group gid
  let s := (g.slices.zipIdx).foldl (fun s x => match x.1.wait with
    | some (.gsync _ next) => s.resume ⟨gid, x.2⟩ 0 next .next
    | _ => s) s
  s.modGroup gid (fun g => { g with gsyncGen := g.gsyncGen + 1 })

/-- GSYNC for the slices of a subgang: armed flags trap; the last arrival of a generation completes it at once (R31, R221). -/
def runGsync : Run := fun cs s =>
  match cs with
  | [] => ⟨s, [], .next⟩
  | c0 :: _ =>
    let g := s.group c0.ref.gid
    let trapped (c : Ctx) : Option Trap := armedTrap (g.slice c.ref.idx) g.gsat c.eff
    let now := (cs.filter (fun c => (trapped c).isNone)).map (fun c => c.ref.idx)
    let full := !now.isEmpty && g.gsyncFull now
    let s := if full then s.releaseGsync c0.ref.gid else s
    ⟨s, cs.map (fun c => (c.ref.idx, match trapped c with
      | some t => .trap t
      | none => if full then .next else .park (.gsync c.eff c.g.next))), .next⟩

/-! ### Meanings -/

def execCseal (p : List Prefix) (w : WForm) (s : State) : Outcome := issueEach 0x73 true p w actCseal s
def execCwait (p : List Prefix) (w : WForm) (s : State) : Outcome := issueEach 0x74 true p w actCwait s
def execQinit (p : List Prefix) (w : WForm) (s : State) : Outcome := issueEach 0x75 true p w actQinit s
def execQpush (p : List Prefix) (w : WForm) (s : State) : Outcome := issue 0x76 true p w (ownQueue true) (eachSlice actQpush) s
def execQpop (p : List Prefix) (w : WForm) (s : State) : Outcome := issue 0x77 true p w (ownQueue false) (eachSlice actQpop) s
def execQpeek (p : List Prefix) (w : WForm) (s : State) : Outcome := issue 0x78 true p w (ownQueue false) (eachSlice actQpeek) s
def execBinit (p : List Prefix) (w : WForm) (s : State) : Outcome := issueEach 0x79 true p w actBinit s
def execBexp (p : List Prefix) (w : WForm) (s : State) : Outcome := issueEach 0x7A true p w actBexp s
def execBarv (p : List Prefix) (w : WForm) (s : State) : Outcome := issueEach 0x7B true p w actBarv s
def execBwait (p : List Prefix) (w : WForm) (s : State) : Outcome := issueEach 0x7C true p w actBwait s
def execGsyncC (p : List Prefix) (w : CForm) (s : State) : Outcome := issue 0x7D false p (expand w) ownNone runGsync s
def execGsync (p : List Prefix) (w : WForm) (s : State) : Outcome := issue 0x7D true p w ownNone runGsync s
def execSppin (p : List Prefix) (w : WForm) (s : State) : Outcome := issueEach 0x7E true p w actSppin s
def execSpunp (p : List Prefix) (w : WForm) (s : State) : Outcome := issueEach 0x7F true p w actSpunp s

end Sys2Proof.Machine
end

