-- ==== Sys2Proof/Machine/Transcendental.lean ====
section
/-! DEFINITION. The transcendental functions of R113 as exact values carried to 2^-256 with a last odd digit, so that the one rounding of R97 is the rounding of the exact value. -/

namespace Sys2Proof.Machine

/-- Fraction bits of the working fixed-point numbers. -/
def fixBits : Nat := 448

/-- One in the working fixed point. -/
def fixOne : Nat := 2 ^ fixBits

/-- The terms `z^(2k+1)/(2k+1)` of the inverse hyperbolic tangent, `pow` holding the odd power of term `k`. -/
def atanhTerms (zz : Nat) : Nat → Nat → Nat → Nat → Nat
  | 0, _, _, acc => acc
  | n + 1, k, pow, acc => atanhTerms zz n (k + 1) (pow * zz / fixOne) (acc + pow / (2 * k + 1))

/-- `atanh z` for a fixed-point `z` of at most one third. -/
def atanhFix (z : Nat) : Nat := atanhTerms (z * z / fixOne) 150 0 z 0

/-- `ln 2 = 2 atanh(1/3)`. -/
def ln2Fix : Nat := 2 * atanhFix (fixOne / 3)

/-- The terms of the inverse tangent of `1/d`, positive and negative ones summed apart. -/
def atanInvTerms (dd : Nat) : Nat → Nat → Nat → Nat × Nat → Nat × Nat
  | 0, _, _, acc => acc
  | n + 1, k, pow, acc =>
    atanInvTerms dd n (k + 1) (pow / dd)
      (if k % 2 = 0 then (acc.1 + pow / (2 * k + 1), acc.2) else (acc.1, acc.2 + pow / (2 * k + 1)))

/-- `atan (1/d)`. -/
def atanInvFix (d : Nat) : Nat :=
  let t := atanInvTerms (d * d) 110 0 (fixOne / d) (0, 0)
  t.1 - t.2

/-- `pi = 16 atan(1/5) - 4 atan(1/239)`. -/
def piFix : Nat := 16 * atanInvFix 5 - 4 * atanInvFix 239

/-- The terms of the exponential series. -/
def expTerms (x : Nat) : Nat → Nat → Nat → Nat → Nat
  | 0, _, _, acc => acc
  | n + 1, k, term, acc =>
    let t := term * x / fixOne / k
    expTerms x n (k + 1) t (acc + t)

/-- `exp x` for a fixed-point `x` below one. -/
def expFix (x : Nat) : Nat := expTerms x 110 1 fixOne fixOne

/-- The terms of the sine series, positive and negative ones summed apart; `term` holds `x^(2k+1)/(2k+1)!`. -/
def sinTerms (xx : Nat) : Nat → Nat → Nat → Nat × Nat → Nat × Nat
  | 0, _, _, acc => acc
  | n + 1, k, term, acc =>
    sinTerms xx n (k + 1) (term * xx / fixOne / ((2 * k + 2) * (2 * k + 3)))
      (if k % 2 = 0 then (acc.1 + term, acc.2) else (acc.1, acc.2 + term))

/-- `sin x` for a fixed-point `x` of at most pi/2. -/
def sinFix (x : Nat) : Nat :=
  let t := sinTerms (x * x / fixOne) 60 0 x (0, 0)
  t.1 - t.2

/-- A positive irrational known as the fixed-point `v`, up to an error below 2^28 units, as a number with an odd last digit. -/
def Num.ofFix (neg : Bool) (v : Nat) (exp : Int) : Num :=
  .fin neg (stickyMag ((v - 2 ^ 28) / 2 ^ (fixBits - 256)) false) (exp - 257)

/-- `2^a` (FEXP2). -/
def Num.exp2 (a : Num) : Flagged :=
  match a with
  | .nan s => ⟨.nan false, flagIf s flagNV⟩
  | .inf n => if n then ⟨.fin false 0 0, 0⟩ else ⟨.inf false, 0⟩
  | .fin n m e =>
    if 0 ≤ e then ⟨.fin false 1 (scaledInt n m e 0), 0⟩
    else
      let d : Nat := 2 ^ (-e).toNat
      let v : Int := if n then -(m : Int) else m
      let whole := v.fdiv (d : Int)
      let frac := (v - whole * d).toNat
      if frac = 0 then ⟨.fin false 1 whole, 0⟩
      else ⟨Num.ofFix false (expFix (frac * fixOne / d * ln2Fix / fixOne)) whole, 0⟩

/-- `log2 a` (FLOG2). -/
def Num.log2 (a : Num) : Flagged :=
  match a with
  | .nan s => ⟨.nan false, flagIf s flagNV⟩
  | .inf n => if n then ⟨.nan false, flagNV⟩ else ⟨.inf false, 0⟩
  | .fin n m e =>
    if m = 0 then ⟨.inf true, flagDZ⟩
    else if n then ⟨.nan false, flagNV⟩
    else
      let l := bitLen m - 1
      let whole : Int := e + l
      if m = 2 ^ l then ⟨Num.ofInt whole, 0⟩
      else
        let ln := 2 * atanhFix ((m - 2 ^ l) * fixOne / (m + 2 ^ l))
        let t : Int := whole * fixOne + (ln * fixOne / ln2Fix : Nat)
        ⟨Num.ofFix (decide (t < 0)) t.natAbs 0, 0⟩

/-- `sin(pi t)` for `t = num/den`, the argument's own sign being `neg`; `halves` half turns are added first. -/
def sinPiOf (num den : Nat) : Num :=
  let t := num % (2 * den)
  let neg := decide (den ≤ t)
  let u := t % den
  let u := if den < 2 * u then den - u else u
  if u = 0 then .fin false 0 0
  else if 2 * u = den then .fin neg 1 0
  else Num.ofFix neg (sinFix (u * fixOne / den * piFix / fixOne)) 0

/-- `sin(pi a)` (FSIN). -/
def Num.sinPi (a : Num) : Flagged :=
  match a with
  | .nan s => ⟨.nan false, flagIf s flagNV⟩
  | .inf _ => ⟨.nan false, flagNV⟩
  | .fin n m e =>
    let v := if 0 ≤ e then sinPiOf (m * 2 ^ e.toNat) 1 else sinPiOf m (2 ^ (-e).toNat)
    if v.isZero then ⟨.fin n 0 0, 0⟩ else ⟨if n then v.negate else v, 0⟩

/-- `cos(pi a)` (FCOS). -/
def Num.cosPi (a : Num) : Flagged :=
  match a with
  | .nan s => ⟨.nan false, flagIf s flagNV⟩
  | .inf _ => ⟨.nan false, flagNV⟩
  | .fin _ m e =>
    ⟨if 0 ≤ e then sinPiOf (2 * (m * 2 ^ e.toNat) + 1) 2 else sinPiOf (2 * m + 2 ^ (-e).toNat) (2 * 2 ^ (-e).toNat), 0⟩

end Sys2Proof.Machine
end

