-- ==== Sys2Proof/Machine/LaneFloat.lean ====
section
/-! DEFINITION. Lane instructions on floating-point values: arithmetic, minimum and maximum, comparison, classification, integral rounding, scaling, the transcendental functions and dot products (R104, R113 to R116, R120). -/

namespace Sys2Proof.Machine

/-- The IEEE format of an FTY code (R94). -/
def ftyFmt : Nat → FloatFmt
  | 0 => fmtF32
  | 1 => fmtF64
  | 2 => fmtF16
  | _ => fmtBF16

def ftyOf (c : Ctx) : Nat := WForm.field c.g.w 51 50

/-- The rounding mode of a slice's instruction (R97). -/
def rmOf (c : Ctx) (sl : Slice) : Rounding := roundingOf c.g.pfx sl.fmt

/-- `round_fmt` of an exact result, with the flags of forming it (R97). -/
def deliverFmt (F : FloatFmt) (rm : Rounding) (x : Flagged) : Dword × Flags :=
  let r := F.round rm x.num
  (dword r.bits, x.flags ||| r.flags)

/-- A floating instruction under FTY: `f rm a b c` is the exact result. -/
def laneFloat (f : Rounding → Num → Num → Num → Flagged) (c : Ctx) (s : State) : State × Fate :=
  let n := ftyWords (ftyOf c)
  let F := ftyFmt (ftyOf c)
  laneResult n (fun c sl i =>
    deliverFmt F (rmOf c sl) (f (rmOf c sl) (F.decode (opA n c sl i)) (F.decode (opB n c sl i)) (F.decode (opC n c sl i)))) c s

def floatAdd (rm : Rounding) (a b _ : Num) : Flagged := Num.add rm a b
def floatSub (rm : Rounding) (a b _ : Num) : Flagged := Num.add rm a b.negate
def floatMul (_ : Rounding) (a b _ : Num) : Flagged := Num.mul a b
/-- The exact value of `a * b + c` (R86). -/
def floatFma (rm : Rounding) (a b c : Num) : Flagged := Num.sum rm [Num.mul a b, ⟨c, c.sigFlag⟩]
def floatDiv (_ : Rounding) (a b _ : Num) : Flagged := Num.div a b
def floatSqrt (_ : Rounding) (a _ _ : Num) : Flagged := Num.sqrt a
def floatRcp (_ : Rounding) (a _ _ : Num) : Flagged := Num.div (.fin false 1 0) a
def floatRsq (_ : Rounding) (a _ _ : Num) : Flagged := Num.rsqrt a
def floatInt (rm : Rounding) (a _ _ : Num) : Flagged := Num.integral rm a
def floatExp2 (_ : Rounding) (a _ _ : Num) : Flagged := Num.exp2 a
def floatLog2 (_ : Rounding) (a _ _ : Num) : Flagged := Num.log2 a
def floatSin (_ : Rounding) (a _ _ : Num) : Flagged := Num.sinPi a
def floatCos (_ : Rounding) (a _ _ : Num) : Flagged := Num.cosPi a

/-- The bits FMIN or FMAX chooses and its flags: the other operand beside one NaN, the canonical NaN for two (R115). -/
def chooseFloat (F : FloatFmt) (less : Bool) (a b : Nat) : Nat × Flags :=
  let x := F.decode a
  let y := F.decode b
  let f := x.sigFlag ||| y.sigFlag
  if x.isNaN then (if y.isNaN then F.canonNaN else b, f)
  else if y.isNaN then (a, f)
  else (if less then (if y.ltSigned x then b else a) else (if x.ltSigned y then b else a), f)

/-- FMIN and FMAX; a value of 16 bits leaves the bits above it zero (R69). -/
def actChoose (less : Bool) (c : Ctx) (s : State) : State × Fate :=
  let n := ftyWords (ftyOf c)
  let F := ftyFmt (ftyOf c)
  laneResult n (fun c sl i =>
    let r := chooseFloat F less (opA n c sl i % 2 ^ F.width) (opB n c sl i % 2 ^ F.width)
    (dword r.1, r.2)) c s

/-- The outcome of an FCMP condition (R104). -/
def floatCond (cond : Nat) (a b : Num) : Bool :=
  let nan := a.isNaN || b.isNaN
  match cond with
  | 6 => nan
  | 7 => !nan
  | 1 => nan || condOn 1 (a.cmp b)
  | k => !nan && condOn k (a.cmp b)

/-- The flag of an FCMP: NV for a signalling NaN, and for a quiet one under the ordering conditions (R104). -/
def floatCondFlags (cond : Nat) (a b : Num) : Flags :=
  a.sigFlag ||| b.sigFlag ||| flagIf ((a.isNaN || b.isNaN) && decide (2 ≤ cond) && decide (cond ≤ 5)) flagNV

def actFcmp (c : Ctx) (s : State) : State × Fate :=
  let n := ftyWords (ftyOf c)
  let F := ftyFmt (ftyOf c)
  let sl := s.slice c.ref
  let k := WForm.field c.g.w 57 55
  let cond := WForm.field c.g.w 54 52
  let a (i : Nat) : Num := F.decode (opA n c sl i)
  let b (i : Nat) : Num := F.decode (opB n c sl i)
  let s := writeMaskLanes k (fun i => combineBit (WForm.field c.g.w 59 58) ((sl.mask k).getLsbD i) (floatCond cond (a i) (b i))) c s
  (if c.g.w.nf then s else s.raiseFlags c.ref c.eff (Lanes.ofFn (fun i => floatCondFlags cond (a i) (b i))), .next)

/-- The class bit of a value (R116). -/
def classBit (F : FloatFmt) (x : Nat) : Nat :=
  match F.decode x with
  | .nan sig => if sig then 8 else 9
  | .inf neg => if neg then 0 else 7
  | .fin neg mag _ =>
    if mag = 0 then (if neg then 3 else 4)
    else if mag < 2 ^ F.mbits then (if neg then 2 else 5)
    else (if neg then 1 else 6)

def actFclass (c : Ctx) (s : State) : State × Fate :=
  let n := ftyWords (ftyOf c)
  laneResult 1 (fun c sl i => (dword (2 ^ classBit (ftyFmt (ftyOf c)) (opA n c sl i)), 0)) c s

/-- FSCALE: b is a 32-bit signed integer (R113). -/
def actFscale (c : Ctx) (s : State) : State × Fate :=
  let n := ftyWords (ftyOf c)
  let F := ftyFmt (ftyOf c)
  laneResult n (fun c sl i => deliverFmt F (rmOf c sl) ((F.decode (opA n c sl i)).scale (signedOf 32 (opB 1 c sl i)))) c s

/-- Element `j` of 16 bits of an operand, read as f16 or bf16 (R120). -/
def halfAt (bf : Bool) (x j : Nat) : Num := (if bf then fmtBF16 else fmtF16).decode (x / 2 ^ (16 * j) % 2 ^ 16)

/-- FDOT2 and FDOT4: `k` products and the addend summed exactly and rounded once (R86, R120). -/
def actFdot (k : Nat) (c : Ctx) (s : State) : State × Fate :=
  let n := k / 2
  let bf := WForm.field c.g.w 50 50 == 1
  laneResult 1 (fun c sl i =>
    let add := fmtF32.decode (opC 1 c sl i)
    let terms := (List.range k).map (fun j => Num.mul (halfAt bf (opA n c sl i) j) (halfAt bf (opB n c sl i) j))
    deliverFmt fmtF32 (rmOf c sl) (Num.sum (rmOf c sl) (terms ++ [⟨add, add.sigFlag⟩]))) c s

/-- IDOT4: four byte products and the addend, wrapped (R120). -/
def actIdot4 (c : Ctx) (s : State) : State × Fate :=
  let ext (sg : Bool) (x j : Nat) : Int := intValue sg 8 (x / 2 ^ (8 * j) % 256)
  let sa := WForm.field c.g.w 50 50 == 1
  let sb := WForm.field c.g.w 51 51 == 1
  laneResult 1 (fun c sl i =>
    let t := ((List.range 4).map (fun j => ext sa (opA 1 c sl i) j * ext sb (opB 1 c sl i) j)).foldl (· + ·) (opC 1 c sl i : Int)
    (dword (wrapInt 32 t), 0)) c s

/-! ### Meanings -/

def execFaddC (p : List Prefix) (w : CForm) (s : State) : Outcome := issueEach 0x20 false p (expand w) (laneFloat floatAdd) s
def execFadd (p : List Prefix) (w : WForm) (s : State) : Outcome := issueEach 0x20 true p w (laneFloat floatAdd) s
def execFsubC (p : List Prefix) (w : CForm) (s : State) : Outcome := issueEach 0x21 false p (expand w) (laneFloat floatSub) s
def execFsub (p : List Prefix) (w : WForm) (s : State) : Outcome := issueEach 0x21 true p w (laneFloat floatSub) s
def execFmulC (p : List Prefix) (w : CForm) (s : State) : Outcome := issueEach 0x22 false p (expand w) (laneFloat floatMul) s
def execFmul (p : List Prefix) (w : WForm) (s : State) : Outcome := issueEach 0x22 true p w (laneFloat floatMul) s
def execFfma (p : List Prefix) (w : WForm) (s : State) : Outcome := issueEach 0x23 true p w (laneFloat floatFma) s
def execFminC (p : List Prefix) (w : CForm) (s : State) : Outcome := issueEach 0x24 false p (expand w) (actChoose true) s
def execFmin (p : List Prefix) (w : WForm) (s : State) : Outcome := issueEach 0x24 true p w (actChoose true) s
def execFmaxC (p : List Prefix) (w : CForm) (s : State) : Outcome := issueEach 0x25 false p (expand w) (actChoose false) s
def execFmax (p : List Prefix) (w : WForm) (s : State) : Outcome := issueEach 0x25 true p w (actChoose false) s
def execFdiv (p : List Prefix) (w : WForm) (s : State) : Outcome := issueEach 0x26 true p w (laneFloat floatDiv) s
def execFsqrt (p : List Prefix) (w : WForm) (s : State) : Outcome := issueEach 0x27 true p w (laneFloat floatSqrt) s
def execFrcp (p : List Prefix) (w : WForm) (s : State) : Outcome := issueEach 0x28 true p w (laneFloat floatRcp) s
def execFrsq (p : List Prefix) (w : WForm) (s : State) : Outcome := issueEach 0x29 true p w (laneFloat floatRsq) s
def execFexp2 (p : List Prefix) (w : WForm) (s : State) : Outcome := issueEach 0x2A true p w (laneFloat floatExp2) s
def execFlog2 (p : List Prefix) (w : WForm) (s : State) : Outcome := issueEach 0x2B true p w (laneFloat floatLog2) s
def execFsin (p : List Prefix) (w : WForm) (s : State) : Outcome := issueEach 0x2C true p w (laneFloat floatSin) s
def execFcos (p : List Prefix) (w : WForm) (s : State) : Outcome := issueEach 0x2D true p w (laneFloat floatCos) s
def execFcmp (p : List Prefix) (w : WForm) (s : State) : Outcome := issueEach 0x2E true p w actFcmp s
def execFclass (p : List Prefix) (w : WForm) (s : State) : Outcome := issueEach 0x2F true p w actFclass s
def execFrnd (p : List Prefix) (w : WForm) (s : State) : Outcome := issueEach 0x34 true p w (laneFloat floatInt) s
def execFscale (p : List Prefix) (w : WForm) (s : State) : Outcome := issueEach 0x35 true p w actFscale s
def execFdot2 (p : List Prefix) (w : WForm) (s : State) : Outcome := issueEach 0x36 true p w (actFdot 2) s
def execFdot4 (p : List Prefix) (w : WForm) (s : State) : Outcome := issueEach 0x37 true p w (actFdot 4) s
def execIdot4 (p : List Prefix) (w : WForm) (s : State) : Outcome := issueEach 0x38 true p w actIdot4 s

end Sys2Proof.Machine
end

