-- ==== Sys2Proof/Machine/LaneConv.lean ====
section
/-! DEFINITION. Conversion instructions: `CVT`, `CVTN` with its packing and overflow policy, and BX blocks in registers (R83 to R85, R117 to R119). -/

namespace Sys2Proof.Machine

/-- The rounding and saturation of a conversion in a slice (R82, R83). -/
def saturationOf (c : Ctx) (sl : Slice) : Saturation := ⟨modeB sl.fmt, c.g.pfx.ovf.map (· % 4)⟩

/-- An operand converted between scalar formats. -/
def convertAt (c : Ctx) (sl : Slice) (src dst x : Nat) : Converted := toCode dst (rmOf c sl) (saturationOf c sl) (decodeCode src x)

/-- CVT (R117). -/
def actCvt (c : Ctx) (s : State) : State × Fate :=
  let src := WForm.field c.g.w 53 50
  let dst := WForm.field c.g.w 57 54
  laneResult (codeWords dst) (fun c sl i =>
    let r := convertAt c sl src dst (opA (codeWords src) c sl i)
    (dword (extendCode dst r.bits), r.flags)) c s

/-- `n` registers from d written in the effective lanes from numbers of 32 × n bits, and flags. -/
def writeBlock (n : Nat) (x : Lanes Converted) (c : Ctx) (s : State) : State :=
  let d := c.g.w.d.toNat
  let s := s.modSlice c.ref (fun sl =>
    (List.range n).foldl (fun sl k => sl.setLanes (d + k) c.eff (Lanes.ofFn (fun i => word ((x.get i).bits / 2 ^ (32 * k) % 2 ^ 32)))) sl)
  if c.g.w.nf then s else s.raiseFlags c.ref c.eff (Lanes.ofFn (fun i => (x.get i).flags))

/-- Sixteen registers from a, read in a format, as one BX block (R119). -/
def packAt (c : Ctx) (sl : Slice) (src m i : Nat) : Converted :=
  bxEncode m (rmOf c sl) (saturationOf c sl) ((sl.operandWords c.g.w.a.toNat 16 i).map (fun x => decodeCode src x.toNat))

/-- A conversion's results written, or the overflow-policy trap of the lanes that met its case (R85). -/
def deliverConverted (dst n : Nat) (x : Lanes Converted) (c : Ctx) (s : State) : State × Fate :=
  let met := c.eff &&& Mask.ofFn (fun i => (x.get i).met)
  if met ≠ 0 then (s, .trap ⟨0x0C, c.g.addr, met, word dst⟩) else (writeBlock n x c s, .next)

/-- The scalar result of CVTN in a lane: one, two or packed elements (R118). -/
def narrowAt (c : Ctx) (sl : Slice) (src dst : Nat) (pk : Bool) (i : Nat) : Converted :=
  let n := codeWords src
  let ra := convertAt c sl src dst (opA n c sl i)
  if !pk then { ra with bits := extendCode dst ra.bits }
  else
    let rb := convertAt c sl src dst (opB n c sl i)
    let both : Nat := rb.bits * 2 ^ codeWidth dst + ra.bits
    { bits := if codeWidth dst = 16 then both else opC 1 c sl i % 2 ^ 16 * 2 ^ 16 + both
      flags := ra.flags ||| rb.flags
      met := ra.met || rb.met }

/-- CVTN (R118). -/
def actCvtn (c : Ctx) (s : State) : State × Fate :=
  let src := WForm.field c.g.w 53 50
  let dst := WForm.field c.g.w 57 54
  let sl := s.slice c.ref
  if 12 ≤ dst then deliverConverted dst (bxRegs (dst - 12)) (Lanes.ofFn (packAt c sl src (bxBits dst))) c s
  else deliverConverted dst 1 (Lanes.ofFn (narrowAt c sl src dst (WForm.field c.g.w 58 58 == 1))) c s

/-- The format code of the SRC field of PACKBX: f32, f16 or bf16 (R93). -/
def bxSource : Nat → Nat
  | 0 => 10
  | 1 => 8
  | _ => 9

/-- PACKBX (R119). -/
def actPackbx (c : Ctx) (s : State) : State × Fate :=
  let bx := WForm.field c.g.w 53 52
  let sl := s.slice c.ref
  (writeBlock (bxRegs bx) (Lanes.ofFn (packAt c sl (bxSource (WForm.field c.g.w 51 50)) (bxBits (12 + bx)))) c s, .next)

/-- The words of a register list as one number, lowest first. -/
def wordsNum : List Word → Nat
  | [] => 0
  | x :: xs => x.toNat + 2 ^ 32 * wordsNum xs

/-- UNPKBX (R77, R119). -/
def actUnpkbx (c : Ctx) (s : State) : State × Fate :=
  let dst := bxSource (WForm.field c.g.w 51 50)
  let bx := WForm.field c.g.w 53 52
  let sl := s.slice c.ref
  let el (i : Nat) : List Converted :=
    let block := wordsNum (sl.operandWords c.g.w.a.toNat (bxRegs bx) i)
    (List.range 16).map (fun j => toCode dst .rne ⟨modeB sl.fmt, none⟩ (bxElement (bxBits (12 + bx)) block j))
  let all (i : Nat) : Converted :=
    ⟨((el i).mapIdx (fun j r => r.bits * 2 ^ (32 * j))).foldl (· + ·) 0, ((el i).map Converted.flags).foldl (· ||| ·) 0, false⟩
  (writeBlock 16 (Lanes.ofFn all) c s, .next)

def execCvt (p : List Prefix) (w : WForm) (s : State) : Outcome := issueEach 0x30 true p w actCvt s
def execCvtn (p : List Prefix) (w : WForm) (s : State) : Outcome := issueEach 0x31 true p w actCvtn s
def execPackbx (p : List Prefix) (w : WForm) (s : State) : Outcome := issueEach 0x32 true p w actPackbx s
def execUnpkbx (p : List Prefix) (w : WForm) (s : State) : Outcome := issueEach 0x33 true p w actUnpkbx s

end Sys2Proof.Machine
end

