-- ==== Sys2Proof/Machine/Copy.lean ====
section
/-! DEFINITION. The copy engine: posting copies and multicasts, their checks, the landing of their pieces, their faults and their ends (R222 to R233, R298 to R302). -/

namespace Sys2Proof.Machine

/-! ### Spans in a space -/

/-- The first byte of `n` bytes at `a` that lies outside a space, or outside the canonical addresses for `glb`. -/
def firstOutside (g : Group) (sp : Space) (a n : Nat) : Option Nat :=
  if n = 0 then none
  else
    match sp with
    | .glb => if !canonical (dword a) then some a else if a < 2 ^ 56 ∧ 2 ^ 56 < a + n then some (2 ^ 56) else none
    | sp => if g.spaceSize sp < a + n then some (max a (g.spaceSize sp)) else none

/-- The lowest number of a list. -/
def lowestOf : List Nat → Option Nat
  | [] => none
  | x :: rest => match lowestOf rest with | some y => some (min x y) | none => some x

/-- One extent of a copy: its space, its row starts, its row length and its required alignment. -/
structure Extent where
  space : Space
  starts : List Nat
  len : Nat
  align : Nat
  deriving DecidableEq, Repr

/-- The addresses at which extents fail a check of their spans, lowest first with its space. -/
def outsideOf (g : Group) (glb : Bool) (xs : List Extent) : Option (Nat × Space) :=
  let bad := xs.flatMap (fun x => if (x.space == .glb) == glb then (x.starts.filterMap (fun a => firstOutside g x.space a x.len)).map (fun a => (a, x.space)) else [])
  match lowestOf (bad.map Prod.fst) with
  | none => none
  | some a => bad.find? (fun b => b.1 == a)

/-- The lowest misaligned row start of some extents with the alignment it lacks. -/
def misalignedOf (xs : List Extent) : Option (Nat × Nat) :=
  let bad := xs.flatMap (fun x => (x.starts.filter (fun a => a % x.align != 0)).map (fun a => (a, x.align)))
  match lowestOf (bad.map Prod.fst) with
  | none => none
  | some a => bad.find? (fun b => b.1 == a)

/-- The checks of R228 over the extents of a copy, then over its length. -/
def copyChecks (g : Group) (eff : Mask) (xs : List Extent) (length unit : Nat) : Option Trap :=
  match outsideOf g false xs with
  | some (a, sp) => some ⟨0x0A, dword a, eff, word sp.code⟩
  | none =>
    match outsideOf g true xs with
    | some (a, _) => some ⟨0x09, dword a, eff, 1⟩
    | none =>
      match misalignedOf xs with
      | some (a, n) => some ⟨0x07, dword a, eff, word n⟩
      | none => if unit ≠ 0 ∧ length % unit ≠ 0 then some ⟨0x07, dword length, eff, word unit⟩ else none

/-! ### Posting (R222 to R224, R226, R228 to R230) -/

/-- The bytes of a format of R67. -/
def codeBytes (c : Nat) : Nat := codeWidth c / 8

/-- Bytes of a TY of CPYR. -/
def cpyrBytes (ty : Nat) : Nat := if ty = 2 ∨ ty = 3 ∨ ty = 5 then 8 else 4

/-- A 64-bit uniform operand in a pair. -/
def uniPair (c : Ctx) (s : State) (spec : Nat) : Dword := pairAt (s.slice c.ref) spec

/-- The barrier named by a copy: its address and tag. -/
def barrierOf (c : Ctx) (s : State) (bar tag : Nat) : Option (Nat × Nat) := if bar = 1 then some (uni c s c.g.w.c.toNat, tag) else none

/-- A copy with no shape yet, posted by a slice: its place, batch, order, scope and mask. -/
def Copy.posted (c : Ctx) (s : State) (kind : CopyKind) : Copy :=
  let g := s.group c.ref.gid
  let sl := s.slice c.ref
  { id := s.nextCopy, kind := kind, gid := c.ref.gid, idx := c.ref.idx, uid := g.uid, part := g.part, dsp := .glb, ssp := .glb, dst := 0, src := 0,
    rowLen := 0, rows := 0, dstStride := 0, srcStride := 0, cvt := none, satB := modeB sl.fmt, index := 0, fe := 0, barrier := none,
    batch := sl.copies.current, order := s.nextCopy, scope := c.g.pfx.scope 4, acquire := c.g.pfx.order 0 % 2 == 1,
    release := decide (2 ≤ c.g.pfx.order 0), nf := c.g.w.nf, mask := c.eff, landed := [], block := none, flags := 0, fault := none, misuse := false,
    receivers := [], first := 0, status := none, dones := 0, drops := 0 }

/-- The row starts of a side of a copy. -/
def rowStarts (base stride rows : Nat) : List Nat := (List.range rows).map (fun r => base + r * stride)

/-- Row length, rows and strides of a copy's 2D or linear shape (R223). -/
structure CopyShape where
  len : Nat
  rows : Nat
  ds : Nat
  ss : Nat
  deriving DecidableEq, Repr

def copyShape (two : Bool) (b xi : Nat) : CopyShape :=
  if two then ⟨bits b 15 0, bits b 31 16, bits xi 26 14 * 16, bits xi 13 0 * 16⟩ else ⟨b, if b = 0 then 0 else 1, 0, 0⟩

/-- Whether a copy is complete as soon as it is issued: it moves no byte and sends no signal (R224, R229, R455). -/
def Copy.trivial (k : Copy) : Bool :=
  k.total == 0 && (match k.kind with | .mcast => false | .puts _ _ dec _ => dec.isNone | _ => true)

/-- A copy joins the engine; one that moves no byte is complete at once (R224, R229). -/
def State.postCopy (s : State) (c : Ctx) (k : Copy) : State × Fate :=
  let g := s.group c.ref.gid
  let s := { s with nextCopy := s.nextCopy + 1 }
  let s := if k.acquire then s.acquire g.coreRef k.scope else s
  if k.trivial then (s, .next)
  else (s.modCore g.coreRef (fun x => { x with copies := x.copies ++ [k] }), .next)

/-- The extent of a side of a copy: its rows, or its address alone where it has no row, since a copy that moves no byte is checked too (R224, R228). -/
def rowExtent (sp : Space) (base stride rows len align : Nat) : Extent :=
  if rows = 0 then ⟨sp, [base], 0, align⟩ else ⟨sp, rowStarts base stride rows, len, align⟩

/-- The barrier object as an extent of a copy. -/
def barrierExtent (b : Option (Nat × Nat)) : List Extent := match b with | some x => [⟨.scr, [x.1], 24, 8⟩] | none => []

/-- CPY (R222 to R228). Where it converts with `fill` and an element size is no multiple of 8, the spec states no `XADDR` (R226): a free value, log 75. -/
def actCpy (c : Ctx) (s : State) : State × Fate :=
  let f := WForm.field c.g.w
  let g := s.group c.ref.gid
  let two := f 61 61 == 1
  let xi := c.g.pfx.xi.getD 0
  let b := uni c s c.g.w.b.toNat
  let sh := copyShape two b xi
  let cvt : Option (Nat × Nat × Nat) := if two || c.g.pfx.xi.isNone then none else some (bits xi 3 0, bits xi 7 4, bits xi 10 8)
  let dlen := match cvt with | some x => sh.len / codeBytes x.1 * codeBytes x.2.1 | none => sh.len
  let fe := f 57 56
  let al := if fe = 0 then 1 else 8
  let bar := barrierOf c s (f 58 58) (f 60 59)
  let dst := uniPair c s c.g.w.d.toNat
  let src := uniPair c s c.g.w.a.toNat
  let size (code : Nat × Nat × Nat → Nat) : Nat := match cvt with | some x => codeBytes (code x) | none => 1
  let xs := [rowExtent (spaceOf (f 52 50)) dst.toNat sh.ds sh.rows dlen (max al (size (fun x => x.2.1))),
    rowExtent (spaceOf (f 55 53)) src.toNat sh.ss sh.rows sh.len (max al (size (fun x => x.1)))]
  match copyChecks g c.eff (xs ++ barrierExtent bar) sh.len (max al (size (fun x => x.1))) with
  | some t => (s, .trap t)
  | none =>
    if fe ≠ 0 ∧ cvt.isSome ∧ (size (fun x => x.1) % 8 ≠ 0 ∨ size (fun x => x.2.1) % 8 ≠ 0) then (s, .trap ⟨0x07, s.unstated c.ref.idx, c.eff, 8⟩)
    else
    s.postCopy c { Copy.posted c s .cpy with
      dsp := spaceOf (f 52 50), ssp := spaceOf (f 55 53), dst := dst, src := src, rowLen := dlen, rows := sh.rows, dstStride := sh.ds,
      srcStride := sh.ss, cvt := cvt.map (fun x => (x.1, x.2.1, if x.2.2 = 5 then (s.slice c.ref).fmt.toNat % 8 else x.2.2)), fe := fe, barrier := bar }

/-- The lines that `n` bytes at an offset touch. -/
def scrLines (o n : Nat) : List Nat := if n = 0 then [] else (List.range ((o + n - 1) / 128 + 1 - o / 128)).map (· + o / 128)

/-- The indices of a CPYG as its list stands. -/
def gatherIndices (g : Group) (list n : Nat) : List Nat := (List.range n).map (fun k => g.scr.num (list + 4 * k) 4)

/-- CPYG (R222 to R228). Its index list is read for the checks, so its lines must be present (R206). -/
def actCpyg (c : Ctx) (s : State) : State × Fate :=
  let f := WForm.field c.g.w
  let g := s.group c.ref.gid
  let n := bits (c.g.pfx.xi.getD 0) 15 0
  let e := [8, 16, 64, 128].getD (f 62 61) 8
  let fe := f 57 56
  let bar := barrierOf c s (f 58 58) (f 60 59)
  let dst := uniPair c s c.g.w.d.toNat
  let src := uniPair c s c.g.w.a.toNat
  let list := uni c s c.g.w.b.toNat
  let listed := decide (list + 4 * n ≤ 4096 * g.pages)
  let srcs := if listed then (gatherIndices g list n).map (fun i => src.toNat + i * e) else []
  let xs := [rowExtent (spaceOf (f 52 50)) dst.toNat e n e e, ⟨spaceOf (f 55 53), srcs, e, 1⟩, ⟨spaceOf (f 55 53), [src.toNat], 0, e⟩,
    (⟨.scr, [list], 4 * n, 4⟩ : Extent)]
  match s.absentAmong c.ref.gid (if listed then scrLines list (4 * n) else []) with
  | (s, some l) => (s, .park (absentWait l))
  | (s, none) =>
  match copyChecks g c.eff (xs ++ barrierExtent bar) 0 0 with
  | some t => (s, .trap t)
  | none =>
    s.postCopy c { Copy.posted c s .cpyg with
      dsp := spaceOf (f 52 50), ssp := spaceOf (f 55 53), dst := dst, src := src, rowLen := e, rows := n, dstStride := e, srcStride := 0,
      index := list, fe := fe, barrier := bar }

/-- CPYR (R222 to R225, R228). -/
def actCpyr (c : Ctx) (s : State) : State × Fate :=
  let f := WForm.field c.g.w
  let g := s.group c.ref.gid
  let sh := copyShape (f 62 62 == 1) (uni c s c.g.w.b.toNat) (c.g.pfx.xi.getD 0)
  let bar := barrierOf c s (f 59 59) (f 61 60)
  let dst := uniPair c s c.g.w.d.toNat
  let src := uniPair c s c.g.w.a.toNat
  let n := cpyrBytes (f 58 56)
  let xs := [rowExtent .glb dst.toNat sh.ds sh.rows sh.len n, rowExtent (spaceOf (f 52 50)) src.toNat sh.ss sh.rows sh.len n]
  match copyChecks g c.eff (xs ++ barrierExtent bar) sh.len n with
  | some t => (s, .trap t)
  | none =>
    s.postCopy c { Copy.posted c s (.cpyr (f 55 53) (f 58 56)) with
      dsp := .glb, ssp := spaceOf (f 52 50), dst := dst, src := src, rowLen := sh.len, rows := sh.rows, dstStride := sh.ds, srcStride := sh.ss,
      barrier := bar }

/-- MCAST: the checks of R299, then the post. The MASK is kept in `index`, the region in `dst`. -/
def actMcast (c : Ctx) (s : State) : State × Fate :=
  let f := WForm.field c.g.w
  let g := s.group c.ref.gid
  let cw := uni c s c.g.w.c.toNat
  let b := uni c s c.g.w.b.toNat
  let a := uni c s c.g.w.a.toNat
  let d := uni c s c.g.w.d.toNat
  let mask := f 57 50
  let first := bits cw 6 0
  let fe := f 62 61
  let barAddr := bits cw 31 16 * 8
  let bar := if f 58 58 = 1 then some (barAddr, f 60 59) else none
  let badCores := ((List.range 8).filter (fun j => bit mask j && (decide (95 < first + j) || (first + j) / 8 != g.core / 8))).foldl (fun m j => m + 2 ^ j) 0
  let xs := [⟨.scr, [a], b, if fe = 0 then 1 else 8⟩, (⟨.scr, if d = 0xFFFFFFFF then [] else [d], 8, 8⟩ : Extent)] ++ barrierExtent bar
  if bits cw 15 7 ≠ 0 then (s, .trap ⟨0x02, c.g.addr, c.eff, infoRuntime⟩)
  else if badCores ≠ 0 then (s, .trap ⟨0x1C, 0, c.eff, word badCores⟩)
  else
    match copyChecks g c.eff xs b (if fe = 0 then 0 else 8) with
    | some t => (s, .trap t)
    | none =>
      s.postCopy c { Copy.posted c s .mcast with
        dsp := .scr, ssp := .scr, dst := dword a, src := dword a, rowLen := b, rows := if b = 0 then 0 else 1, index := mask, fe := fe, barrier := bar,
        acquire := false, release := false, first := first, status := if d = 0xFFFFFFFF then none else some d }

/-! ### The ends of a copy (R227, R232) -/

/-- A copy of a core. -/
def Core.copy? (k : Core) (id : Nat) : Option Copy := k.copies.find? (fun c => c.id == id)

/-- The state with a copy changed. -/
def State.modCopy (s : State) (at_ : CoreRef) (id : Nat) (f : Copy → Copy) : State :=
  s.modCore at_ (fun k => { k with copies := k.copies.map (fun c => if c.id = id then f c else c) })

/-- A copy leaves its engine. -/
def State.removeCopy (s : State) (at_ : CoreRef) (id : Nat) : State :=
  s.modCore at_ (fun k => { k with copies := k.copies.filter (fun c => c.id ≠ id) })

/-- What a copy has to tell its issuer. -/
def Copy.report (c : Copy) (fault : Option (Dword × Nat)) (misuse : Bool) (flags : Flags) : CopyReport :=
  { batch := c.batch, order := c.order, barrier := c.barrier.map Prod.fst, phase := match c.barrier with | some b => b.2 | none => 0, fault := fault,
    misuse := misuse, flags := flags, mask := c.mask, age := 0 }

/-- A report handed to the issuing slice. -/
def State.addReport (s : State) (c : Copy) (x : CopyReport) : State :=
  s.modSlice ⟨c.gid, c.idx⟩ (fun sl => { sl with copies := { sl.copies with reports := sl.copies.reports ++ [x] } })

/-- A copy that has landed every byte ends; its flags wait for their delivery (R227). -/
def State.endCopy (s : State) (at_ : CoreRef) (c : Copy) : State :=
  let s := s.removeCopy at_ c.id
  if c.flags ≠ 0 ∧ !c.nf then s.addReport c (c.report none false c.flags) else s

/-- An unresolvable fault ends a copy: landed bytes stay, POIS is set, and the issuer is told (R232). -/
def State.faultCopy (s : State) (at_ : CoreRef) (c : Copy) (a : Dword) (kind : Nat) : State :=
  let s := s.removeCopy at_ c.id
  let s := match c.barrier with | some b => s.poisonBarrier c.gid b.1 | none => s
  s.addReport c (c.report (some (a, kind)) false (if c.nf then 0 else c.flags))

/-! ### Reading and writing (R224 to R226) -/

/-- Physical pieces of a span for an engine, host pages served where they are (R226, R378). -/
def State.engineSpan (s : State) (c : CoreRef) (part unitId : Nat) (va : Dword) (need : Need) (kind : Nat) :
    Nat → Nat → State × (List (Nat × Nat) ⊕ (Dword × Reach))
  | 0, _ => (s, .inl [])
  | fuel + 1, n =>
    if n = 0 then (s, .inl [])
    else
      let here := min n (4096 - va.toNat % 4096)
      match s.reach c part unitId va need kind false with
      | (s, .ok pa _) | (s, .remote pa) =>
        let s := s.readHome c.die pa here
        match s.engineSpan c part unitId (va + dword here) need kind fuel (n - here) with
        | (s, .inl rest) => (s, .inl ((pa, here) :: rest))
        | (s, .inr e) => (s, .inr e)
      | (s, r) => (s, .inr (va, r))

/-- Where `n` bytes of a copy's side lie: places with lengths, or what stops them. -/
def State.sidePlaces (s : State) (c : Copy) (sp : Space) (a n : Nat) (need : Need) (kind : Nat) : State × (List (Place × Nat) ⊕ (Dword × Reach)) :=
  let g := s.group c.gid
  match sp with
  | .glb =>
    if (firstOutside g .glb a n).isSome then (s, .inr (dword a, .unresolvable))
    else
      match s.engineSpan g.coreRef c.part (s.unitIdOf g) (dword a) need kind (n + 1) n with
      | (s, .inl ps) => (s, .inl (ps.map (fun p => (s.glbPlace p.1, p.2))))
      | (s, .inr e) => (s, .inr e)
  | sp => if g.inSpace sp (dword a) n then (s, .inl [(g.placeIn ⟨c.gid, c.idx⟩ 0 sp a, n)]) else (s, .inr (dword a, .unresolvable))

/-- The bytes at places, and the poison mark of each. -/
def State.readPlaces (s : State) (ps : List (Place × Nat)) : List Byte × List Bool :=
  (ps.flatMap (fun p => s.readPlace p.1 p.2), ps.flatMap (fun p => s.poisonFlags p.1 p.2))

/-- The poison marks of elements of `m` bytes that are formed from elements of `n` bytes: an element is poisoned with any byte it is formed from (R414). -/
def elementMarks (n m : Nat) : Nat → List Bool → List Bool
  | 0, _ => []
  | k + 1, ms => List.replicate m ((ms.take n).any id) ++ elementMarks n m k (ms.drop n)

/-- The full/empty bits of the words at places. -/
def State.bitsAt (s : State) (ps : List (Place × Nat)) : List Bool :=
  ps.flatMap (fun p => (List.range (p.2 / 8)).map (fun k => s.fullPlace (p.1.plus (8 * k))))

/-- Bytes written at places in order, for the slice whose command they are (R329). -/
def State.writePlaces (s : State) (by_ : SliceRef) : List (Place × Nat) → List (Byte × Bool) → State
  | [], _ => s
  | (p, n) :: rest, xs => (s.writeMarked (some by_) p (xs.take n)).writePlaces by_ rest (xs.drop n)

/-- The full/empty bits of the words at places set in order. -/
def State.setBits (s : State) (by_ : SliceRef) (ps : List (Place × Nat)) (fs : List Bool) : State :=
  let words := ps.flatMap (fun p => (List.range (p.2 / 8)).map (fun k => p.1.plus (8 * k)))
  (words.zip fs).foldl (fun s x => s.setFullPlace (some by_) x.1 x.2) s

/-- One element update of CPYR (R225). -/
def cpyrOp (op ty o v : Nat) : Nat :=
  let w := 8 * cpyrBytes ty
  if 4 ≤ ty then
    let F := if ty = 5 then fmtF64 else fmtF32
    match op with
    | 0 => (F.round .rne (Num.add .rne (F.decode o) (F.decode v)).num).bits
    | 1 => (chooseFloat F true o v).1
    | _ => (chooseFloat F false o v).1
  else if op ≤ 2 then atomOp op ty o v 0
  else if op = 3 then (o &&& v) % 2 ^ w
  else (o ||| v) % 2 ^ w

/-- Elements of `n` bytes combined pairwise. -/
def combineElements (op ty n : Nat) : Nat → List Byte → List Byte → List Byte
  | 0, _, _ => []
  | k + 1, olds, news =>
    toBytes n (cpyrOp op ty (fromBytes (olds.take n)) (fromBytes (news.take n))) ++ combineElements op ty n k (olds.drop n) (news.drop n)

/-- Elements converted in order, with their flags (R117, R227). -/
def convertElements (src dst : Nat) (rm : Rounding) (sat : Saturation) : Nat → List Byte → List Byte × Flags
  | 0, _ => ([], 0)
  | k + 1, bs =>
    let x := toCode dst rm sat (decodeCode src (fromBytes (bs.take (codeBytes src))))
    let r := convertElements src dst rm sat k (bs.drop (codeBytes src))
    (toBytes (codeBytes dst) x.bits ++ r.1, x.flags ||| r.2)

/-- The source of a piece: its first byte, its length, and the index read for it. -/
def Copy.sourceOf (c : Copy) (g : Group) (row off n : Nat) : Nat × Nat :=
  match c.kind with
  | .cpyg => (c.src.toNat + g.scr.num (c.index + 4 * row) 4 * c.rowLen + off, n)
  | _ =>
    match c.cvt with
    | some x => (c.src.toNat + row * c.srcStride + off / codeBytes x.2.1 * codeBytes x.1, n / codeBytes x.2.1 * codeBytes x.1)
    | none => (c.src.toNat + row * c.srcStride + off, n)

/-- A scratchpad line that a copy may not read or write yet: out of the array, being unpinned after the copy's time, or, when read, owed by an earlier copy (R206, R207, R300). -/
def State.copyMustWait (s : State) (c : Copy) (gid line : Nat) (reads : Bool) : Bool :=
  let g := s.group gid
  g.absent.contains line
    || (match g.unpinBound (line / 32) with | some before => decide (before ≤ c.id) | none => false)
    || (reads && (s.dieCopies g.die).any (fun d => decide (d.id < c.id) && d.owesScr gid line))

/-- The first line that a copy must wait for, with its refill started. -/
def State.copyWaits (s : State) (c : Copy) (gid : Nat) (lines : List Nat) (reads : Bool) : State × Bool :=
  match lines.find? (fun l => s.copyMustWait c gid l reads) with
  | some l => (s.startRefill gid l, true)
  | none => (s, false)

/-! ### Landing (R206, R217, R224 to R233) -/

/-- What stops a side of a copy: a wait for an answer, or the fault that ends it with its code (R231, R232). -/
def State.stopCopy (s : State) (at_ : CoreRef) (c : Copy) (a : Dword) (r : Reach) (code : Nat) : State :=
  match r with
  | .fault seq => s.modCopy at_ c.id (fun c => { c with block := some (.fault seq), fault := some (a, code) })
  | .migrate p n => s.modCopy at_ c.id (fun c => { c with block := some (.migration p n), fault := some (a, code) })
  | .denied 4 => s.faultCopy at_ c a 2
  | _ => s.faultCopy at_ c a code

/-- Bytes of a piece counted: landed, then arrived at the barrier; the report of a copy that is complete stands before the arrival that may complete its phase (R227). -/
def State.countPiece (s : State) (at_ : CoreRef) (c : Copy) (p n : Nat) (flags : Flags) : State :=
  let c := { c with landed := c.landed ++ [p], flags := c.flags ||| flags }
  let s := s.modCopy at_ c.id (fun _ => c)
  let s := if c.landedAt 0 = c.total then s.endCopy at_ c else s
  match c.barrier with
    | some b =>
      match s.arriveAt c.gid b.1 b.2 n with
      | (s, true) => s.addReport c (c.report none true 0)
      | (s, false) => s
    | none => s

/-- The lines of memory that a release at system scope still has to get back from the host ports before it writes them (R461): those at the places of its writes, and those asked for before. -/
def State.recallHosts (s : State) (ps : List (Place × Nat)) : State :=
  (ps.flatMap (fun p => match p.1 with | .glb pa => linesOf pa p.2 | _ => [])).foldl (fun s l => s.snoop l) s

/-- What a piece writes: its bytes, each with its poison mark. A poisoned index poisons what it names, and a combined element has the poison of both its operands (R224, R225, R413, R414). -/
def State.pieceData (s : State) (c : Copy) (row n : Nat) (sps dps : List (Place × Nat)) : List (Byte × Bool) × Flags :=
  let rd := s.readPlaces sps
  match c.kind, c.cvt with
  | .cpyr op ty, _ =>
    let e := cpyrBytes ty
    let old := s.readPlaces dps
    ((combineElements op ty e (n / e) old.1 rd.1).zip (elementMarks e e (n / e) (List.zipWith or old.2 rd.2)), 0)
  | _, some x =>
    let z := convertElements x.1 x.2.1 (Rounding.ofCode x.2.2) ⟨c.satB, none⟩ (n / codeBytes x.2.1) rd.1
    (z.1.zip (elementMarks (codeBytes x.1) (codeBytes x.2.1) (n / codeBytes x.2.1) rd.2), z.2)
  | .cpyg, _ => (rd.1.zip (rd.2.map (· || (s.poisonPlace (.scr c.gid (c.index + 4 * row)) 4).isSome)), 0)
  | _, _ => (rd.1.zip rd.2, 0)

/-- The reads, the writes and the count of one piece whose scratchpad lines are there. A release at system scope waits until the host ports have given back what it covers (R343, R461). -/
def State.movePiece (s : State) (at_ : CoreRef) (c : Copy) (p row off n : Nat) : Outcome :=
  let g := s.group c.gid
  let src := c.sourceOf g row off n
  let form := c.fe != 0
  match s.sidePlaces c c.ssp src.1 src.2 ⟨true, false, false, c.fe == 1⟩ 0 with
  | (s, .inr e) => .next (s.stopCopy at_ c e.1 e.2 0)
  | (s, .inl sps) =>
    let need : Need := match c.kind with | .cpyr _ _ => needBoth | _ => ⟨false, true, false, form⟩
    match s.sidePlaces c c.dsp (c.rowAt row + off) n need 1 with
    | (s, .inr e) => .next (s.stopCopy at_ c e.1 e.2 1)
    | (s, .inl dps) =>
      let s := if c.release && decide (5 ≤ c.scope) then s.recallHosts dps else s
      if c.release && decide (5 ≤ c.scope) && !s.backInvalidates.isEmpty then .next s
      else
        let x := s.pieceData c row n sps dps
        let marks := s.bitsAt sps
        let s := s.writePlaces ⟨c.gid, c.idx⟩ dps x.1
        let s := match c.fe with
          | 1 => s.setBits ⟨c.gid, c.idx⟩ dps marks
          | 2 => s.setBits ⟨c.gid, c.idx⟩ dps (List.replicate (n / 8) true)
          | _ => s
        .next (s.countPiece at_ c p n x.2)

/-- The lines of the scratchpad that a piece needs: those it reads and those it writes. -/
def Copy.pieceLines (c : Copy) (g : Group) (row off n : Nat) : List Nat × List Nat :=
  let src := c.sourceOf g row off n
  ((if c.ssp = .scr then scrLines src.1 src.2 else []) ++ (if c.kind = .cpyg then scrLines (c.index + 4 * row) 4 else []),
    (if c.dsp = .scr then scrLines (c.rowAt row + off) n else []) ++ (match c.barrier with | some b => barrierLines b.1 | none => []))

/-- A piece of a copy lands (R224). -/
def State.landPiece (s : State) (at_ : CoreRef) (c : Copy) (p : Nat) : Outcome :=
  match c.piece p with
  | none => .next s
  | some (row, off, n) =>
    if c.landed.contains p || c.block.isSome then .next s
    else
      let lines := c.pieceLines (s.group c.gid) row off n
      match s.copyWaits c c.gid lines.1 true with
      | (s, true) => .next s
      | (s, false) =>
        match s.copyWaits c c.gid lines.2 false with
        | (s, true) => .next s
        | (s, false) => s.movePiece at_ c p row off n

/-! ### Multicast (R300 to R302) -/

/-- The running sibling group of a unit on a core of its die. -/
def State.sibling (s : State) (g : Group) (core : Nat) : Option Group :=
  s.groups.find? (fun x => x.uid == g.uid && x.die == g.die && x.core == core)

/-- Whether a bit of a multicast has been done or dropped. -/
def Copy.resolved (c : Copy) (j : Nat) : Bool := c.dones.getLsbD j || c.drops.getLsbD j

/-- The lowest named bit of a multicast that has not been accepted or dropped. -/
def Copy.nextReceiver (c : Copy) : Option Nat :=
  (List.range 8).find? (fun j => bit c.index j && !c.resolved j && !c.receivers.any (fun x => x.1 == j))

/-- A bit of a status byte set. -/
def setStatusBit (x : BitVec 8) (j : Nat) : BitVec 8 := x ||| BitVec.ofNat 8 (2 ^ j)

/-- A destination is accepted, or dropped where no sibling runs (R300). -/
def State.acceptReceiver (s : State) (at_ : CoreRef) (c : Copy) (j : Nat) : State :=
  match s.sibling (s.group c.gid) (c.first + j) with
  | some g => s.modCopy at_ c.id (fun c => { c with receivers := c.receivers ++ [(j, g.gid)] })
  | none => s.modCopy at_ c.id (fun c => { c with drops := setStatusBit c.drops j })

/-- One piece delivered to a receiver (R300). -/
def State.deliverPiece (s : State) (at_ : CoreRef) (c : Copy) (j gid p : Nat) : State :=
  match c.piece p with
  | none => s
  | some (row, off, n) =>
    if c.landed.contains (j * receiverPieces + p) then s
    else
      let a := c.rowAt row + off
      match s.copyWaits c c.gid (scrLines a n) true with
      | (s, true) => s
      | (s, false) =>
        match s.copyWaits c gid (scrLines a n ++ (match c.barrier with | some b => barrierLines b.1 | none => [])) false with
        | (s, true) => s
        | (s, false) =>
          let rd := s.readPlaces [(.scr c.gid a, n)]
          let marks := s.bitsAt [(.scr c.gid a, n)]
          let s := s.writePlaces ⟨c.gid, c.idx⟩ [(.scr gid a, n)] (rd.1.zip rd.2)
          let s := match c.fe with
            | 1 => s.setBits ⟨c.gid, c.idx⟩ [(.scr gid a, n)] marks
            | 2 => s.setBits ⟨c.gid, c.idx⟩ [(.scr gid a, n)] (List.replicate (n / 8) true)
            | _ => s
          let s := match c.barrier with | some b => (s.arriveAt gid b.1 b.2 n).1 | none => s
          s.modCopy at_ c.id (fun c => { c with landed := c.landed ++ [j * receiverPieces + p] })

/-- Receivers that are done, and those whose group has completed (R300). -/
def Copy.judge (c : Copy) (s : State) : Copy :=
  c.receivers.foldl (fun c x =>
    if c.resolved x.1 || x.2 == c.gid then c
    else if c.landedAt x.1 = c.total then { c with dones := setStatusBit c.dones x.1 }
    else if (s.group? x.2).isNone then { c with drops := setStatusBit c.drops x.1 }
    else c) c

/-- The issuer's own group as a destination, once every other is resolved (R300). -/
def State.ownReceiver (s : State) (at_ : CoreRef) (c : Copy) (j : Nat) : State :=
  let s := if c.fe = 2 then (List.range (c.rowLen / 8)).foldl (fun s k => s.fillHeld c.gid (c.dst.toNat + 8 * k)) s else s
  let s := match c.barrier with | some b => (s.arriveAt c.gid b.1 b.2 c.total).1 | none => s
  s.modCopy at_ c.id (fun c => { c with dones := setStatusBit c.dones j })

/-- A multicast judged: receivers done or dropped, the own group served last, and the status written when every destination is resolved (R300). -/
def State.judgeMcast (s : State) (at_ : CoreRef) (id : Nat) : State :=
  match (s.core at_).copy? id with
  | none => s
  | some c =>
    let c := c.judge s
    let s := s.modCopy at_ id (fun _ => c)
    let open_ := (List.range 8).filter (fun j => bit c.index j && !c.resolved j)
    match open_ with
    | [] =>
      let s := match c.status with
        | some d => s.modHeld c.gid d (fun m => m.store 8 d (toBytes 8 (2 ^ 16 + c.dones.toNat * 2 ^ 8 + c.drops.toNat)) false)
        | none => s
      s.removeCopy at_ id
    | [j] => if c.receivers.any (fun x => x.1 == j && x.2 == c.gid) then s.ownReceiver at_ c j else s
    | _ => s

/-- Numbers of landing events from here on accept receivers of a multicast. -/
def acceptPiece : Nat := 2 ^ 100

/-- An event of a multicast: a receiver accepted, or a piece delivered to one. -/
def State.landMcast (s : State) (at_ : CoreRef) (c : Copy) (p : Nat) : State :=
  let s :=
    if acceptPiece ≤ p then (match c.nextReceiver with | some j => s.acceptReceiver at_ c j | none => s)
    else
      match c.receivers.find? (fun x => x.1 == p / receiverPieces && x.2 != c.gid && !c.resolved x.1) with
      | some x => if (s.group? x.2).isSome then s.deliverPiece at_ c x.1 x.2 (p % receiverPieces) else s
      | none => s
  (s.judgeMcast at_ c.id).judgeMcast at_ c.id

/-! ### Resuming (R231) -/

/-- R231, R232: a parked copy goes on once its fault is answered or its page has moved; FAIL ends it. -/
def execCopyResume (at_ : CoreRef) (id : Nat) (s : State) : Outcome :=
  match (s.core at_).copy? id with
  | some c =>
    match c.block with
    | some b =>
      .next (if s.failedBlock c.part b then s.faultCopy at_ c (c.fault.getD (0, 0)).1 (c.fault.getD (0, 0)).2
        else if s.blockOver c.part (s.group c.gid) b then s.modCopy at_ id (fun c => { c with block := none }) else s)
    | none => .next s
  | none => .next s

/-! ### Meanings -/

def execCpy (p : List Prefix) (w : WForm) (s : State) : Outcome := issueEach 0x70 true p w actCpy s
def execCpyg (p : List Prefix) (w : WForm) (s : State) : Outcome := issueEach 0x71 true p w actCpyg s
def execCpyr (p : List Prefix) (w : WForm) (s : State) : Outcome := issueEach 0x72 true p w actCpyr s
def execMcast (p : List Prefix) (w : WForm) (s : State) : Outcome := issueEach 0x80 true p w actMcast s

end Sys2Proof.Machine
end

