-- ==== Sys2Proof/Machine/Matrix.lean ====
section
/-! DEFINITION. The matrix engine: layout records, panels, stages, accumulation, masks, contraction, its command queue and its batches (R234 to R261). -/

namespace Sys2Proof.Machine

/-! ### Formats in scratchpad -/

/-- Bytes of an element of a format, or of a block for a BX format. -/
def fmtBytes (f : Nat) : Nat := if 12 ≤ f then bxBytes (bxBits f) else codeBytes f

/-- Alignment of an element or block (R74). -/
def fmtAlign (f : Nat) : Nat := if 12 ≤ f then bxAlign (bxBits f) else codeBytes f

/-- The value of an element at an address, its position in the block for a BX format. -/
def Memory.element (m : Memory) (f a pos : Nat) : Num :=
  if 12 ≤ f then bxElement (bxBits f) (m.num a (fmtBytes f)) pos else decodeCode f (m.num a (fmtBytes f))

/-- The origin of poison in `n` bytes at a scratchpad address (R413). -/
def Memory.markAt (m : Memory) (a n : Nat) : Option Dword := (m.poisonAt 8 a n).map dword

/-! ### Layout records (R242 to R244) -/

def LayoutRecord.kCount (g : LayoutRecord) : Nat := g.e0 * g.e1
def LayoutRecord.rowCount (g : LayoutRecord) : Nat := g.e2 * g.e3

/-- The address of element (r, k), or of its block. -/
def LayoutRecord.addr (g : LayoutRecord) (r k : Nat) : Nat :=
  let i0 : Nat := if 12 ≤ g.fmt then k % g.e0 / 16 else k % g.e0
  ((g.base : Int) + i0 * g.s0 + (k / g.e0 : Nat) * g.s1 + (r % g.e2 : Nat) * g.s2 + (r / g.e2 : Nat) * g.s3).toNat

/-- Element (r, k) as it stands in a scratchpad. -/
def LayoutRecord.read (g : LayoutRecord) (m : Memory) (r k : Nat) : Num := m.element g.fmt (g.addr r k) (k % g.e0 % 16)

/-- Row `r` in ascending k. -/
def LayoutRecord.readRow (g : LayoutRecord) (m : Memory) (r : Nat) : List Num := (List.range g.kCount).map (g.read m r)

/-- The first poison mark in row `r`. -/
def LayoutRecord.rowMark (g : LayoutRecord) (m : Memory) (r : Nat) : Option Dword :=
  (List.range g.kCount).findSome? (fun k => m.markAt (g.addr r k) (fmtBytes g.fmt))

/-- The scratchpad lines that some rows touch. -/
def LayoutRecord.lines (g : LayoutRecord) (rows : List Nat) : List Nat :=
  rows.flatMap (fun r => (List.range g.kCount).flatMap (fun k => scrLines (g.addr r k) (fmtBytes g.fmt)))

/-- The distinct 8-byte words that a fetch group touches. -/
def LayoutRecord.groupWords (g : LayoutRecord) (rows : List Nat) (k : Nat) : List Nat :=
  (rows.flatMap (fun r =>
    let a := g.addr r k
    (List.range ((a + fmtBytes g.fmt - 1) / 8 + 1 - a / 8)).map (· + a / 8))).eraseDups

/-- Cycles of a fetch group: the words of its most-used bank, at least 1 (R204, R244). -/
def LayoutRecord.groupCycles (g : LayoutRecord) (rows : List Nat) (k : Nat) : Nat :=
  let ws := g.groupWords rows k
  ((List.range 32).map (fun b => (ws.filter (fun w => w % 32 == b)).length)).foldl max 1

/-- What each fetch group of a command adds to `CONFL`, in order (R244). -/
def LayoutRecord.conflictList (g : LayoutRecord) (rows : List Nat) : List Nat :=
  (if 12 ≤ g.fmt then (List.range (g.kCount / 16)).map (· * 16) else List.range g.kCount).map (fun k => g.groupCycles rows k - 1)

/-- What a command's fetch groups add to `CONFL` (R244). -/
def LayoutRecord.conflicts (g : LayoutRecord) (rows : List Nat) : Nat := (g.conflictList rows).foldl (· + ·) 0

/-- The lowest and highest bytes that a record touches (R243). -/
def LayoutRecord.reach (g : LayoutRecord) : Int × Int :=
  let n0 : Nat := if 12 ≤ g.fmt then g.e0 / 16 else g.e0
  let ends : List Int := [((n0 : Int) - 1) * g.s0, ((g.e1 : Int) - 1) * g.s1, ((g.e2 : Int) - 1) * g.s2, ((g.e3 : Int) - 1) * g.s3]
  ((g.base : Int) + (ends.map (fun x => min 0 x)).foldl (· + ·) 0, (g.base : Int) + (ends.map (fun x => max 0 x)).foldl (· + ·) 0 + (fmtBytes g.fmt : Int) - 1)

/-- A descriptor's 32 bytes as a record at a base (R242). -/
def recordOf (bs : List Byte) (add : Nat) : LayoutRecord :=
  let w (o : Nat) : Nat := fromBytes ((bs.drop o).take 4)
  { base := (bits (w 0) 18 0 + add) % 2 ^ 32, fmt := bits (w 0) 23 20, e0 := bits (w 8) 15 0, e1 := bits (w 8) 31 16, e2 := bits (w 12) 15 0,
    e3 := bits (w 12) 31 16, s0 := signedOf 32 (w 16), s1 := signedOf 32 (w 20), s2 := signedOf 32 (w 24), s3 := signedOf 32 (w 28) }

/-- The code of the first failure of a descriptor, 16 to 19 in order (R241). -/
def descriptorCode (bs : List Byte) (g : LayoutRecord) : Option Nat :=
  let w (o : Nat) : Nat := fromBytes ((bs.drop o).take 4)
  let al : Int := (fmtAlign g.fmt : Nat)
  if g.e0 = 0 ∨ g.e1 = 0 ∨ g.e2 = 0 ∨ g.e3 = 0 then some 16
  else if !(g.fmt == 0 || (decide (8 ≤ g.fmt) && decide (g.fmt ≤ 14))) then some 17
  else if g.s0 % al ≠ 0 ∨ g.s1 % al ≠ 0 ∨ g.s2 % al ≠ 0 ∨ g.s3 % al ≠ 0 ∨ (12 ≤ g.fmt ∧ g.e0 % 16 ≠ 0) then some 18
  else if bits (w 0) 31 24 ≠ 0 ∨ bit (w 0) 19 ∨ w 4 ≠ 0 then some 19
  else none

/-! ### Reading a descriptor or a program at issue (R243, R256) -/

/-- A 64-bit trap address from an integer. -/
def intAddr (i : Int) : Dword := BitVec.ofInt 64 i

/-- What reading bytes at issue gives: the bytes, or the fate of the slice. -/
abbrev Fetch := List Byte ⊕ Fate

/-- `n` bytes read once per slice from `scr` or `glb` (R160, R171, R414). -/
def readOnce (c : Ctx) (s : State) (glb : Bool) (a : Dword) (n align : Nat) : State × Fetch :=
  let g := s.group c.ref.gid
  if glb then
    if (firstOutside g .glb a.toNat n).isSome then (s, .inr (.trap ⟨0x09, a, c.eff, 1⟩))
    else if a.toNat % align ≠ 0 then (s, .inr (.trap ⟨0x07, a, c.eff, word align⟩))
    else
      match s.readGlb c.ref a n needRead 0 with
      | (s, .inl (bs, none)) => (s, .inl bs)
      | (s, .inl (_, some _)) => (s, .inr (.poison c.eff (originOf .glb a)))
      | (s, .inr (b, .fault seq)) => (s, .inr (.park (.replay (.fault seq) ⟨0x08, b, c.eff, word (16 * c.eff.toNat)⟩)))
      | (s, .inr (b, .migrate p n)) => (s, .inr (.park (.replay (.migration p n) ⟨0x08, b, c.eff, word (16 * c.eff.toNat)⟩)))
      | (s, .inr (b, .denied code)) => (s, .inr (.trap ⟨0x09, b, c.eff, word code⟩))
      | (s, .inr (b, _)) => (s, .inr (.trap ⟨0x08, b, c.eff, word (16 * c.eff.toNat)⟩))
  else if !g.inSpace .scr a n then (s, .inr (.trap ⟨0x0A, a, c.eff, 1⟩))
  else if a.toNat % align ≠ 0 then (s, .inr (.trap ⟨0x07, a, c.eff, word align⟩))
  else
    match s.absentAmong c.ref.gid (scrLines a.toNat n) with
    | (s, some l) => (s, .inr (.park (absentWait l)))
    | (s, none) =>
      match g.scr.markAt a.toNat n with
      | some o => (s, .inr (.poison c.eff o))
      | none => (s, .inl (g.scr.bytesAt a.toNat n))

/-! ### Posting (R237, R238) -/

/-- The rounding code of an RND prefix, DYN read from `FMT` (R78). -/
def rmCode (c : Ctx) (s : State) : Nat :=
  match c.g.pfx.rnd with
  | none => 0
  | some v => if v % 8 = 5 then (s.slice c.ref).fmt.toNat % 8 else v % 8

/-- A command of a slice appended to the queue of its core. -/
def State.enqueueMatrix (s : State) (c : Ctx) (op : MatrixOp) : State :=
  let g := s.group c.ref.gid
  let cmd : MatrixCommand :=
    { gid := c.ref.gid, idx := c.ref.idx, uid := g.uid, batch := (s.slice c.ref).matrix.openBatch.num, eff := c.eff, nf := c.g.w.nf, addr := c.g.addr, op := op }
  s.modCore g.coreRef (fun k => { k with matrix := { k.matrix with queue := k.matrix.queue ++ [cmd] } })

/-- An open batch that holds 255 commands takes no other; the check depends on no operand (R56, R238). -/
def ownPost : Own := fun s c => if 255 ≤ (s.slice c.ref).matrix.openCommands then some (.trap ⟨0x14, c.g.addr, c.eff, 1⟩) else none

/-- A command posted into the open batch (R238). -/
def State.postMatrix (s : State) (c : Ctx) (op : MatrixOp) : State × Fate :=
  let s := s.enqueueMatrix c op
  (s.modSlice c.ref (fun sl =>
    { sl with matrix := { sl.matrix with openCommands := sl.matrix.openCommands + 1, openBatch := { sl.matrix.openBatch with left := sl.matrix.openBatch.left + 1 } } }), .next)

/-- The issue of an instruction whose slices each post one command into a batch. -/
def issuePost (op : Nat) (p : List Prefix) (w : WForm) (act : Ctx → State → State × Fate) (s : State) : Outcome :=
  issue op true p w ownPost (eachSlice act) s

def actPost (f : Ctx → State → MatrixOp) (c : Ctx) (s : State) : State × Fate := s.postMatrix c (f c s)

/-- MLAY (R243). -/
def actMlay (c : Ctx) (s : State) : State × Fate :=
  let f := WForm.field c.g.w
  let glb := f 53 53 == 1
  let a : Dword := if glb then uniPair c s c.g.w.a.toNat else dword (uni c s c.g.w.a.toNat)
  let add := uni c s c.g.w.b.toNat + (match c.g.pfx.xi with | some v => v % 2 ^ 19 | none => 0)
  match readOnce c s glb a 32 8 with
  | (s, .inr x) => (s, x)
  | (s, .inl bs) =>
    let r := recordOf bs add
    match descriptorCode bs r with
    | some code => (s, .trap ⟨0x13, a, c.eff, word code⟩)
    | none =>
      let x := r.reach
      if x.1 < 0 ∨ (4096 * (s.group c.ref.gid).pages : Nat) ≤ x.2 then (s, .trap ⟨0x0A, intAddr (if x.1 < 0 then x.1 else x.2), c.eff, 1⟩)
      else if r.base % fmtAlign r.fmt ≠ 0 then (s, .trap ⟨0x07, dword r.base, c.eff, word (fmtAlign r.fmt)⟩)
      else s.postMatrix c (.lay (f 52 50) r)

/-- The operation words of a mask program. -/
def maskOpOf (w : Nat) : MaskOp := ⟨bits w 31 28, bits w 27 26, bits w 23 0⟩

/-- Reserved bits of an operation word that are set (R255). -/
def maskReserved (w : Nat) : Bool :=
  bits w 25 24 != 0 || ([3, 4, 7].contains (bits w 31 28) && bits w 23 0 != 0) || (bits w 31 28 == 1 && bits w 23 16 != 0)

/-- MMASK (R255, R256). The reserved bits of all operation words are judged before a reserved operation in any: the spec does not order codes 19 and 20 (DESIGN CHOICE, log 29). -/
def actMmask (c : Ctx) (s : State) : State × Fate :=
  let f := WForm.field c.g.w
  let glb := f 52 52 == 1
  let a : Dword := if glb then uniPair c s c.g.w.a.toNat else dword (uni c s c.g.w.a.toNat)
  let bad (code : Nat) : Fate := .trap ⟨0x13, a, c.eff, word code⟩
  match readOnce c s glb a 4 4 with
  | (s, .inr x) => (s, x)
  | (s, .inl hd) =>
    let n := fromBytes hd % 16
    if fromBytes hd / 16 ≠ 0 then (s, bad 19)
    else if n = 0 ∨ 8 < n then (s, bad 20)
    else
      match readOnce c s glb a (4 + 4 * n) 4 with
      | (s, .inr x) => (s, x)
      | (s, .inl bs) =>
        let ws := (List.range n).map (fun i => fromBytes ((bs.drop (4 + 4 * i)).take 4))
        if ws.any maskReserved then (s, bad 19)
        else if ws.any (fun w => bits w 31 28 == 0 || decide (8 ≤ bits w 31 28)) then (s, bad 20)
        else s.postMatrix c (.mask (f 51 50) (ws.map maskOpOf))

/-- The out-of-space trap of an engine extent, reported as R243 reports it. -/
def extentTrap (g : Group) (eff : Mask) (lo hi : Int) : Option Trap :=
  if lo < 0 ∨ (4096 * g.pages : Nat) ≤ hi then some ⟨0x0A, intAddr (if lo < 0 then lo else hi), eff, 1⟩ else none

/-- The misaligned trap of the first of some values. -/
def alignTrap (eff : Mask) (n : Nat) (xs : List Int) : Option Trap :=
  (xs.find? (fun (x : Int) => x % (n : Int) != 0)).map (fun x => ⟨0x07, intAddr x, eff, word n⟩)

/-- Bytes of a tile row in a format: two blocks for BX (R253). -/
def tileRowBytes (f : Nat) : Nat := if 12 ≤ f then 2 * fmtBytes f else 32 * fmtBytes f

/-- The checks of MST and MLDC: the extent, then alignments (R253). -/
def tileCheck (g : Group) (eff : Mask) (f a : Nat) (stride : Int) : Option Trap :=
  let last : Int := (a : Int) + 31 * stride
  match extentTrap g eff (min (a : Int) last) (max (a : Int) last + (tileRowBytes f : Nat) - 1) with
  | some t => some t
  | none => alignTrap eff (fmtAlign f) [(a : Int), stride]

def actMst (c : Ctx) (s : State) : State × Fate :=
  let f := WForm.field c.g.w
  let a := uni c s c.g.w.a.toNat
  let b := signedOf 32 (uni c s c.g.w.b.toNat)
  match tileCheck (s.group c.ref.gid) c.eff (f 55 52) a b with
  | some t => (s, .trap t)
  | none => s.postMatrix c (.st (f 51 50) (f 55 52) (f 56 56 == 1) a b (rmCode c s) (modeB (s.slice c.ref).fmt))

def actMldc (c : Ctx) (s : State) : State × Fate :=
  let f := WForm.field c.g.w
  let a := uni c s c.g.w.a.toNat
  let b := signedOf 32 (uni c s c.g.w.b.toNat)
  match tileCheck (s.group c.ref.gid) c.eff (f 55 52) a b with
  | some t => (s, .trap t)
  | none => s.postMatrix c (.ldc (f 51 50) (f 55 52) (f 56 56 == 1) a b)

/-- MMAM: the operand block is checked as for MST (R256). -/
def actMmam (c : Ctx) (s : State) : State × Fate :=
  let f := WForm.field c.g.w
  let a := uni c s c.g.w.a.toNat
  match extentTrap (s.group c.ref.gid) c.eff a ((a : Int) + 639) with
  | some t => (s, .trap t)
  | none =>
    match alignTrap c.eff 4 [(a : Int)] with
    | some t => (s, .trap t)
    | none => s.postMatrix c (.mam (f 51 50) (f 53 52) a)

/-- MGATHER: the count, then the index list (R228, R241, R248). -/
def actMgather (c : Ctx) (s : State) : State × Fate :=
  let f := WForm.field c.g.w
  let g := s.group c.ref.gid
  let a := uni c s c.g.w.a.toNat
  let n := uni c s c.g.w.b.toNat
  if n = 0 ∨ 32 < n then (s, .trap ⟨0x13, 0, c.eff, 21⟩)
  else
    match copyChecks g c.eff [⟨.scr, [a], 4 * n, 4⟩] 0 0 with
    | some t => (s, .trap t)
    | none => s.postMatrix c (.gather (f 50 50) (f 53 51) a n)

/-- STC: three extents, then three alignments (R257). -/
def actStc (c : Ctx) (s : State) : State × Fate :=
  let f := WForm.field c.g.w
  let g := s.group c.ref.gid
  let n := if f 52 52 = 1 then 8 else 4
  let u := uni c s c.g.w.a.toNat
  let q := uni c s c.g.w.b.toNat
  let o := uni c s c.g.w.c.toNat
  let ext (a m : Nat) : Option Trap := extentTrap g c.eff a ((a : Int) + (m * n : Nat) - 1)
  match [ext u 512, ext q 64, ext o 512].findSome? id with
  | some t => (s, .trap t)
  | none =>
    match alignTrap c.eff n [(u : Int), q, o] with
    | some t => (s, .trap t)
    | none => s.postMatrix c (.stc (f 51 50) (f 52 52 == 1) u q o (rmCode c s))

/-- MACCR: its destination is set empty and the command enters the queue outside any batch (R254). -/
def actMaccr (c : Ctx) (s : State) : State × Fate :=
  let f := WForm.field c.g.w
  let sl := s.slice c.ref
  let row (i : Nat) : Nat := (sl.operand c.g0 c.g.w.a.toNat i).toNat
  let col (i : Nat) : Nat := (sl.operand c.g0 c.g.w.b.toNat i).toNat
  let bad := c.eff &&& Mask.ofFn (fun i => decide (32 ≤ row i) || decide (32 ≤ col i))
  if bad ≠ 0 then (s, .trap ⟨0x13, 0, bad, 21⟩)
  else
    let s := s.modSlice c.ref (fun sl => sl.makeEmptyN c.g.w.d.toNat (codeWords (f 55 52)) c.eff)
    (s.enqueueMatrix c (.accr (f 51 50) (f 55 52) (f 56 56 == 1) c.g.w.d.toNat ((List.range 4).map row) ((List.range 4).map col) (rmCode c s)
      (modeB sl.fmt)), .next)

/-! ### Batches (R239 to R241) -/

/-- A finished batch's arrival, or the POIS of a failed one (R239). -/
def State.finishBatch (s : State) (gid : Nat) (b : MatrixBatch) : State :=
  match b.barrier with
  | none => s
  | some (a, t, n) => if b.error.isSome then s.poisonBarrier gid a else (s.arriveAt gid a t n).1

/-- MBATCH for a slice: nothing while 16 sealed batches are unfinished (R239). -/
def State.tryMbatch (s : State) (r : SliceRef) (eff : Mask) (barrier : Option (Nat × Nat × Nat)) (d : Option Nat) : Option (State × Fate) :=
  let m := (s.slice r).matrix
  if 16 ≤ (m.sealed_.filter (fun b => b.left != 0)).length then none
  else
    let b := { m.openBatch with barrier := barrier }
    let s := s.modSlice r (fun sl =>
      let sl := { sl with matrix := { openCommands := 0, sealed_ := sl.matrix.sealed_ ++ [b], openBatch := MatrixBatch.opened (b.num + 1) } }
      match d with
      | some d => sl.setLanes d eff (Lanes.all (word b.num))
      | none => sl)
    some (if b.left = 0 then s.finishBatch r.gid b else s, .next)

/-- How many batches before the one that the next MBATCH numbers `n` the number `a` names, counted modulo 2^32 (R239). -/
def batchAge (n a : Nat) : Nat := (n % 2 ^ 32 + 2 ^ 32 - a) % 2 ^ 32

/-- Whether batch `k` is the batch that the number `a` names, or an earlier one. The model counts batches without end; MBATCH and MWAIT name them modulo 2^32. -/
def batchUpTo (n a k : Nat) : Bool := decide (k + batchAge n a ≤ n)

/-- MWAIT for a slice: nothing while a covered batch is unfinished; then flags are delivered, then the oldest failure (R239 to R241). -/
def State.tryMwait (s : State) (r : SliceRef) (a : Nat) (eff : Mask) : Option (State × Fate) :=
  let m := (s.slice r).matrix
  let upTo := batchUpTo m.openBatch.num a
  let covered := m.sealed_.filter (fun b => upTo b.num)
  if covered.any (fun b => b.left != 0) then none
  else
    let s := covered.foldl (fun s b => s.raiseFlags r 15 b.flags) s
    match covered.find? (fun b => b.error.isSome) with
    | some b =>
      let s := s.modSlice r (fun sl =>
        { sl with matrix := { sl.matrix with sealed_ := sl.matrix.sealed_.map (fun x =>
          if upTo x.num then { x with flags := Lanes.all 0, error := if x.num = b.num then none else x.error } else x) } })
      let e := b.error.getD (0, 0)
      some (s, .trap ⟨0x13, e.1, eff, word (e.2 + b.num % 2 ^ 16 * 2 ^ 16)⟩)
    | none =>
      some (s.modSlice r (fun sl => { sl with matrix := { sl.matrix with sealed_ := sl.matrix.sealed_.filter (fun x => !upTo x.num) } }), .next)

def actMbatch (c : Ctx) (s : State) : State × Fate :=
  let f := WForm.field c.g.w
  let d := if c.g.w.d = 0 then none else some c.g.w.d.toNat
  let go (b : Option (Nat × Nat × Nat)) (s : State) : State × Fate :=
    match s.tryMbatch c.ref c.eff b d with
    | some x => x
    | none => parkOrCancel c s (.mbatch c.eff b d c.g.next)
  if f 50 50 = 1 then
    atBarrier c s (fun a s => go (some (a, f 52 51, uni c s c.g.w.b.toNat)) s)
  else go none s

def actMwait (c : Ctx) (s : State) : State × Fate :=
  let a := uni c s c.g.w.a.toNat
  let age := batchAge (s.slice c.ref).matrix.openBatch.num a
  if age = 0 ∨ 2 ^ 31 < age then (s, .trap ⟨0x14, c.g.addr, c.eff, 2⟩)
  else
    match s.tryMwait c.ref a c.eff with
    | some x => x
    | none => parkOrCancel c s (.mwait a c.eff c.g.next)

/-! ### Tiles -/

/-- Element (r, c) of a tile. -/
def Matrix.elem (m : Matrix) (t r c : Nat) : Dword := (m.tiles.getD t []).getD (32 * r + c) 0

/-- The poison mark of an element. -/
def Matrix.mark (m : Matrix) (t r c : Nat) : Option Dword := (m.tilePoison.find? (fun x => x.1 == t && x.2.1 == 32 * r + c)).map (fun x => x.2.2)

/-- A tile replaced from a function of its elements and their marks. -/
def Matrix.setTile (m : Matrix) (t : Nat) (f : Nat → Nat → Dword) (mark : Nat → Nat → Option Dword) : Matrix :=
  let ix := List.range 1024
  { m with
    tiles := m.tiles.set t (ix.map (fun i => f (i / 32) (i % 32)))
    tilePoison := m.tilePoison.filter (fun x => x.1 ≠ t) ++ ix.filterMap (fun i => (mark (i / 32) (i % 32)).map (fun o => (t, i, o))) }

/-- The first of two marks. -/
def orMark (x y : Option Dword) : Option Dword := match x with | some o => some o | none => y

/-! ### Panels and stages (R246 to R248) -/

/-- The group size G of a format. -/
def groupBytes : Nat → Nat
  | 12 => 10
  | 13 => 14
  | 14 => 20
  | 0 => 20
  | 8 => 36
  | 9 => 36
  | 10 => 68
  | _ => 132

/-- The bytes a panel reserves. -/
def panelBytes (k fmt : Nat) : Nat := (64 + 32 * ((k + 15) / 16) * groupBytes fmt + 63) / 64 * 64

/-- Whether two byte ranges meet. -/
def rangesMeet (a n b m : Nat) : Bool := decide (a < b + m) && decide (b < a + n)

/-- The bits of an element at an address, its position in the block for a BX format. -/
def Memory.elementBits (m : Memory) (f a pos : Nat) : Nat :=
  if 12 ≤ f then m.num a (fmtBytes f) / 2 ^ (16 + pos * (bxBits f + 1)) % 2 ^ (bxBits f + 1) else m.num a (fmtBytes f)

/-- Bits as a mask, the first lowest. -/
def maskOf : List Bool → Nat
  | [] => 0
  | b :: bs => (if b then 1 else 0) + 2 * maskOf bs

/-- A group packed: an element is absent when all its bits are zero, except in a NaN block (R246). `low` is the block's E and λ, or 0. -/
def packGroup (low : Nat) (xs : List Nat) : PanelGroup :=
  let present (x : Nat) : Bool := low % 256 == 255 || x != 0
  { header := word (low + maskOf (xs.map present) * 2 ^ 16), packed := xs.filter present }

/-- The first `n` elements of a presence mask over packed elements: an absent one is all zeros. -/
def unpackFrom : Nat → Nat → List Nat → List Nat
  | 0, _, _ => []
  | n + 1, mask, xs => if mask % 2 = 1 then xs.headD 0 :: unpackFrom n (mask / 2) (xs.drop 1) else 0 :: unpackFrom n (mask / 2) xs

/-- The values of the first `n` elements of a group, as the decompressor restores them (R246). -/
def PanelGroup.values (x : PanelGroup) (f n : Nat) : List Num :=
  ((unpackFrom n (x.header.toNat / 2 ^ 16) x.packed).zipIdx).map (fun e =>
    if 12 ≤ f then bxElement (bxBits f) (x.header.toNat % 2 ^ 16 + e.1 * 2 ^ (16 + e.2 * (bxBits f + 1))) e.2 else decodeCode f e.1)

/-- The values of a panel's column in ascending k. -/
def Panel.column (p : Panel) (c : Nat) : List Num := ((p.cols.getD c []).zipIdx).flatMap (fun x => x.1.values p.fmt (min 16 (p.k - 16 * x.2)))

/-- The groups of row `r` of a record, which is a panel's column. -/
def LayoutRecord.groups (g : LayoutRecord) (m : Memory) (r : Nat) : List PanelGroup :=
  (List.range ((g.kCount + 15) / 16)).map (fun q =>
    packGroup (if 12 ≤ g.fmt then m.num (g.addr r (16 * q)) 2 else 0)
      ((List.range (min 16 (g.kCount - 16 * q))).map (fun j => m.elementBits g.fmt (g.addr r (16 * q + j)) ((16 * q + j) % g.e0 % 16))))

/-- The panel that MLDB reads. -/
def readPanel (m : Memory) (gid start : Nat) (g : LayoutRecord) : Panel :=
  { start := start, size := panelBytes g.kCount g.fmt, k := g.kCount, fmt := g.fmt, cols := (List.range g.rowCount).map (g.groups m), source := g,
    gid := gid, poisoned := (List.range g.rowCount).filterMap (fun r => (g.rowMark m r).map (fun o => (r, o))) }

/-- The poison mark of row `i` of a stage: of an element of it, or of the entry of its index list that chose it (R414). -/
def stageMark (m : Memory) (g : LayoutRecord) (indices : Option (Nat × Nat)) (row i : Nat) : Option Dword :=
  match g.rowMark m row, indices with
  | some o, _ => some o
  | none, some (a, _) => m.markAt (a + 4 * i) 4
  | none, none => none

/-- The stage of some rows of a record. -/
def readStage (m : Memory) (gid : Nat) (g : LayoutRecord) (rows : List Nat) (indices : Option (Nat × Nat)) : Stage :=
  { rows := rows.map (g.readRow m), k := g.kCount, fmt := g.fmt, source := g, indices := indices, gid := gid,
    poisoned := (rows.zipIdx).filterMap (fun x => (stageMark m g indices x.1 x.2).map (fun o => (x.2, o))) }

/-- The bytes a stage needs. -/
def stageBytes (rows k fmt : Nat) : Nat := rows * ((k + 15) / 16) * groupBytes fmt

/-- The mark of row or column `i`. -/
def markOf (l : List (Nat × Dword)) (i : Nat) : Option Dword := (l.find? (fun x => x.1 == i)).map Prod.snd

/-! ### Accumulation (R87, R88, R250, R251) -/

/-- A value as an integer. -/
def Num.toInt : Num → Int
  | .fin n m e => if n then -((m * 2 ^ e.toNat : Nat) : Int) else ((m * 2 ^ e.toNat : Nat) : Int)
  | _ => 0

/-- The chunk size of an input format. -/
def chunkOf (f : Nat) : Nat := if 12 ≤ f then 16 else if f = 8 ∨ f = 9 then 4 else if f = 10 then 2 else 1

/-- A value rounded to f64 by RNE, with its flags. -/
def toF64 (x : Flagged) : Num × Flags :=
  let r := fmtF64.round .rne x.num
  (fmtF64.decode r.bits, x.flags ||| r.flags)

/-- A product of a matrix multiplication: at an absent B position, a +0, a NaN of A raises NV too (R246, R251; R73 gives a quiet NaN no flag elsewhere: DEDUCED, log 76). -/
def mmaProduct (a b : Num) : Flagged :=
  match a, b with
  | .nan _, .fin false 0 _ => ⟨.nan false, flagNV⟩
  | a, b => Num.mul a b

/-- The chunked sum of R87 over pairs of operands. -/
def chunkSum (n : Nat) : Nat → List (Num × Num) → Num → Num × Flags
  | 0, _, acc => (acc, 0)
  | _, [], acc => (acc, 0)
  | fuel + 1, ps, acc =>
    let cs := toF64 (Num.sum .rne ((ps.take n).map (fun p => mmaProduct p.1 p.2)))
    let sum := toF64 (Num.add .rne acc cs.1)
    let rest := chunkSum n fuel (ps.drop n) sum.1
    (rest.1, cs.2 ||| sum.2 ||| rest.2)

/-- One element of a product over its first `len` values of k: its new bits and flags. -/
def mmaElement (int : Bool) (n len : Nat) (old : Dword) (row col : List Num) : Dword × Flags :=
  let ps := (row.zip col).take len
  if int then (old + BitVec.ofInt 64 ((ps.map (fun p => p.1.toInt * p.2.toInt)).foldl (· + ·) 0), 0)
  else
    let r := chunkSum n (ps.length + 1) ps (fmtF64.decode old.toNat)
    if ps.isEmpty then (old, 0) else (dword (fmtF64.round .rne r.1).bits, r.2)

/-- Whether two formats may be multiplied. -/
def pairPermitted (fa fb : Nat) : Bool := (fa == 0 && fb == 0) || (decide (8 ≤ fa) && decide (8 ≤ fb))

/-! ### Execution (R238, R258) -/

/-- What a command needs before it executes, and what it does. -/
inductive Executed where
  | waits
  | failed (code : Nat) (m : Matrix)
  | done (m : Matrix) (scr : Memory) (flags : Flags)
  deriving Repr

/-- The record in a slot. -/
def Matrix.record? (m : Matrix) (k : Nat) : Option LayoutRecord := m.records.getD k none

/-- The A operand of an MMA: rows, K, format, marks, the rows read from a record, or the failing code. -/
def Matrix.operandA (m : Matrix) (scr : Memory) (src : Nat) : Nat ⊕ (Stage × Nat) :=
  if 8 ≤ src then (match m.stages.getD (src - 8) none with | some x => .inr (x, 0) | none => .inl 6)
  else
    match m.record? src with
    | none => .inl 7
    | some g => if 32 < g.rowCount then .inl 3 else .inr (readStage scr 0 g (List.range g.rowCount) none, g.conflicts (List.range g.rowCount))

/-- The products of a stage and a panel added to a tile, each element over its first `len` values of k, with the flags raised. -/
def Matrix.product (m : Matrix) (d : Nat) (a : Stage) (p : Panel) (len : Nat → Nat → Nat) : Matrix × Flags :=
  let n := min (chunkOf a.fmt) (chunkOf p.fmt)
  let cols := (List.range p.cols.length).map p.column
  let x (r c : Nat) : Dword × Flags := mmaElement (a.fmt == 0) n (len r c) (m.elem d r c) (a.rows.getD r []) (cols.getD c [])
  let inside (r c : Nat) : Bool := decide (r < a.rows.length) && decide (c < p.cols.length) && decide (0 < len r c)
  (m.setTile d (fun r c => if inside r c then (x r c).1 else m.elem d r c)
    (fun r c => if inside r c then orMark (m.mark d r c) (orMark (markOf a.poisoned r) (markOf p.poisoned c)) else m.mark d r c),
    ((List.range a.rows.length).flatMap (fun r => (List.range p.cols.length).map (fun c => (x r c).2))).foldl (· ||| ·) 0)

/-- MMA (R250). -/
def Matrix.mma (m : Matrix) (scr : Memory) (d src off : Nat) : Executed :=
  match m.operandA scr src with
  | .inl code => .failed code m
  | .inr (a, confl) =>
    match m.panels.find? (fun p => p.start == 64 * off) with
    | none => .failed 4 m
    | some p =>
      if a.k ≠ p.k then .failed 2 m
      else if !pairPermitted a.fmt p.fmt then .failed 1 m
      else
        let x := m.product d a p (fun _ _ => p.k)
        .done { x.1 with confl := x.1.confl + word confl } scr x.2

/-- Bytes of a stored tile row, its flags, and the element positions with their bytes and marks. -/
def tileRow (m : Matrix) (d fmt r : Nat) (int : Bool) (rm : Rounding) (satB : Bool) : List Byte × Flags :=
  let v (c : Nat) : Num := if int then Num.ofInt (m.elem d r c).toInt else fmtF64.decode (m.elem d r c).toNat
  let sat : Saturation := ⟨satB, none⟩
  let parts : List (List Byte × Flags) :=
    if 12 ≤ fmt then
      (List.range 2).map (fun h => let x := bxEncode (bxBits fmt) rm sat ((List.range 16).map (fun j => v (16 * h + j))); (toBytes (fmtBytes fmt) x.bits, x.flags))
    else (List.range 32).map (fun c => let x := toCode fmt rm sat (v c); (toBytes (fmtBytes fmt) x.bits, x.flags))
  (parts.flatMap Prod.fst, (parts.map Prod.snd).foldl (· ||| ·) 0)

/-- An MMA of a cancelled unit that is stopped between chunks: each element keeps the sum of a free number of its chunks, and `CONFL` the conflicts of a free number of fetch groups (R259). One that would fail leaves nothing. -/
def Matrix.stopMma (m : Matrix) (scr : Memory) (d src off fresh : Nat) : Matrix :=
  match m.operandA scr src, m.panels.find? (fun p => p.start == 64 * off) with
  | .inr (a, _), some p =>
    if a.k ≠ p.k ∨ !pairPermitted a.fmt p.fmt then m
    else
      let n := min (chunkOf a.fmt) (chunkOf p.fmt)
      let m' := (m.product d a p (fun r c => min p.k (n * ((Config.openValue fresh (32 * r + c)).toNat % ((p.k + n - 1) / n + 1))))).1
      let confl := match (if 8 ≤ src then none else m.record? src) with
        | some g => ((g.conflictList (List.range g.rowCount)).take ((Config.openValue fresh 1024).toNat % (g.kCount + 1))).foldl (· + ·) 0
        | none => 0
      { m' with confl := m'.confl + word confl }
  | _, _ => m

/-- MST: rows written in ascending order, and the marks of their elements put on what they write (R253, R414). -/
def Matrix.storeTile (m : Matrix) (scr : Memory) (d fmt a : Nat) (stride : Int) (int : Bool) (rm : Rounding) (satB : Bool) : Memory × Flags :=
  (List.range 32).foldl (fun (x : Memory × Flags) r =>
    let row := tileRow m d fmt r int rm satB
    let at_ := ((a : Int) + r * stride).toNat
    let mem := x.1.store 8 at_ row.1 false
    let bad (c : Nat) : Memory → Memory := fun mem =>
      if (m.mark d r c).isSome then mem.addPoison 8 (at_ + (if 12 ≤ fmt then c / 16 else c) * fmtBytes fmt) (fmtBytes fmt) else mem
    ((List.range 32).foldl (fun mem c => bad c mem) mem, x.2 ||| row.2)) (scr, 0)

/-- MLDC (R253). -/
def Matrix.loadTile (m : Matrix) (scr : Memory) (d fmt a : Nat) (stride : Int) (int : Bool) : Matrix :=
  let at_ (r c : Nat) : Nat := ((a : Int) + r * stride).toNat + (if 12 ≤ fmt then c / 16 else c) * fmtBytes fmt
  let v (r c : Nat) : Num := scr.element fmt (at_ r c) (c % 16)
  m.setTile d (fun r c => if int then BitVec.ofInt 64 (v r c).toInt else dword (fmtF64.round .rne (v r c)).bits)
    (fun r c => scr.markAt (at_ r c) (fmtBytes fmt))

/-- Whether a mask operation's condition holds at (r, c) (R255). -/
def maskCond (o : MaskOp) (w : Nat → Nat → Nat) (r c : Nat) : Bool :=
  match o.op with
  | 1 => decide ((w 0 r : Int) + signedOf 16 o.imm < (w 1 c : Int))
  | 2 => decide ((o.imm : Int) ≤ (w 0 r : Int) - (w 1 c : Int))
  | 3 => w 2 r != w 3 c
  | 4 => !bit (w 4 r) c
  | 5 => decide (o.imm ≤ w 1 c)
  | 6 => decide (o.imm ≤ w 0 r)
  | _ => true

/-- Operations combined in order (R256). -/
def maskAt (ops : List MaskOp) (w : Nat → Nat → Nat) (r c : Nat) : Bool :=
  ops.foldl (fun m o =>
    let x := maskCond o w r c
    match o.cmb with
    | 0 => x
    | 1 => m || x
    | 2 => m && x
    | _ => m && !x) false

/-- MMAM (R256). -/
def Matrix.applyMask (m : Matrix) (scr : Memory) (d a : Nat) (ops : List MaskOp) : Matrix :=
  let w (k i : Nat) : Nat := scr.num (a + 0x80 * k + 4 * i) 4
  let mk (k i : Nat) : Option Dword := scr.markAt (a + 0x80 * k + 4 * i) 4
  let hit (r c : Nat) : Bool := maskAt ops w r c
  let inputs (r c : Nat) : Option Dword := orMark (mk 0 r) (orMark (mk 1 c) (orMark (mk 2 r) (orMark (mk 3 c) (mk 4 r))))
  m.setTile d (fun r c => if hit r c then 0xFFF0000000000000 else m.elem d r c) (fun r c => if hit r c then inputs r c else orMark (m.mark d r c) (inputs r c))

/-- The chain of R89 over eight pairs. -/
def stcChain (F : FloatFmt) (rm : Rounding) (ps : List (Num × Num)) : Nat × Flags :=
  let first (p : Num × Num) : Num × Flags := toF64 (Num.mul p.1 p.2)
  let fused (acc : Num × Flags) (p : Num × Num) : Num × Flags :=
    let x := Num.mul p.1 p.2
    let y := toF64 ⟨(Num.add .rne x.num acc.1).num, x.flags ||| (Num.add .rne x.num acc.1).flags⟩
    (y.1, acc.2 ||| y.2)
  match ps with
  | [] => (0, 0)
  | p :: rest =>
    let acc := rest.foldl fused (first p)
    let r := F.round rm acc.1
    (r.bits, acc.2 ||| r.flags)

/-- STC: every input is read before any output is written (R257). -/
def stcOn (scr : Memory) (axis : Nat) (f64 : Bool) (u q o : Nat) (rm : Rounding) : Memory × Flags :=
  let n := if f64 then 8 else 4
  let F := if f64 then fmtF64 else fmtF32
  let ua (i j k : Nat) : Nat := u + ((8 * i + j) * 8 + k) * n
  let qa (p t : Nat) : Nat := q + (8 * p + t) * n
  let rd (a : Nat) : Num := F.decode (scr.num a n)
  let src (i j k t : Nat) : Nat × Nat :=
    match axis with
    | 0 => (qa i t, ua t j k)
    | 1 => (qa j t, ua i t k)
    | _ => (qa k t, ua i j t)
  let out (x : Nat) : (Nat × Flags) × Bool :=
    let i := x / 64
    let j := x / 8 % 8
    let k := x % 8
    let as := (List.range 8).map (src i j k)
    (stcChain F rm (as.map (fun a => (rd a.1, rd a.2))), as.any (fun a => (scr.markAt a.1 n).isSome || (scr.markAt a.2 n).isSome))
  let outs := (List.range 512).map (fun x => (x, out x))
  let mem := scr.store 8 o (outs.flatMap (fun x => toBytes n x.2.1.1)) false
  ((outs.filter (fun x => x.2.2)).foldl (fun m x => m.addPoison 8 (o + x.1 * n) n) mem, (outs.map (fun x => x.2.1.2)).foldl (· ||| ·) 0)

/-- The lines of the posting group's scratchpad that a command reads or writes (R258). -/
def Matrix.commandLines (m : Matrix) (scr : Memory) : MatrixOp → List Nat
  | .ldb j _ => (match m.record? j with | some g => g.lines (List.range g.rowCount) | none => [])
  | .lda _ j => (match m.record? j with | some g => g.lines (List.range g.rowCount) | none => [])
  | .mma _ src _ => if 8 ≤ src then [] else (match m.record? src with | some g => g.lines (List.range g.rowCount) | none => [])
  | .mam _ _ a => scrLines a 640
  | .st _ fmt _ a stride _ _ => (List.range 32).flatMap (fun (r : Nat) => scrLines ((a : Int) + r * stride).toNat (tileRowBytes fmt))
  | .ldc _ fmt _ a stride => (List.range 32).flatMap (fun (r : Nat) => scrLines ((a : Int) + r * stride).toNat (tileRowBytes fmt))
  | .gather _ j a n =>
    scrLines a (4 * n) ++ (match m.record? j with | some g => g.lines ((List.range n).map (fun r => scr.num (a + 4 * r) 4) |>.filter (· < g.rowCount)) | none => [])
  | .stc _ f64 u q o _ => let n := if f64 then 8 else 4; scrLines u (512 * n) ++ scrLines q (64 * n) ++ scrLines o (512 * n)
  | _ => []

/-- A stage loaded, or left empty where it would be too large (R248). -/
def Matrix.loadStage (m : Matrix) (scr : Memory) (gid x : Nat) (g : LayoutRecord) (rows : List Nat) (indices : Option (Nat × Nat)) : Executed :=
  if 65536 < stageBytes rows.length g.kCount g.fmt then .failed 6 { m with stages := m.stages.set x none }
  else
    .done { m with stages := m.stages.set x (some (readStage scr gid g rows indices)), confl := m.confl + word (g.conflicts rows) } scr 0

/-- A command carried out on the engine and on its group's scratchpad. -/
def Matrix.run (m : Matrix) (scr : Memory) (gid : Nat) : MatrixOp → Executed
  | .lay k r => .done { m with records := m.records.set k (some r) } scr 0
  | .ldb j off =>
    match m.record? j with
    | none => .failed 7 m
    | some g =>
      if 32 < g.rowCount then .failed 3 m
      else if 4096 ≤ off ∨ 262144 < 64 * off + panelBytes g.kCount g.fmt then .failed 5 m
      else
        let p := readPanel scr gid (64 * off) g
        .done { m with panels := m.panels.filter (fun q => !rangesMeet q.start q.size p.start p.size) ++ [p],
                       confl := m.confl + word (g.conflicts (List.range g.rowCount)) } scr 0
  | .lda x j =>
    match m.record? j with
    | none => .failed 7 m
    | some g => if 32 < g.rowCount then .failed 3 m else m.loadStage scr gid x g (List.range g.rowCount) none
  | .gather x j a n =>
    match m.record? j with
    | none => .failed 7 m
    | some g =>
      let rows := (List.range n).map (fun r => scr.num (a + 4 * r) 4)
      if rows.any (fun i => decide (g.rowCount ≤ i)) then .failed 9 m else m.loadStage scr gid x g rows (some (a, n))
  | .zero tm =>
    .done ((List.range 4).foldl (fun (m : Matrix) t => if bit tm t then m.setTile t (fun _ _ => 0) (fun _ _ => none) else m) m) scr 0
  | .mma d src off => m.mma scr d src off
  | .mam d j a =>
    match m.masks.getD j none with
    | none => .failed 8 m
    | some ops => .done (m.applyMask scr d a ops) scr 0
  | .mask j prog => .done { m with masks := m.masks.set j (some prog) } scr 0
  | .st d fmt int a stride rm satB => let x := m.storeTile scr d fmt a stride int (Rounding.ofCode rm) satB; .done m x.1 x.2
  | .ldc d fmt int a stride => .done (m.loadTile scr d fmt a stride int) scr 0
  | .trans d t => .done (m.setTile d (fun r c => m.elem t c r) (fun r c => m.mark t c r)) scr 0
  | .stc axis f64 u q o rm => let x := stcOn scr axis f64 u q o (Rounding.ofCode rm); .done m x.1 x.2
  | .accr _ _ _ _ _ _ _ _ => .done m scr 0

/-- A command of a batch has ended: its flags or its failure are recorded, and a finished sealed batch makes its arrival. -/
def State.endMatrixCommand (s : State) (c : MatrixCommand) (flags : Flags) (error : Option Nat) : State :=
  let r : SliceRef := ⟨c.gid, c.idx⟩
  let upd (b : MatrixBatch) : MatrixBatch :=
    if b.num ≠ c.batch then b
    else
      { b with
        left := b.left - 1
        flags := if c.nf then b.flags else Lanes.merge c.eff b.flags (Lanes.ofFn (fun i => b.flags.get i ||| flags))
        error := match b.error, error with | some e, _ => some e | none, some code => some (c.addr, code) | none, none => none }
  let s := s.modSlice r (fun sl =>
    { sl with matrix := { sl.matrix with sealed_ := sl.matrix.sealed_.map upd, openBatch := upd sl.matrix.openBatch } })
  match (s.slice r).matrix.sealed_.find? (fun b => b.num == c.batch) with
  | some b => if b.left = 0 then s.finishBatch c.gid b else s
  | none => s

/-- A MACCR delivers: each lane's element converted, its flags raised with it (R254). -/
def State.deliverAccr (s : State) (c : MatrixCommand) (m : Matrix) (t fmt dst : Nat) (int : Bool) (rows cols : List Nat) (rm : Rounding) (satB : Bool) : State :=
  let r : SliceRef := ⟨c.gid, c.idx⟩
  let x (i : Nat) : Converted :=
    let e := m.elem t (rows.getD i 0) (cols.getD i 0)
    toCode fmt rm ⟨satB, none⟩ (if int then Num.ofInt e.toInt else fmtF64.decode e.toNat)
  let lanes := if specIsS dst then (c.eff.lanes.getLast?).toList else c.eff.lanes
  let put (sl : Slice) (i : Nat) : Slice :=
    let v := extendCode fmt (x i).bits
    sl.deliver ⟨dst, codeWords fmt, i, [word v, word (v / 2 ^ 32)], m.mark t (rows.getD i 0) (cols.getD i 0)⟩
  let s := s.modSlice r (fun sl => if sl.ended then sl else lanes.foldl put sl)
  if c.nf then s else s.raiseFlags r c.eff (Lanes.ofFn (fun i => (x i).flags))

/-- The head command of a core's queue executed on its group's scratchpad. -/
def State.execMatrixHead (s : State) (at_ : CoreRef) (c : MatrixCommand) : State :=
  let k := s.core at_
  let g := s.group c.gid
  match s.absentAmong c.gid (k.matrix.commandLines g.scr c.op) with
  | (s, some _) => s
  | (s, none) =>
    let pop (s : State) (m : Matrix) : State := s.modCore at_ (fun k => { k with matrix := { m with queue := m.queue.drop 1 } })
    match c.op with
    | .accr t fmt int dst rows cols rm satB => (pop s k.matrix).deliverAccr c k.matrix t fmt dst int rows cols (Rounding.ofCode rm) satB
    | op =>
      match k.matrix.run g.scr c.gid op with
      | .waits => s
      | .failed code m => (pop s m).endMatrixCommand c 0 (some code)
      | .done m scr flags => ((pop s m).modGroup c.gid (fun g => { g with scr := scr })).endMatrixCommand c flags none

/-- R238: the engine executes its next queued command, once the lines it needs are present. -/
def execMatrixCommandExecute (at_ : CoreRef) (s : State) : Outcome :=
  match (s.core at_).matrix.queue with
  | c :: _ => .next (s.execMatrixHead at_ c)
  | [] => .next s

/-- Some panels read again from their sources (R261, R412). -/
def Matrix.rereadPanels (m : Matrix) (which : Panel → Bool) (scr : Nat → Memory) : Matrix :=
  { m with panels := m.panels.map (fun p => if which p then readPanel (scr p.gid) p.gid p.start p.source else p) }

/-- A stage read again from its source. -/
def Stage.reread (x : Stage) (mem : Memory) : Stage :=
  let rows := match x.indices with
    | some (a, n) => (List.range n).map (fun r => mem.num (a + 4 * r) 4)
    | none => List.range x.rows.length
  readStage mem x.gid x.source rows x.indices

/-- Some stages read again from their sources (R261, R412). -/
def Matrix.rereadStages (m : Matrix) (which : Nat → Bool) (scr : Nat → Memory) : Matrix :=
  { m with stages := m.stages.mapIdx (fun i (o : Option Stage) => if which i then o.map (fun x => x.reread (scr x.gid)) else o) }

/-- Panels and stages read again from their sources (R261). Of the values R261 allows an element whose source has changed, the model takes the one at the resume (DESIGN CHOICE, log 99). -/
def Matrix.reread (m : Matrix) (scr : Nat → Memory) : Matrix := (m.rereadPanels (fun _ => true) scr).rereadStages (fun _ => true) scr

/-! ### Meanings -/

def execMlay (p : List Prefix) (w : WForm) (s : State) : Outcome := issuePost 0x90 p w actMlay s
def execMldb (p : List Prefix) (w : WForm) (s : State) : Outcome :=
  issuePost 0x91 p w (actPost (fun c s => .ldb (WForm.field c.g.w 52 50) (uni c s c.g.w.a.toNat))) s
def execMlda (p : List Prefix) (w : WForm) (s : State) : Outcome :=
  issuePost 0x92 p w (actPost (fun c _ => .lda (WForm.field c.g.w 50 50) (WForm.field c.g.w 53 51))) s
def execMzero (p : List Prefix) (w : WForm) (s : State) : Outcome := issuePost 0x93 p w (actPost (fun c _ => .zero (WForm.field c.g.w 53 50))) s
def execMma (p : List Prefix) (w : WForm) (s : State) : Outcome :=
  issuePost 0x94 p w (actPost (fun c s => .mma (WForm.field c.g.w 51 50) (WForm.field c.g.w 55 52) (uni c s c.g.w.a.toNat))) s
def execMmam (p : List Prefix) (w : WForm) (s : State) : Outcome := issuePost 0x95 p w actMmam s
def execMmask (p : List Prefix) (w : WForm) (s : State) : Outcome := issuePost 0x96 p w actMmask s
def execMst (p : List Prefix) (w : WForm) (s : State) : Outcome := issuePost 0x97 p w actMst s
def execMldc (p : List Prefix) (w : WForm) (s : State) : Outcome := issuePost 0x98 p w actMldc s
def execMtrans (p : List Prefix) (w : WForm) (s : State) : Outcome :=
  issuePost 0x99 p w (actPost (fun c _ => .trans (WForm.field c.g.w 51 50) (WForm.field c.g.w 53 52))) s
def execMgather (p : List Prefix) (w : WForm) (s : State) : Outcome := issuePost 0x9A p w actMgather s
def execMbatch (p : List Prefix) (w : WForm) (s : State) : Outcome := issueEach 0x9B true p w actMbatch s
def execMwait (p : List Prefix) (w : WForm) (s : State) : Outcome := issueEach 0x9C true p w actMwait s
def execStc (p : List Prefix) (w : WForm) (s : State) : Outcome := issuePost 0x9D p w actStc s
def execMaccr (p : List Prefix) (w : WForm) (s : State) : Outcome := issueEach 0x9E true p w actMaccr s

end Sys2Proof.Machine
end

