-- ==== Sys2Proof/Machine/Mint.lean ====
section
/-! DEFINITION. The Mint: coupling images, biases and clamps, sweeps and select-one steps, the assayer, clearing between Mints, and its command queue (R262 to R292, R408 to R411, R415, R464). -/

namespace Sys2Proof.Machine

/-! ### Issue (R264 to R266) -/

/-- A command of a slice appended to the Mint queue of its core. -/
def State.postMint (s : State) (c : Ctx) (op : MintOp) : State × Fate :=
  let g := s.group c.ref.gid
  let cmd : MintCommand := { gid := c.ref.gid, idx := c.ref.idx, uid := g.uid, eff := c.eff, addr := c.g.addr, op := op }
  let s := s.modCore g.coreRef (fun k => { k with mint := { k.mint with queue := k.mint.queue ++ [cmd] } })
  (s.modSlice c.ref (fun sl => { sl with mintPosted := sl.mintPosted + 1 }), .next)

/-- The trap of a value outside its range (R266). -/
def mintValueTrap (c : Ctx) : Fate := .trap ⟨0x02, c.g.addr, c.eff, infoRuntime⟩

/-- A command whose operand is `n` bytes of scratchpad: alignment, then extent (R266). -/
def postMintAt (align n : Nat) (f : Nat → MintOp) (c : Ctx) (s : State) : State × Fate :=
  let a := uni c s c.g.w.a.toNat
  if a % align ≠ 0 then (s, .trap ⟨0x07, dword a, c.eff, word align⟩)
  else
    match firstOutside (s.group c.ref.gid) .scr a n with
    | some b => (s, .trap ⟨0x0A, dword b, c.eff, 1⟩)
    | none => s.postMint c (f a)

def actMncpl (c : Ctx) (s : State) : State × Fate :=
  let a := uniPair c s c.g.w.a.toNat
  if a.toNat % 8 ≠ 0 then (s, .trap ⟨0x07, a, c.eff, 8⟩)
  else if !canonical a then (s, .trap ⟨0x09, a, c.eff, 1⟩)
  else s.postMint c (.cpl a)

def actMnbias (c : Ctx) (s : State) : State × Fate :=
  let n := uni c s c.g.w.b.toNat
  let a := uni c s c.g.w.a.toNat
  if a % 4 ≠ 0 then (s, .trap ⟨0x07, dword a, c.eff, 4⟩)
  else
    match firstOutside (s.group c.ref.gid) .scr a (4 * n) with
    | some b => (s, .trap ⟨0x0A, dword b, c.eff, 1⟩)
    | none => if n = 0 ∨ 4096 < n then (s, mintValueTrap c) else s.postMint c (.bias a n)

/-- A command that names one coin. -/
def postCoin (f : Nat → MintOp) (c : Ctx) (s : State) : State × Fate :=
  let i := uni c s c.g.w.a.toNat
  if 4095 < i then (s, mintValueTrap c) else s.postMint c (f i)

def actMnclamp (c : Ctx) (s : State) : State × Fate :=
  if WForm.field c.g.w 50 50 = 1 then postCoin (fun i => .clampOne i (uni c s c.g.w.b.toNat != 0)) c s else postMintAt 8 1024 .clamp c s

def actMnfree (c : Ctx) (s : State) : State × Fate :=
  match WForm.field c.g.w 51 50 with
  | 0 => postMintAt 8 512 .free c s
  | 1 => postCoin .freeOne c s
  | _ => s.postMint c .freeAll

def actMnbeta (c : Ctx) (s : State) : State × Fate :=
  let b := word (uni c s c.g.w.a.toNat)
  if b = 0x80000000 then s.postMint c (.beta 0)
  else if b.getLsbD 31 || decide (0x7F800000 ≤ b.toNat) then (s, mintValueTrap c)
  else s.postMint c (.beta b)

def actMnmode (c : Ctx) (s : State) : State × Fate :=
  let f := WForm.field c.g.w
  postMintAt 8 32 (.mode (f 50 50 == 1) (f 51 51 == 1) (f 52 52 == 1)) c s

/-- MNSWEEP and MNPICK: a count of at most 65,535. -/
def postCount (f : Nat → MintOp) (c : Ctx) (s : State) : State × Fate :=
  let n := uni c s c.g.w.a.toNat
  if 65535 < n then (s, mintValueTrap c) else s.postMint c (f n)

/-- MNREAD sets its destination empty when it posts (R278). -/
def actMnread (c : Ctx) (s : State) : State × Fate :=
  match postMintAt 8 8192 (fun a => .read a c.g.w.d.toNat) c s with
  | (s, .next) => (s.modSlice c.ref (fun sl => sl.makeEmpty c.g.w.d.toNat c.eff), .next)
  | x => x

def actMnstate (c : Ctx) (s : State) : State × Fate :=
  postMintAt 8 512 (if WForm.field c.g.w 50 50 = 1 then .stateStore else .stateLoad) c s

/-- MNWAIT for a slice: nothing while a command of it is unfinished, else its first pending failure, all of them cleared (R280). -/
def State.tryMnwait (s : State) (r : SliceRef) (eff : Mask) : Option (State × Fate) :=
  let sl := s.slice r
  if sl.mintPosted ≠ 0 then none
  else
    let s := s.modSlice r (fun sl => { sl with mintFailures := [] })
    match sl.mintFailures with
    | x :: _ => some (s, .trap ⟨x.cause, x.addr, eff, x.info⟩)
    | [] => some (s, .next)

def actMnwait (c : Ctx) (s : State) : State × Fate :=
  match s.tryMnwait c.ref c.eff with
  | some x => x
  | none => parkOrCancel c s (.mnwait c.eff c.g.next)

/-! ### The coupling image (R267, R268) -/

/-- 8-byte words, lowest first. -/
def dwordsOf : List Byte → List Nat
  | a :: b :: c :: d :: e :: f :: g :: h :: rest => fromBytes [a, b, c, d, e, f, g, h] :: dwordsOf rest
  | _ => []

/-- The header of an image. -/
structure ImageHeader where
  ncol : Nat
  nb : Nat
  nl : Nat
  nc : Nat
  nt : Nat
  deriving DecidableEq, Repr

/-- The header in the first word of an image. -/
def headerOf (w : Nat) : ImageHeader := ⟨bits w 30 28 + 1, bits w 27 24, bits w 23 16, bits w 15 0, bits w 40 32⟩

/-- Whether the first word of an image is a valid header. -/
def headerOk (w : Nat) : Bool :=
  let h := headerOf w
  !bit w 31 && bits w 63 41 == 0 && decide (h.nb ≤ 8) && decide (h.nl ≤ 32) && decide (1 ≤ h.nc) && decide (h.nc ≤ 4096) && decide (h.nt ≤ 256)

/-- Words of the colour section. -/
def ImageHeader.colourWords (h : ImageHeader) : Nat := (h.nc + 7) / 8

/-- Bytes of an image. -/
def ImageHeader.size (h : ImageHeader) : Nat := 16 + 8 * (h.colourWords + h.nc * h.nl + h.nt + h.nc * h.nb)

/-- J of an entry as f32 bits without its sign. -/
def entryMag (w : Nat) : Nat := w % 2 ^ 31

/-- An entry whose J is zero is empty. -/
def entryEmpty (w : Nat) : Bool := entryMag w == 0

/-- Whether J of an entry is infinite or NaN. -/
def entryHuge (w : Nat) : Bool := decide (0x7F800000 ≤ entryMag w)

/-- The neighbour or boundary-table index of an entry. -/
def entryIndex (w : Nat) : Nat := bits w 43 32

/-- The colours in a word of the colour section, from coin `i`. -/
def colourBad (h : ImageHeader) (k w : Nat) : Bool := (List.range 8).any (fun b => decide (8 * k + b < h.nc) && decide (h.ncol ≤ bits w (8 * b + 7) (8 * b)))

/-- Whether the table entry may be named by a Mint of a core (R267). -/
def tableBad (at_ : CoreRef) (dies : BitVec 8) (w : Nat) : Bool :=
  bits w 15 12 != 0 || bit w 23 || bits w 63 27 != 0 || decide (95 < bits w 22 16) || !dies.getLsbD (bits w 26 24)
    || (bits w 22 16 == at_.core && bits w 26 24 == at_.die)

/-- The sections of an image after its header: colours, local entries, table, boundary entries. -/
def ImageHeader.sections (h : ImageHeader) (ws : List Nat) : List Nat × List Nat × List Nat × List Nat :=
  let a := ws.drop 2
  let b := a.drop h.colourWords
  let c := b.drop (h.nc * h.nl)
  (a.take h.colourWords, b.take (h.nc * h.nl), c.take h.nt, (c.drop h.nt).take (h.nc * h.nb))

/-- The first of some words, numbered on from `k`, that fails a test. -/
def firstWord (bad : Nat → Nat → Bool) : Nat → List Nat → Option Nat
  | _, [] => none
  | k, w :: rest => if bad k w then some k else firstWord bad (k + 1) rest

/-- The first invalid word of an image with a valid header, by its number in the image. -/
def ImageHeader.firstBad (h : ImageHeader) (at_ : CoreRef) (dies : BitVec 8) (ws : List Nat) : Option Nat :=
  let x := h.sections ws
  let base1 := 2 + h.colourWords
  let base2 := base1 + h.nc * h.nl
  let localBad (k w : Nat) : Bool :=
    !entryEmpty w && (entryHuge w || bits w 63 44 != 0 || decide (h.nc ≤ entryIndex w) || entryIndex w == k / max 1 h.nl)
  let boundBad (w : Nat) : Bool := !entryEmpty w && (entryHuge w || bits w 63 40 != 0 || decide (h.nt ≤ bits w 39 32))
  if ws.getD 1 0 ≠ 0 then some 1
  else
    match firstWord (fun k w => colourBad h k w) 0 x.1 with
    | some k => some (2 + k)
    | none =>
      match firstWord localBad 0 x.2.1 with
      | some k => some (base1 + k)
      | none =>
        match firstWord (fun _ w => tableBad at_ dies w) 0 x.2.2.1 with
        | some k => some (base2 + k)
        | none => (firstWord (fun _ w => boundBad w) 0 x.2.2.2).map (· + base2 + h.nt)

/-- The quotient of two non-negative numbers rounded to an integer magnitude, ties to even, and limited (R268, R270). -/
def quantise (limit x scale : Nat) : Int :=
  if scale = 0 then 0
  else
    match (Num.div (fmtF32.decode (x % 2 ^ 31)) (fmtF32.decode scale)).num with
    | .fin _ m e =>
      let q := min limit (roundUnit .rne false m e 0).1
      if bit x 31 then -(q : Int) else (q : Int)
    | _ => 0

/-- A maximum magnitude divided by the number of steps, as f32 bits (R268, R270). -/
def scaleOf (mx steps : Nat) : Nat := (fmtF32.round .rne (Num.div (fmtF32.decode mx) (Num.ofInt steps)).num).bits

/-- Entries cut into rows of `n`. -/
def rowsOf (n : Nat) : Nat → List Nat → List (List Nat)
  | 0, _ => []
  | k + 1, ws => ws.take n :: rowsOf n k (ws.drop n)

/-- The colours of an image, a byte a coin. -/
def coloursOf (h : ImageHeader) (ws : List Nat) : List Nat := ((ws.flatMap (fun w => (List.range 8).map (fun b => bits w (8 * b + 2) (8 * b)))).take h.nc)

/-- A valid image quantised (R268). -/
def ImageHeader.load (h : ImageHeader) (ws : List Nat) (addr : Dword) (part : Nat) : LoadedImage :=
  let x := h.sections ws
  let mx := ((x.2.1 ++ x.2.2.2).map entryMag).foldl max 0
  let jsc := scaleOf mx 127
  let slot (mask : Nat) (w : Nat) : Int × Nat := if entryEmpty w then (0, 0) else (quantise 127 (w % 2 ^ 32) jsc, entryIndex w % mask)
  { record := ⟨addr, part, h.nc, h.nl, h.nb, h.nt, h.ncol⟩
    colours := coloursOf h x.1
    table := x.2.2.1.map (fun w => (bits w 26 24, bits w 22 16, bits w 11 0))
    store := ⟨(rowsOf h.nl h.nc x.2.1).map (fun r => r.map (slot 4096)), (rowsOf h.nb h.nc x.2.2.2).map (fun r => r.map (slot 256))⟩
    jsc := word jsc }

/-! ### Field factors (R270) -/

/-- `round_mag(beta * scale * 2^16)` before its limit. -/
def factorOf (beta scale : Nat) : Nat :=
  match (Num.mul (fmtF32.decode beta) (fmtF32.decode scale)).num with
  | .fin _ m e => (roundUnit .rne false m (e + 16) 0).1
  | _ => 0

/-- KJ, KB and SATF recomputed. -/
def Mint.factors (m : Mint) : Mint :=
  let j := factorOf m.beta.toNat m.jsc.toNat
  let b := factorOf m.beta.toNat m.bsc.toNat
  let top := 2 ^ 31 - 1
  { m with kj := min top j, kb := min top b, satf := m.satf || decide (top < j) || decide (top < b) }

/-- NC and NCOL of the image record, 0 where there is none. -/
def Mint.nc (m : Mint) : Nat := match m.image with | some x => x.nc | none => 0
def Mint.ncol (m : Mint) : Nat := match m.image with | some x => x.ncol | none => 0

/-- A valid image taken: store, colours, boundary table, record, JSC and KJ are its own (R268). -/
def Mint.takeImage (m : Mint) (x : LoadedImage) : Mint :=
  { m with colours := x.colours, coupling := some x.store, tag := some x.record.part, stale := false, table := x.table, image := some x.record,
           jsc := x.jsc, cpv := true }.factors

/-- The store made invalid (R269, R292). -/
def Mint.loseImage (m : Mint) : Mint := { m with coupling := none, tag := none, stale := false, cpv := false }

/-! ### The local field and the flip rule (R272, R273, R276) -/

/-- `e^(n/256)` in the working fixed point. -/
def expOf256 (n : Nat) : Nat :=
  let t := n * fixOne / 256
  expFix (t % ln2Fix) * 2 ^ (t / ln2Fix)

/-- `S(X)` of R272. -/
def sigmoid16 (x : Int) : Nat :=
  let e := expOf256 x.natAbs
  let d := fixOne + e
  min 65535 ((131072 * (if 0 ≤ x then e else fixOne) + d) / (2 * d))

/-- The weight `min(65535, floor(65536 * min(1, e^(t/256)) + 1/2))` of R276. -/
def flipWeight (t : Int) : Nat :=
  if 0 ≤ t then 65535
  else
    let e := expOf256 t.natAbs
    min 65535 ((131072 * fixOne + e) / (2 * e))

/-- 16 bits of the keyed stream (R273). -/
def replayDraw (key : Dword) (w idx : Nat) : Nat := (mix64 (key + 0x9E3779B97F4A7C15 * dword (w * 2 ^ 13 + idx + 1))).toNat / 2 ^ 48

/-- The state of a coin with field `X` after an update; the Mint's own noise decides in physical mode (R273, R274). -/
def Mint.flip (m : Mint) (fresh idx : Nat) (x : Int) : Bool :=
  if m.physical then (Config.mintNoise (fresh * 8192 + idx)).getLsbD 0 else decide (replayDraw m.key m.sweep.toNat idx < sigmoid16 x)

/-- +1 or -1. -/
def spin (b : Bool) : Int := if b then 1 else -1

/-- The local field of a coin from a snapshot of the coins and the boundary states (R272). -/
def Mint.field (m : Mint) (c : Couplings) (coins : BitVec 4096) (remote : Nat → Bool) (i : Nat) : Int :=
  let sum (xs : List (Int × Nat)) (st : Nat → Bool) : Int := (xs.map (fun x => x.1 * spin (st x.2))).foldl (· + ·) 0
  let a := m.biases.getD i 0 * m.kb + (sum (c.locals_.getD i []) coins.getLsbD + sum (c.bounds.getD i []) remote) * m.kj
  max (-32768) (min 32767 ((a + 128).fdiv 256))

/-- The free coins below NC. -/
def Mint.free (m : Mint) : List Nat := (List.range m.nc).filter (fun i => !m.clamps.getLsbD i)

/-- A bit of a coin set to a value. -/
def setCoin (x : BitVec 4096) (i : Nat) (v : Bool) : BitVec 4096 := if v then x ||| BitVec.ofNat 4096 (2 ^ i) else x &&& ~~~(BitVec.ofNat 4096 (2 ^ i))

/-- Coins from a function of their index. -/
def coinsOf (f : Nat → Bool) : BitVec 4096 := BitVec.ofNat 4096 (((List.range 4096).map (fun i => if f i then 2 ^ i else 0)).foldl (· + ·) 0)

/-- The probe coins updated with X = 0 (R273, R283). -/
def Mint.updateProbes (m : Mint) (fresh : Nat) : Mint :=
  { m with probes := BitVec.ofNat 64 (((List.range 64).map (fun p => if m.flip fresh (4096 + p) 0 then 2 ^ p else 0)).foldl (· + ·) 0) }

/-- One colour phase (R275). -/
def Mint.phase (m : Mint) (fresh : Nat) (c : Couplings) (remote : Nat → Bool) (colour : Nat) : Mint :=
  let snap := m.coins
  let moved := m.free.filter (fun i => m.colours.getD i 0 == colour)
  let m := { m with coins := moved.foldl (fun x i => setCoin x i (m.flip fresh i (m.field c snap remote i))) snap }
  if colour = 0 then m.updateProbes fresh else m

/-- One select-one step's flip (R276). -/
def Mint.pick (m : Mint) (fresh : Nat) (c : Couplings) (remote : Nat → Bool) : Mint :=
  let ws := m.free.map (fun i => (i, flipWeight (-2 * spin (m.coins.getLsbD i) * m.field c m.coins remote i)))
  let total := (ws.map Prod.snd).foldl (· + ·) 0
  let d := if m.physical then (Config.mintNoise (fresh * 8192 + 4161)).toNat
    else (mix64 (m.key + 0x9E3779B97F4A7C15 * dword (m.sweep.toNat * 2 ^ 13 + 4161))).toNat
  let r := d / 2 ^ 32 * total / 2 ^ 32
  let rec find : Nat → List (Nat × Nat) → Option Nat
    | _, [] => none
    | acc, w :: rest => if r < acc + w.2 then some w.1 else find (acc + w.2) rest
  let m := match (if total = 0 then none else find 0 ws) with
    | some k => { m with coins := setCoin m.coins k (!m.coins.getLsbD k) }
    | none => m
  m.updateProbes fresh

/-- The counters and the assayer after a sweep or step; whether a window was judged biased, and its PC (R275, R284, R285). -/
def Mint.tally (m : Mint) : Mint × Option Nat :=
  let counts := (List.range 4096).map (fun i => let n := m.counts.getD i 0; if i < m.nc ∧ m.coins.getLsbD i then min 65535 (n + 1) else n)
  let m := { m with counts := counts, scnt := min (2 ^ 32 - 1) (m.scnt + 1), sweep := m.sweep + 1 }
  if m.physical then
    let pc := m.pc + ((List.range 64).filter (fun p => m.probes.getLsbD p)).length
    let pn := m.pn + 64
    if 65536 ≤ pn then
      if 656 ≤ (pc : Int) - 32768 ∨ (pc : Int) - 32768 ≤ -656 then ({ m with pc := 0, pn := 0, asyf := true }, some pc) else ({ m with pc := 0, pn := 0 }, none)
    else ({ m with pc := pc, pn := pn }, none)
  else (m, none)

/-! ### Clearing (R287 to R289, R408, R464) -/

/-- Whether `a` comes before `b` among 32-bit labels. -/
def labelBefore (a b : Word) : Bool := decide (2 ^ 31 ≤ (a - b).toNat)

/-- The first label received from a publisher. -/
def Mint.firstLabel (m : Mint) (die core : Nat) : Option Word := (m.firstLabels.find? (fun x => x.1 == die && x.2.1 == core)).map (fun x => x.2.2)

/-- The label that the next sweep uses of a publisher, none when nothing has been received (R288). -/
def Mint.wanted (m : Mint) (die core : Nat) : Option Word :=
  let want := m.sweep - word m.staleness
  (m.firstLabel die core).map (fun f => if labelBefore want f then f else want)

/-- A publication held. -/
def Mint.held (m : Mint) (die core : Nat) (label : Word) : Option Received :=
  m.received.find? (fun x => x.die == die && x.core == core && x.label == label)

/-- What the next sweep lacks of its publishers: label, die and core (R288). -/
def Mint.lacks (m : Mint) : Option (Word × Nat × Nat) :=
  m.subs.findSome? (fun p =>
    match m.wanted p.1 p.2.1 with
    | some l => if (m.held p.1 p.2.1 l).isSome then none else some (l, p.1, p.2.1)
    | none => some (m.sweep - word m.staleness, p.1, p.2.1))

/-- Labels of a publisher that a subscriber holds or that travel to it. -/
def State.labelsAt (s : State) (from_ to_ : CoreRef) : Nat :=
  ((s.core to_).mint.received.filter (fun x => x.die == from_.die && x.core == from_.core)).length
    + (s.clearPackets.filter (fun p => p.fromDie == from_.die && p.fromCore == from_.core && p.toDie == to_.die && p.toCore == to_.core && p.label.isSome)).length

/-- What the next sweep waits for: a label, or room at a subscriber (R288, R289). -/
def State.mintStall (s : State) (at_ : CoreRef) : Option (Word × Nat × Nat) :=
  let m := (s.core at_).mint
  if !m.clearing then none
  else
    match m.lacks with
    | some x => some x
    | none =>
      (m.served.find? (fun x => decide (16 ≤ s.labelsAt at_ ⟨x.die, x.core⟩))).map (fun x => (m.sweep + 1, x.die, x.core))

/-- The state of a boundary coin in the next sweep (R288, R464). -/
def Mint.remote (m : Mint) (k : Nat) : Bool :=
  let t := m.table.getD k (0, 0, 0)
  if m.clearing then
    match (m.wanted t.1 t.2.1).bind (m.held t.1 t.2.1) with
    | some x => (x.states.find? (fun y => y.1 == t.2.2)).map Prod.snd |>.getD false
    | none => false
  else (m.lastStates.find? (fun x => x.1 == t.1 && x.2.1 == t.2.1 && x.2.2.1 == t.2.2)).map (fun x => x.2.2.2) |>.getD false

/-- Sweep `SWEEP` begins: labels that no later sweep uses are discarded (R289). -/
def Mint.begin_ (m : Mint) : Mint :=
  { m with
    started := some m.sweep, stalled := none
    received := m.received.filter (fun x => labelBefore m.sweep (x.label + word m.staleness + 1)) }

/-- One publication to a subscriber (R287, R408). -/
def Mint.publication (m : Mint) (at_ : CoreRef) (x : Served) (first : Bool) : ClearPacket :=
  { fromDie := at_.die, fromCore := at_.core, toDie := x.die, toCore := x.core, label := some m.sweep, coins := x.coins,
    states := x.coins.map m.coins.getLsbD, first := first, epoch := m.epoch, heldBy := none }

/-- The current states published to every subscriber, as the first publication or a later one (R287). -/
def State.publish (s : State) (at_ : CoreRef) (first : Bool) : State :=
  let m := (s.core at_).mint
  { s with clearPackets := s.clearPackets ++ m.served.map (fun x => m.publication at_ x first) }

/-- A restart withdraws the Mint's publications on their way and opens an epoch (R277). -/
def State.openEpoch (s : State) (at_ : CoreRef) : State :=
  { s with clearPackets := s.clearPackets.filter (fun p => !(p.fromDie == at_.die && p.fromCore == at_.core && p.label.isSome)) }.modCore at_ (fun k =>
    { k with mint := { k.mint with epoch := k.mint.epoch + 1 } })

/-- The Mint's own subscriptions dropped, with the labels it holds and those on their way to it. -/
def State.unsubscribe (s : State) (at_ : CoreRef) : State :=
  let s := (s.core at_).mint.subs.foldl (fun s p =>
    s.modCore ⟨p.1, p.2.1⟩ (fun k => { k with mint := { k.mint with served := k.mint.served.filter (fun x => !(x.die == at_.die && x.core == at_.core)) } })) s
  let s := { s with clearPackets := s.clearPackets.filter (fun p =>
    if p.label.isSome then !(p.toDie == at_.die && p.toCore == at_.core) else !(p.fromDie == at_.die && p.fromCore == at_.core)) }
  s.modCore at_ (fun k => { k with mint := { k.mint with subs := [], received := [], firstLabels := [], epochs := [], started := none, stalled := none } })

/-- The publishers a boundary table names, with their coins in ascending table index, each once (R408). -/
def publishersOf (t : List (Nat × Nat × Nat)) : List (Nat × Nat × List Nat) :=
  let ps := (t.map (fun x => (x.1, x.2.1))).eraseDups
  ps.map (fun p => (p.1, p.2, ((t.filter (fun x => x.1 == p.1 && x.2.1 == p.2)).map (fun x => x.2.2)).eraseDups))

/-- The Mint subscribes from a boundary table (R287, R408). -/
def State.subscribe (s : State) (at_ : CoreRef) (table : List (Nat × Nat × Nat)) : State :=
  let ps := publishersOf table
  let s := s.modCore at_ (fun k => { k with mint := { k.mint with subs := ps } })
  { s with clearPackets := s.clearPackets ++ ps.map (fun p =>
      { fromDie := at_.die, fromCore := at_.core, toDie := p.1, toCore := p.2.1, label := none, coins := p.2.2, states := [], first := false, epoch := 0,
        heldBy := none }) }

/-! ### The end of a command (R280, R281) -/

/-- The head command has ended. -/
def State.endMint (s : State) (at_ : CoreRef) (c : MintCommand) : State :=
  let s := s.modCore at_ (fun k => { k with mint := { k.mint with queue := k.mint.queue.drop 1, current := none, block := none, stalled := none } })
  s.modSlice ⟨c.gid, c.idx⟩ (fun sl => { sl with mintPosted := sl.mintPosted - 1 })

/-- The head command has failed: its failure waits for the slice's MNWAIT, and a register it owed is full again (R25, R280). -/
def State.failMint (s : State) (at_ : CoreRef) (c : MintCommand) (last : Nat) (f : MintFailure) : State :=
  let s := s.modCore at_ (fun k => { k with mint := { k.mint with last := last } })
  let s := s.modSlice ⟨c.gid, c.idx⟩ (fun sl =>
    let sl := match c.op with | .read _ d => sl.makeFull d c.eff | _ => sl
    { sl with mintFailures := sl.mintFailures ++ [f] })
  s.endMint at_ c

/-- A Mint fault with a code (R281). -/
def State.mintFault (s : State) (at_ : CoreRef) (c : MintCommand) (code : Nat) (a : Dword) (extra : Nat) : State :=
  s.failMint at_ c code ⟨0x15, a, word (code + 2 ^ 8 * extra)⟩

/-- A subscription of the head command is under way. -/
def State.subscribing (s : State) (at_ : CoreRef) : Bool :=
  s.clearPackets.any (fun p => p.label.isNone && p.fromDie == at_.die && p.fromCore == at_.core)

/-- The state with the Mint of a core changed. -/
def State.modMint (s : State) (at_ : CoreRef) (f : Mint → Mint) : State := s.modCore at_ (fun k => { k with mint := f k.mint })

/-- The states of a publication kept as the last received of their coins (R464). -/
def Mint.noteStates (m : Mint) (die core : Nat) (states : List (Nat × Bool)) : Mint :=
  let kept := m.lastStates.filter (fun (x : Nat × Nat × Nat × Bool) => !(x.1 == die && x.2.1 == core && states.any (fun y => y.1 == x.2.2.1)))
  { m with lastStates := kept ++ states.map (fun (y : Nat × Bool) => (die, core, y.1, y.2)) }

/-- The groups of a mode block written (R277, R284). What came in while the subscriptions were taken counts as received with clearing enabled. -/
def Mint.writeMode (m : Mint) (w : ModeWrite) : Mint :=
  let m := match w.noise with | some x => { m with physical := x.1, key := x.2, pc := 0, pn := 0 } | none => m
  let m := match w.sweep with | some x => { m with sweep := x } | none => m
  match w.clearing with
  | some x =>
    let m := if x.1 && !m.clearing then m.received.foldl (fun (m : Mint) r => m.noteStates r.die r.core r.states) m else m
    { m with clearing := x.1, staleness := x.2.1, tmo := x.2.2 }
  | none => m

/-- The head command ends once its subscriptions have: an image is taken, a mode block written and its states published; one that was refused fails with code 7, changes nothing of the mode, and as an image load leaves the store invalid (R269, R281, R287, R408). -/
def State.endJoining (s : State) (at_ : CoreRef) : State :=
  match (s.core at_).mint.joining with
  | none => s
  | some j =>
    if s.subscribing at_ then s
    else
      let restart := (s.core at_).mint.clearing
      let s := s.modMint at_ (fun m => { m with joining := none })
      if j.refused then
        let s := s.modMint at_ (fun m =>
          let m := match j.does with | .inl _ => m.loseImage | .inr _ => m
          if m.clearing then m else { m with received := [], firstLabels := [], epochs := [] })
        s.mintFault at_ j.cmd 7 j.cmd.addr 0
      else
        match j.does with
        | .inl x => (s.modMint at_ (fun m => m.takeImage x)).endMint at_ j.cmd
        | .inr w => (((if restart then s.openEpoch at_ else s).modMint at_ (fun m => m.writeMode w)).publish at_ true).endMint at_ j.cmd

/-- The head command drops the Mint's subscriptions, subscribes from a boundary table, and waits for its subscriptions to be taken. -/
def State.join (s : State) (at_ : CoreRef) (j : Joining) (table : List (Nat × Nat × Nat)) : State :=
  (((s.unsubscribe at_).subscribe at_ table).modMint at_ (fun m => { m with joining := some j })).endJoining at_

/-! ### Execution (R265, R269 to R286) -/

/-- What reading an image finds. -/
inductive ImageRead where
  | ok (h : ImageHeader) (ws : List Nat)
  | stopped (a : Dword) (r : Reach)
  | poisoned (a : Dword)
  | invalid (a : Dword)
  deriving DecidableEq, Repr

/-- Bytes of an image read like the source of a copy (R269, R415). -/
def State.imageBytes (s : State) (at_ : CoreRef) (part unitId : Nat) (a : Dword) (n : Nat) : State × (List Byte ⊕ ImageRead) :=
  match s.engineSpan at_ part unitId a needRead 0 (n + 1) n with
  | (s, .inr e) => (s, .inr (.stopped e.1 e.2))
  | (s, .inl ps) =>
    match (ps.foldl (fun (x : Nat × Option Nat) p =>
      (x.1 + p.2, match x.2 with | some b => some b | none => (s.mem.poisonAt 128 p.1 p.2).map (fun u => x.1 + (u - p.1)))) (0, none)).2 with
    | some off => (s, .inr (.poisoned (dword ((a.toNat + off) / 128 * 128))))
    | none => (s, .inl (s.piecesBytes ps))

/-- A coupling image read and judged (R267). -/
def State.readImage (s : State) (at_ : CoreRef) (part unitId : Nat) (a : Dword) : State × ImageRead :=
  match s.imageBytes at_ part unitId a 16 with
  | (s, .inr e) => (s, e)
  | (s, .inl hd) =>
    let w := (dwordsOf hd).headD 0
    if !headerOk w then (s, .invalid a)
    else
      let h := headerOf w
      match s.imageBytes at_ part unitId a h.size with
      | (s, .inr e) => (s, e)
      | (s, .inl bs) =>
        let dies := match s.part? part with | some p => p.dies | none => 0
        match h.firstBad at_ dies (dwordsOf bs) with
        | some k => (s, .invalid (a + dword (8 * k)))
        | none => (s, .ok h (dwordsOf bs))

/-- MNCPL (R267 to R269, R287). -/
def State.runMncpl (s : State) (at_ : CoreRef) (c : MintCommand) (a : Dword) : State :=
  let g := s.group c.gid
  let lose (s : State) : State := s.modMint at_ Mint.loseImage
  match s.readImage at_ g.part (s.unitIdOf g) a with
  | (s, .stopped _ (.fault seq)) => s.modMint at_ (fun m => { m with block := some (.fault seq) })
  | (s, .stopped _ (.migrate p n)) => s.modMint at_ (fun m => { m with block := some (.migration p n) })
  | (s, .stopped b _) => (lose s).mintFault at_ c 5 b 0
  | (s, .poisoned b) => (lose s).mintFault at_ c 5 b 0
  | (s, .invalid b) => (lose s).mintFault at_ c 3 b 0
  | (s, .ok h ws) =>
    let x := h.load ws a g.part
    let s := s.modMint at_ (fun m => { m with block := none })
    if (s.core at_).mint.clearing then s.join at_ ⟨c, .inl x, false⟩ x.table else (s.modMint at_ (fun m => m.takeImage x)).endMint at_ c

/-- MNBIAS (R270). -/
def State.runMnbias (s : State) (at_ : CoreRef) (c : MintCommand) (a n : Nat) : State :=
  let scr := (s.group c.gid).scr
  let bs := (List.range n).map (fun i => scr.num (a + 4 * i) 4)
  match firstWord (fun _ w => entryHuge w) 0 bs with
  | some i => s.mintFault at_ c 6 c.addr i
  | none =>
    let bsc := scaleOf ((bs.map entryMag).foldl max 0) 32767
    (s.modMint at_ (fun m => { m with bsc := word bsc, biases := bs.map (fun w => quantise 32767 w bsc) }.factors)).endMint at_ c

/-- MNMODE on the 32 bytes of its block (R277). -/
def State.runMnmode (s : State) (at_ : CoreRef) (c : MintCommand) (wn ws wc : Bool) (a : Nat) : State :=
  let scr := (s.group c.gid).scr
  let m := (s.core at_).mint
  let w0 := scr.num a 4
  let w1 := scr.num (a + 4) 4
  if scr.num (a + 0x18) 8 ≠ 0 ∨ (wn ∧ bits w0 31 1 ≠ 0) ∨ (wc ∧ bits w1 31 5 ≠ 0) ∨ (ws ∧ m.clearing ∧ !wc) then s.mintFault at_ c 8 c.addr 0
  else if wn ∧ bit w0 0 ∧ m.asyf then s.mintFault at_ c 2 c.addr 0
  else
    let w : ModeWrite :=
      ⟨if wn then some (bit w0 0, dword (scr.num (a + 8) 8)) else none, if ws then some (word (scr.num (a + 0x10) 4)) else none,
        if wc then some (bit w1 4, bits w1 3 0, scr.num (a + 0x14) 4) else none⟩
    if wc ∧ bit w1 4 then s.join at_ ⟨c, .inr w, false⟩ m.table
    else ((if wc then s.unsubscribe at_ else s).modMint at_ (fun m => m.writeMode w)).endMint at_ c

/-- MNREAD (R278). -/
def State.runMnread (s : State) (at_ : CoreRef) (c : MintCommand) (a d : Nat) : State :=
  let m := (s.core at_).mint
  if m.poisoned ≠ [] then s.mintFault at_ c 5 0 0
  else
    let counts := (List.range 4096).flatMap (fun i => toBytes 2 (if i < m.nc then m.counts.getD i 0 else 0))
    let s := s.modGroup c.gid (fun g => { g with scr := g.scr.store 8 a counts false })
    let lanes := if specIsS d then (c.eff.lanes.getLast?).toList else c.eff.lanes
    let s := s.modSlice ⟨c.gid, c.idx⟩ (fun sl => if sl.ended then sl else lanes.foldl (fun sl i => sl.deliver ⟨d, 1, i, [word m.scnt], none⟩) sl)
    (s.modMint at_ (fun m => { m with counts := [], scnt := 0 })).endMint at_ c

/-- `mnreset.all`: the Mint reset of R263, which leaves the queue. -/
def State.resetMint (s : State) (at_ : CoreRef) : State := (s.unsubscribe at_).modMint at_ (fun m => { Mint.clear with queue := m.queue })

/-- Bit `i` of a bitmap of bytes at an address (R271). -/
def Memory.mapBit (m : Memory) (a i : Nat) : Bool := (m.byte (a + i / 8)).getLsbD (i % 8)

/-- A sweep or step command begins: its requirements (R275, R276, R285, R415). -/
def State.startSweeps (s : State) (at_ : CoreRef) (c : MintCommand) (n : Nat) : State :=
  let m := (s.core at_).mint
  if m.poisoned ≠ [] then s.mintFault at_ c 5 0 0
  else if n = 0 then s.endMint at_ c
  else if !m.cpv then s.mintFault at_ c 4 c.addr 0
  else if m.physical ∧ m.asyf then s.mintFault at_ c 2 c.addr 0
  else s.modMint at_ (fun m => { m with current := some (c, n) })

/-- The scratchpad bytes a command reads: address and length. -/
def MintOp.reads : MintOp → Nat × Nat
  | .bias a n => (a, 4 * n)
  | .clamp a => (a, 1024)
  | .free a => (a, 512)
  | .mode _ _ _ a => (a, 32)
  | .stateLoad a => (a, 512)
  | _ => (0, 0)

/-- The scratchpad bytes a command writes. -/
def MintOp.writes : MintOp → Nat × Nat
  | .read a _ => (a, 8192)
  | .stateStore a => (a, 512)
  | _ => (0, 0)

/-- The coins that `mnstate.ld` sets: the free ones below NC (R279). -/
def Mint.loadable (m : Mint) (i : Nat) : Bool := decide (i < m.nc) && !m.clamps.getLsbD i

/-- The coin groups that stay poisoned under `mnstate.ld`: those it does not rewrite whole (R413, R415). -/
def Mint.stillPoisoned (m : Mint) : List Nat := m.poisoned.filter (fun n => !(List.range 64).all (fun j => m.loadable (64 * n + j)))

/-- The bitmap that `mnstate.st` writes into a scratchpad: the states of the coins, each poisoned group's word marked (R279, R413). -/
def Mint.storeCoins (m : Mint) (scr : Memory) (a : Nat) : Memory :=
  m.poisoned.foldl (fun x n => x.addPoison 8 (a + 8 * n) 8) (scr.store 8 a (toBytes 512 m.coins.toNat) false)

/-- A command that is neither waiting nor under way carried out. -/
def State.runMint (s : State) (at_ : CoreRef) (c : MintCommand) : State :=
  let scr := (s.group c.gid).scr
  let m := (s.core at_).mint
  let put (f : Mint → Mint) : State := (s.modMint at_ f).endMint at_ c
  match c.op with
  | .cpl a => s.runMncpl at_ c a
  | .bias a n => s.runMnbias at_ c a n
  | .clamp a =>
    if m.clearing then s.mintFault at_ c 9 c.addr 0
    else put (fun m =>
      { m with
        clamps := coinsOf (fun i => m.clamps.getLsbD i || scr.mapBit a i)
        coins := coinsOf (fun i => if scr.mapBit a i then scr.mapBit (a + 512) i else m.coins.getLsbD i) })
  | .clampOne i v =>
    if m.clearing then s.mintFault at_ c 9 c.addr 0
    else put (fun m => { m with clamps := setCoin m.clamps i true, coins := setCoin m.coins i v })
  | .free a => put (fun m => { m with clamps := coinsOf (fun i => m.clamps.getLsbD i && !scr.mapBit a i) })
  | .freeOne i => put (fun m => { m with clamps := setCoin m.clamps i false })
  | .freeAll => put (fun m => { m with clamps := 0 })
  | .beta b => put (fun m => { m with beta := b }.factors)
  | .mode wn ws wc a => s.runMnmode at_ c wn ws wc a
  | .sweep n => s.startSweeps at_ c n
  | .pick n => s.startSweeps at_ c n
  | .read a d => s.runMnread at_ c a d
  | .stateLoad a =>
    if m.clearing then s.mintFault at_ c 9 c.addr 0
    else
      put (fun m =>
        { m with
          coins := coinsOf (fun i => if m.loadable i then scr.mapBit a i else m.coins.getLsbD i)
          poisoned := m.stillPoisoned })
  | .stateStore a => (s.modGroup c.gid (fun g => { g with scr := m.storeCoins g.scr a })).endMint at_ c
  | .reset all =>
    if all then (s.resetMint at_).endMint at_ c else put (fun m => { m with asyf := false, satf := false, stalls := 0, last := 0, pc := 0, pn := 0 })

/-- The address a failed image load reports: the first byte of the image in the page (R281). -/
def MintCommand.imageAddr (c : MintCommand) (vpage : Nat) : Dword :=
  match c.op with
  | .cpl a => if a.toNat < vpage then dword vpage else a
  | _ => dword vpage

/-- The head command of a Mint, once nothing blocks it and the lines it needs are present (R206, R265, R415). -/
def State.execMintHead (s : State) (at_ : CoreRef) (c : MintCommand) : State :=
  let g := s.group c.gid
  let block := (s.core at_).mint.block
  let failed := match block with | some b => s.failedBlock g.part b | none => false
  let blocked := match block with | some b => !s.blockOver g.part g b | none => false
  if failed then
    let vpage := match block, s.part? g.part with
      | some (.fault seq), some p => ((p.faults.find? (fun f => f.seq == seq)).map (fun f => f.vpage)).getD 0
      | _, _ => 0
    (s.modMint at_ Mint.loseImage).mintFault at_ c 5 (c.imageAddr vpage) 0
  else if blocked then s
  else
    match s.absentAmong c.gid (scrLines c.op.reads.1 c.op.reads.2 ++ scrLines c.op.writes.1 c.op.writes.2) with
    | (s, some _) => s
    | (s, none) =>
      match (if c.op.reads.2 = 0 then none else g.scr.markAt c.op.reads.1 c.op.reads.2) with
      | some a => s.mintFault at_ c 5 a 0
      | none => s.runMint at_ c

/-- The recorded image read again after its store was lost: it is taken, or the store is invalid; a page fault or a moving page is waited for (R231, R269, R292). -/
def State.rereadImage (s : State) (at_ : CoreRef) : State :=
  let m := (s.core at_).mint
  let lose (s : State) : State := s.modMint at_ (fun m => { m.loseImage with block := none })
  match m.image with
  | none => lose s
  | some r =>
    let ended := match m.block with | some b => s.failedBlock r.part b || s.blockOver r.part Group.vacant b | none => true
    if !ended then s
    else if (match m.block with | some b => s.failedBlock r.part b | none => false) then lose s
    else
      match s.readImage at_ r.part 0 r.addr with
      | (s, .ok h ws) => s.modMint at_ (fun m => { m.takeImage (h.load ws r.addr r.part) with block := none })
      | (s, .stopped _ (.fault seq)) => s.modMint at_ (fun m => { m with block := some (.fault seq) })
      | (s, .stopped _ (.migrate p n)) => s.modMint at_ (fun m => { m with block := some (.migration p n) })
      | (s, _) => lose s

/-- R265: the Mint starts, or goes on with, its next command, once a store that was lost has been read again (R292). -/
def execMintCommandExecute (at_ : CoreRef) (s : State) : Outcome :=
  let m := (s.core at_).mint
  if m.stale then .next (s.rereadImage at_)
  else
    match m.joining, m.current, m.queue with
    | none, none, c :: _ => .next (s.execMintHead at_ c)
    | _, _, _ => .next s

/-- One sweep or step of the current command, or its stall; a coin group poisoned meanwhile ends the command (R415). -/
def State.mintTurn (s : State) (at_ : CoreRef) (c : MintCommand) (left : Nat) (turn : Couplings → (Nat → Bool) → Mint → Mint) : State :=
  if (s.core at_).mint.stale then s.rereadImage at_
  else if (s.core at_).mint.poisoned ≠ [] then s.mintFault at_ c 5 0 0
  else
  match (s.mintStall at_), (s.core at_).mint.coupling with
  | some _, _ =>
    s.modMint at_ (fun m => match m.stalled with | some _ => m | none => { m with stalled := some 0, stalls := min 4095 (m.stalls + 1) })
  | none, none => s.mintFault at_ c 4 c.addr 0
  | none, some cp =>
    let m := (s.core at_).mint
    let x := (turn cp m.remote m.begin_).tally
    let s := s.modMint at_ (fun _ => { x.1 with current := some (c, left - 1) })
    let s := if x.1.clearing then s.publish at_ false else s
    match x.2 with
    | some pc => s.mintFault at_ c 1 c.addr pc
    | none => if left ≤ 1 then s.endMint at_ c else s

/-- R275. -/
def execMintSweep (at_ : CoreRef) (s : State) : Outcome :=
  match (s.core at_).mint.current with
  | some (c, left) =>
    match c.op with
    | .sweep _ =>
      .next (s.mintTurn at_ c left (fun cp remote m => (List.range m.ncol).foldl (fun m k => m.phase s.fresh cp remote k) m))
    | _ => .next s
  | none => .next s

/-- R276. -/
def execMintPickStep (at_ : CoreRef) (s : State) : Outcome :=
  match (s.core at_).mint.current with
  | some (c, left) =>
    match c.op with
    | .pick _ => .next (s.mintTurn at_ c left (fun cp remote m => m.pick s.fresh cp remote))
    | _ => .next s
  | none => .next s

/-- A publication reaches its subscriber; the first one of a publisher's new epoch discards the labels of the one before (R277, R287 to R289, R411, R464). -/
def Mint.receive (m : Mint) (p : ClearPacket) (label : Word) : Mint :=
  let from_ (d c : Nat) : Bool := d == p.fromDie && c == p.fromCore
  let enabling := match m.joining with | some j => (match j.does with | .inr _ => true | .inl _ => false) | none => false
  if !((m.clearing || enabling) && m.subs.any (fun x => from_ x.1 x.2.1)) then m
  else
    let known := m.epochs.find? (fun x => from_ x.1 x.2.1)
    let m := if known.any (fun x => x.2.2 == p.epoch) then m
      else
        { m with
          received := m.received.filter (fun x => !from_ x.die x.core), firstLabels := m.firstLabels.filter (fun x => !from_ x.1 x.2.1)
          epochs := m.epochs.filter (fun x => !from_ x.1 x.2.1) ++ [(p.fromDie, p.fromCore, p.epoch)] }
    let m := if !p.first || (m.firstLabel p.fromDie p.fromCore).isSome then m else { m with firstLabels := m.firstLabels ++ [(p.fromDie, p.fromCore, label)] }
    let states := p.coins.zip p.states
    let m := if m.clearing then m.noteStates p.fromDie p.fromCore states else m
    let gone := match m.started with
      | some n => m.firstLabel p.fromDie p.fromCore != some label && !labelBefore n (label + word m.staleness + 1)
      | none => false
    if gone then m else { m with received := m.received ++ [⟨p.fromDie, p.fromCore, label, states⟩] }

/-- R408, R409: the label of packet `k` arrives. -/
def execLabelArrival (k : Nat) (s : State) : Outcome :=
  match (s.clearPackets.drop k).head? with
  | some p =>
    match p.label, p.heldBy with
    | some label, none =>
      .next ({ s with clearPackets := s.clearPackets.eraseIdx k }.modMint ⟨p.toDie, p.toCore⟩ (fun m => m.receive p label))
    | _, _ => .next s
  | none => .next s

/-- A subscription taken by its publisher, or refused where that serves 32 others; its packet has left the network (R408). -/
def State.takeSubscription (s : State) (p : ClearPacket) : State :=
  let pub : CoreRef := ⟨p.toDie, p.toCore⟩
  let sub : CoreRef := ⟨p.fromDie, p.fromCore⟩
  let others := (s.core pub).mint.served.filter (fun x => !(x.die == sub.die && x.core == sub.core))
  if 32 ≤ others.length then (s.modMint sub (fun m => { m with joining := m.joining.map (fun j => { j with refused := true }) })).endJoining sub
  else
    let x : Served := ⟨sub.die, sub.core, p.coins⟩
    let s := s.modMint pub (fun m => { m with served := others ++ [x] })
    let m := (s.core pub).mint
    (if m.clearing then { s with clearPackets := s.clearPackets ++ [m.publication pub x true] } else s).endJoining sub

/-- R408: the subscription of packet `k` reaches its publisher. -/
def execSubscription (k : Nat) (s : State) : Outcome :=
  match (s.clearPackets.drop k).head? with
  | some p => .next (if p.label.isSome || p.heldBy.isSome then s else { s with clearPackets := s.clearPackets.eraseIdx k }.takeSubscription p)
  | none => .next s

/-- R410: a stall has lasted TMO cycles. -/
def execClearingTimeout (at_ : CoreRef) (s : State) : Outcome :=
  let m := (s.core at_).mint
  match m.stalled, m.current, s.mintStall at_ with
  | some n, some (c, _), some x =>
    if m.tmo ≠ 0 ∧ m.tmo ≤ n then
      .next (s.failMint at_ c 0x40 ⟨0x16, c.addr, word (x.1.toNat % 2 ^ 16 * 2 ^ 16 + x.2.1 * 2 ^ 13 + x.2.2 * 2 ^ 6)⟩)
    else .next s
  | _, _, _ => .next s

/-! ### Cancelled units and the vaults (R290, R292) -/

/-- The commands of units that a test names leave the Mint: unstarted ones go, a sweep stops at this boundary, an image load in progress, its subscriptions included, ends with CPV 0; an MNMODE in progress completes. -/
def State.dropMint (s : State) (at_ : CoreRef) (gone : Nat → Bool) : State :=
  let m := (s.core at_).mint
  let lose (s : State) (c : MintCommand) : State := (s.modMint at_ (fun m => { m.loseImage with joining := none })).endMint at_ c
  let s := match m.current, m.joining, m.queue with
    | some (c, _), _, _ => if gone c.uid then s.endMint at_ c else s
    | none, some j, _ => if gone j.cmd.uid && (match j.does with | .inl _ => true | .inr _ => false) then lose s j.cmd else s
    | none, none, c :: _ => if gone c.uid && m.block.isSome && !m.stale then lose s c else s
    | none, none, [] => s
  let m := (s.core at_).mint
  let busy := m.current.isSome || m.joining.isSome
  let keep := if busy then m.queue.take 1 else []
  let rest := if busy then m.queue.drop 1 else m.queue
  let drop (s : State) (c : MintCommand) : State :=
    s.modSlice ⟨c.gid, c.idx⟩ (fun sl =>
      let sl := match c.op with | .read _ d => sl.makeFull d c.eff | _ => sl
      { sl with mintPosted := sl.mintPosted - 1 })
  let s := (rest.filter (fun c => gone c.uid)).foldl drop s
  s.modMint at_ (fun m => { m with queue := keep ++ rest.filter (fun c => !gone c.uid) })

/-- On resume: a store that another partition's tag marks, or that was overwritten, is read again before any command (R292). -/
def State.rereadMint (s : State) (at_ : CoreRef) : State :=
  let m := (s.core at_).mint
  if m.cpv && m.tag != m.image.map ImageRecord.part then (s.modMint at_ (fun m => { m with stale := true })).rereadImage at_ else s

/-- A Mint halted for the vault: an MNMODE in progress has its subscriptions taken and completes, an image load is abandoned and stays at the head of the queue (R291). -/
def State.haltMint (s : State) (at_ : CoreRef) : State :=
  match (s.core at_).mint.joining with
  | some j =>
    match j.does with
    | .inr _ =>
      let mine (p : ClearPacket) : Bool := p.label.isNone && p.fromDie == at_.die && p.fromCore == at_.core
      (s.clearPackets.filter mine).foldl (fun s p => { s with clearPackets := s.clearPackets.erase p }.takeSubscription p) s
    | .inl _ => s.modMint at_ (fun m => { m with joining := none })
  | none => s.modMint at_ (fun m => { m with block := none })

/-! ### Meanings -/

def execMncpl (p : List Prefix) (w : WForm) (s : State) : Outcome := issueEach 0xB0 true p w actMncpl s
def execMnbias (p : List Prefix) (w : WForm) (s : State) : Outcome := issueEach 0xB1 true p w actMnbias s
def execMnclamp (p : List Prefix) (w : WForm) (s : State) : Outcome := issueEach 0xB2 true p w actMnclamp s
def execMnfree (p : List Prefix) (w : WForm) (s : State) : Outcome := issueEach 0xB3 true p w actMnfree s
def execMnbeta (p : List Prefix) (w : WForm) (s : State) : Outcome := issueEach 0xB4 true p w actMnbeta s
def execMnmode (p : List Prefix) (w : WForm) (s : State) : Outcome := issueEach 0xB5 true p w actMnmode s
def execMnsweep (p : List Prefix) (w : WForm) (s : State) : Outcome := issueEach 0xB6 true p w (postCount .sweep) s
def execMnpick (p : List Prefix) (w : WForm) (s : State) : Outcome := issueEach 0xB7 true p w (postCount .pick) s
def execMnread (p : List Prefix) (w : WForm) (s : State) : Outcome := issueEach 0xB8 true p w actMnread s
def execMnstate (p : List Prefix) (w : WForm) (s : State) : Outcome := issueEach 0xB9 true p w actMnstate s
def execMnwait (p : List Prefix) (w : WForm) (s : State) : Outcome := issueEach 0xBA true p w actMnwait s
def execMnreset (p : List Prefix) (w : WForm) (s : State) : Outcome :=
  issueEach 0xBB true p w (fun c s => s.postMint c (.reset (WForm.field c.g.w 50 50 == 1))) s

end Sys2Proof.Machine
end

