-- ==== Sys2Proof/Machine/Packet.lean ====
section
/-! DEFINITION. Packets on their way to other packages: streams, paths, and what the source keeps until its acknowledgement (R447, R451, R452). -/

namespace Sys2Proof.Machine

/-- Peer `p` of a partition (R447). -/
def State.peer (s : State) (part p : Nat) : PeerEntry :=
  match s.part? part with
  | some x => x.peers.getD p ⟨false, 0, 0, 0⟩
  | none => ⟨false, 0, 0, 0⟩

/-- The next end-to-end sequence number of the stream to a package (R451). -/
def State.nextSeqTo (s : State) (dst : Nat) : Nat := ((s.outNext.find? (fun x => x.1 == dst)).map Prod.snd).getD 0

/-- The paths of links toward a package, up to four (R451): each names its links with the packages they leave. -/
def State.pathsTo (s : State) (dst : Nat) : List (List (Nat × Nat)) :=
  match s.routes.find? (fun r => r.package == dst) with
  | some r => r.paths.take 4
  | none => []

/-- The link of this package that a path starts with. -/
def State.firstLink (s : State) (path : List (Nat × Nat)) : Option Nat := (path.find? (fun x => x.1 == s.package)).map Prod.snd

/-- Whether a path of links reaches a package; a loopback needs none (R447, R451). -/
def State.reachable (s : State) (dst : Nat) : Bool :=
  dst == s.package || (s.pathsTo dst).any (fun p => (s.firstLink p).any (fun l =>
    let k := s.links.getD l Link.down
    (k.up || k.retr) && !k.fail))

/-- A packet sent: it takes the next number of its stream and is kept until its acknowledgement (R451). `copy` names the die, the core and the copy it serves. -/
def State.send (s : State) (dst : Nat) (ordered : Bool) (payload : Payload) (copy : Option (Nat × Nat × Nat)) : State :=
  let n := s.nextSeqTo dst
  { s with
    outNext := (dst, (n + 1) % 2 ^ 32) :: s.outNext.filter (fun x => x.1 != dst)
    kept := s.kept ++ [{ packet := { src := s.package, dst := dst, seq := n, ordered := ordered, payload := payload }, copy := copy, since := s.nanos,
                         path := none }] }

end Sys2Proof.Machine
end

