-- ==== Sys2Proof/Machine/Cluster.lean ====
section
/-! DEFINITION. Hierarchical barriers: their slots at a cluster, a die, a partition and a job, and a job's coordinator (R303 to R306, R459). -/

namespace Sys2Proof.Machine

/-! ### Who waits (R304) -/

/-- What a slice waits at that its group has not arrived with: level, id and expected count. -/
def Slice.hbarWait (sl : Slice) : Option (Nat × Nat × Nat) :=
  match sl.wait with
  | some (.hbar level id expected _ _ false) => some (level, id, expected)
  | _ => none

/-- Every unexited slice of a group waits at a hierarchical barrier, or arrives now. -/
def Group.hbarFull (g : Group) (now : List Nat) : Bool := (g.slices.zipIdx).all (fun x => x.1.ended || x.1.hbarWait.isSome || now.contains x.2)

/-- Whether a group arrives at a hierarchical barrier: all of it is there, and its unit is not cancelled; a group that is cancelled without arriving is not counted (R304). -/
def State.hbarFull (s : State) (gid : Nat) (now : List Nat) : Bool :=
  (s.group gid).hbarFull now && (match s.unit? (s.group gid).uid with | some u => u.cancelled.isNone | none => true)

/-- Groups leave the job-level slots of their partition; a slot on which no group waits is freed (R305). -/
def State.leaveJobSlots (s : State) (gids : List Nat) : State :=
  { s with barriers := (s.barriers.map (fun (b : BarrierSlot) =>
      if b.level = 4 then { b with waiting := b.waiting.filter (fun g => !gids.contains g) } else b)).filter (fun b => b.level != 4 || !b.waiting.isEmpty) }

/-- An arrival that waits for a slot, here or at the coordinator, is withdrawn when the wait of a slice of its group ends by a cancel (R305). -/
def State.leaveSlots (s : State) (r : SliceRef) : State :=
  let mine (m : JobArrival) : Bool := m.package == s.package && m.gid == r.gid
  match (s.slice r).wait with
  | some (.hbar _ _ _ _ _ _) =>
    let s := if s.jobWaiting.any mine then s.leaveJobSlots [r.gid] else s
    { s with
      hbarWaiting := s.hbarWaiting.filter (fun w => w.1 != r.gid)
      jobWaiting := s.jobWaiting.filter (fun m => !mine m) }
  | _ => s

/-- The slices of a group that wait at a hierarchical barrier, each with its lanes and the address after it. -/
def Group.hbarSlices (g : Group) : List (Nat × Mask × Dword) :=
  (g.slices.zipIdx).filterMap (fun x => match x.1.wait with | some (.hbar _ _ _ eff next _) => some (x.2, eff, next) | _ => none)

/-- The trap of barrier misuse (R306). -/
def hbarTrap (code : Nat) (eff : Mask) : Trap := ⟨0x11, 0, eff, word code⟩

/-- The waiting slices of a group go on after a completed generation, an acquire at the scope of its level (R303, R304). -/
def State.releaseHbar (s : State) (gid level : Nat) : State :=
  let g := s.group gid
  let s := g.hbarSlices.foldl (fun s x => s.resume ⟨gid, x.1⟩ (x.2.2 - 8) x.2.2 .next) s
  s.acquire g.coreRef (level + 1)

/-- The waiting slices of a group take barrier misuse. -/
def State.misuseHbar (s : State) (gid code : Nat) : State :=
  (s.group gid).hbarSlices.foldl (fun s x => s.resume ⟨gid, x.1⟩ (x.2.2 - 8) x.2.2 (.trap (hbarTrap code x.2.1))) s

/-! ### The coordinator of a job (R305, R459) -/

/-- The package of a job's coordinator: the lowest id among this package and the job's peers. -/
def State.coordinatorOf (s : State) (part job : Nat) : Nat :=
  let ps := match s.part? part with | some p => (p.peers.cells.filter (fun (e : PeerEntry) => e.valid && e.job == job)).map (fun (e : PeerEntry) => e.package) | none => []
  ps.foldl min s.package

/-- The coordinator's answer reaches groups of this package. -/
def State.jobAnswer (s : State) (gids : List Nat) (misuse : Bool) : State :=
  gids.foldl (fun s g => if misuse then s.misuseHbar g 6 else s.releaseHbar g 4) (s.leaveJobSlots gids)

/-- The coordinator answers groups of a package; an answer waits for room in the stream, behind those that wait already (R452). -/
def State.answerPackage (s : State) (p : Nat) (gids : List Nat) (misuse : Bool) : State :=
  if p = s.package then s.jobAnswer gids misuse
  else if s.streamFull p || s.jobAnswers.any (fun x => x.1 == p) then { s with jobAnswers := s.jobAnswers ++ [(p, gids, misuse)] }
  else s.send p true (.barrierDone gids misuse) none

/-- The coordinator's answers that waited for room are sent, each package's in order. -/
def State.sendAnswers (s : State) : State :=
  s.jobAnswers.foldl (fun s x => s.answerPackage x.1 x.2.1 x.2.2) { s with jobAnswers := [] }

/-- An arrival at the coordinator: R304 applied to the total of the job's packages. -/
def State.jobArrive (s : State) (m : JobArrival) : State :=
  let here (x : JobSlot) : Bool := x.job == m.job && x.id == m.id
  let slot := s.coordinator.find? here
  if slot.isNone ∧ 16 ≤ (s.coordinator.filter (fun x => x.job == m.job)).length then { s with jobWaiting := s.jobWaiting ++ [m] }
  else
    let x := slot.getD ⟨m.job, m.id, m.expected, 0, []⟩
    let others := s.coordinator.filter (fun y => !here y)
    if x.count ≠ 0 ∧ x.expected ≠ m.expected then s.answerPackage m.package [m.gid] true
    else
      let x := { x with expected := if x.count = 0 then m.expected else x.expected, count := x.count + 1, waiting := x.waiting ++ [(m.package, m.gid)] }
      if x.count = x.expected then
        let s := { s with coordinator := others }
        ((x.waiting.map Prod.fst).eraseDups).foldl (fun s p => s.answerPackage p ((x.waiting.filter (fun y => y.1 == p)).map Prod.snd) false) s
      else { s with coordinator := others ++ [x] }

/-! ### Slots (R304, R305) -/

/-- What became of a group's arrival. -/
inductive Arrival where
  | waits
  | misuse (code : Nat)
  | done
  deriving DecidableEq, Repr

/-- The place whose slots a group uses at a level. -/
def Group.hbarPlace (g : Group) (level : Nat) : Nat :=
  match level with
  | 1 => g.die * 12 + g.core / 8
  | 2 => g.die
  | _ => g.part

/-- The key of a group's slot: its launch with the levels above it, or its job. -/
def State.hbarKey (s : State) (g : Group) (level : Nat) : Nat :=
  let ids := (s.recordOf g.uid).levels.toNat
  if level = 4 then bits ids 63 56 else ids

/-- A group's arrival on a slot, when one is active or free. -/
def State.arriveSlot (s : State) (gid level id expected : Nat) : State × Arrival :=
  let g := s.group gid
  let place := g.hbarPlace level
  let key := s.hbarKey g level
  let here (b : BarrierSlot) : Bool := b.level == level && b.place == place && b.part == g.part && b.id == id && b.key == key
  let others := s.barriers.filter (fun b => !here b)
  let b := (s.barriers.find? here).getD ⟨level, place, g.part, id, key, expected, 0, []⟩
  if level = 4 then
    let s := { s with barriers := others ++ [{ b with count := b.count + 1, waiting := b.waiting ++ [gid] }] }
    let m : JobArrival := { package := s.package, part := g.part, job := key, id := id, expected := expected, gid := gid }
    if s.coordinatorOf g.part key = s.package then ({ s with jobMessages := s.jobMessages ++ [m] }, .waits)
    else (s.send (s.coordinatorOf g.part key) true (.barrier m) none, .waits)
  else if b.expected ≠ expected then (s, .misuse 6)
  else if b.count + 1 = expected then (b.waiting.foldl (fun s g => s.releaseHbar g level) { s with barriers := others }, .done)
  else ({ s with barriers := others ++ [{ b with count := b.count + 1, waiting := b.waiting ++ [gid] }] }, .waits)

/-- Whether a group's arrival finds its slot active, or a free one among those of its partition; the slots of a partition in the vaults are saved with it. A job-level arrival, a release at system scope, needs room in the stream to its coordinator, too, and the host ports must have given back the lines written before it (R452, R461). -/
def State.slotFor (s : State) (gid level id : Nat) : Bool :=
  let g := s.group gid
  let coordinator := s.coordinatorOf g.part (s.hbarKey g level)
  (level != 4 || (s.backInvalidates.isEmpty && (coordinator == s.package || !s.streamFull coordinator))) &&
  (let at_ := s.barriers.filter (fun b => b.level == level && b.place == g.hbarPlace level && b.part == g.part)
   at_.any (fun b => b.id == id && b.key == s.hbarKey g level) || decide (at_.length < 16))

/-- The waiting slices of a group are counted. -/
def Slice.countHbar (sl : Slice) : Slice :=
  match sl.wait with
  | some (.hbar level id expected eff next _) => { sl with wait := some (.hbar level id expected eff next true) }
  | _ => sl

/-- A group arrives with slices that wait and slices that arrive now, whose operands are given; nothing when some slice has not arrived (R304). -/
def State.hbarTry (s : State) (gid : Nat) (now : List (Nat × Nat × Nat × Nat)) : State × Option Arrival :=
  let g := s.group gid
  let ops := (g.slices.filterMap Slice.hbarWait) ++ now.map Prod.snd
  match ops with
  | [] => (s, none)
  | x :: rest =>
    if !s.hbarFull gid (now.map Prod.fst) then (s, none)
    else if rest.any (fun y => decide (y ≠ x)) then (s.misuseHbar gid 7, some (.misuse 7))
    else
      let count (s : State) : State := s.modGroup gid (fun g => { g with slices := g.slices.map Slice.countHbar })
      if !s.slotFor gid x.1 x.2.1 then (count { s with hbarWaiting := s.hbarWaiting ++ [(gid, x.1, x.2.1, x.2.2)] }, some .waits)
      else
        match s.arriveSlot gid x.1 x.2.1 x.2.2 with
        | (s, .waits) => (count s, some .waits)
        | (s, .misuse code) => (s.misuseHbar gid code, some (.misuse code))
        | (s, .done) => (s.releaseHbar gid x.1, some .done)

/-! ### HBAR -/

/-- HBAR above the group level for the slices of a subgang (R31, R304). -/
def runHbarAbove (level id : Nat) : Run := fun cs s =>
  match cs with
  | [] => ⟨s, [], .next⟩
  | c0 :: _ =>
    let g := s.group c0.ref.gid
    let a (c : Ctx) : Nat := uni c s c.g.w.a.toNat
    let trapped (c : Ctx) : Option Trap :=
      if a c = 0 ∨ 2 ^ 24 ≤ a c then some (hbarTrap 8 c.eff) else armedTrap (g.slice c.ref.idx) g.gsat c.eff
    let now := (cs.filter (fun c => (trapped c).isNone)).map (fun c => (c.ref.idx, level, id, a c))
    let x := if now.isEmpty then (s, none) else s.hbarTry c0.ref.gid now
    ⟨x.1, cs.map (fun c => (c.ref.idx, match trapped c with
      | some t => .trap t
      | none => match x.2 with
        | some .done => .next
        | some (.misuse code) => .trap (hbarTrap code c.eff)
        | some .waits => .park (.hbar level id (a c) c.eff c.g.next true)
        | none => .park (.hbar level id (a c) c.eff c.g.next false))), .next⟩

/-- HBAR; the group level is GSYNC (R304). -/
def runHbar : Run := fun cs s =>
  match cs with
  | [] => ⟨s, [], .next⟩
  | c :: _ =>
    let f := WForm.field c.g.w
    if f 52 50 = 0 then runGsync cs s else runHbarAbove (f 52 50) (f 56 53) cs s

def execHbar (p : List Prefix) (w : WForm) (s : State) : Outcome := issue 0x81 true p w ownNone runHbar s

/-- The end of an arrival that waited for a slot. -/
def State.admitted (gid level : Nat) : State × Arrival → State
  | (s, .waits) => s
  | (s, .misuse code) => s.misuseHbar gid code
  | (s, .done) => s.releaseHbar gid level

/-- R305: waiting arrival `k` takes a freed slot; arrivals at the coordinator are numbered after those of this package's groups. -/
def execHbarSlotAdmit (k : Nat) (s : State) : Outcome :=
  match (s.hbarWaiting.drop k).head? with
  | some (gid, level, id, expected) =>
    if s.slotFor gid level id then
      .next (State.admitted gid level ({ s with hbarWaiting := s.hbarWaiting.eraseIdx k }.arriveSlot gid level id expected))
    else .next s
  | none =>
    let j := k - s.hbarWaiting.length
    match (s.jobWaiting.drop j).head? with
    | some m => .next ({ s with jobWaiting := s.jobWaiting.eraseIdx j }.jobArrive m)
    | none => .next s

/-- R459: an arrival reaches the coordinator; one of this package's own groups leaves its way there. -/
def execJobBarrierMessage (m : JobArrival) (s : State) : Outcome := .next ({ s with jobMessages := s.jobMessages.erase m }.jobArrive m)

end Sys2Proof.Machine
end

