-- ==== Sys2Proof/Machine/Work.lean ====
section
/-! DEFINITION. Package work: continuation records, levels, queues, placement, completion, cancels, budgets, termination rounds, and the instructions that use them (R296, R297, R358 to R372, R466). -/

namespace Sys2Proof.Machine

/-! ### The record (R358, R359) -/

def Record.slices (r : Record) : Nat := bits r.shape.toNat 7 0
def Record.gang (r : Record) : Nat := 2 ^ bits r.shape.toNat 9 8
def Record.cos (r : Record) : Nat := bits r.shape.toNat 12 10 + 1
def Record.regs (r : Record) : Nat := 8 * bits r.shape.toNat 20 16
def Record.pages (r : Record) : Nat := bits r.shape.toNat 31 24
def Record.lease (r : Record) : Nat := bits r.shape.toNat 43 32
def Record.shadow (r : Record) : Bool := bit r.shape.toNat 48
def Record.clusterBound (r : Record) : Bool := bit r.shape.toNat 49
def Record.dies (r : Record) : BitVec 8 := r.placement.extractLsb' 0 8
def Record.prio (r : Record) : Nat := bits r.placement.toNat 10 8

/-- Slice places a group of the record takes, doubled under shadow execution (R179). -/
def Record.places (r : Record) : Nat := r.slices * (if r.shadow then 2 else 1)

/-- The record in 64 bytes read at an address. -/
def Record.ofBytes (a : Nat) (bs : List Byte) : Record :=
  let w (k : Nat) : Dword := dword (fromBytes ((bs.drop (8 * k)).take 8))
  { addr := a, code := w 0, frame := w 1, join := w 2, completion := w 3, levels := w 4, shape := w 5, placement := w 6, arg := w 7 }

/-- The lowest doubleword of a record that fails a condition of R359, as its offset. -/
def Record.bad (r : Record) (dies : BitVec 8) : Option Nat :=
  let sh := r.shape.toNat
  let shapeBad := bits sh 63 50 != 0 || bits sh 47 44 != 0 || bits sh 23 21 != 0 || bits sh 15 13 != 0
    || r.slices == 0 || decide (128 < r.slices) || r.slices % r.gang != 0 || r.regs == 0 || decide (128 < r.regs)
    || decide (128 < r.pages) || decide (2048 < r.lease) || decide (256 < r.places) || decide (512 * 1024 < 16 * r.regs * r.places)
  if !canonical r.code || r.code.extractLsb' 0 2 != 0 then some 0
  else if shapeBad then some 0x28
  else if bits r.placement.toNat 15 11 != 0 || r.dies &&& dies == 0 then some 0x30
  else none

/-- The set bits of a die mask, ascending. -/
def dieList (m : BitVec 8) : List Nat := (List.range 8).filter (fun i => m.getLsbD i)

/-! ### Levels (R360) -/

/-- The key of a record's level. -/
def Record.key (r : Record) (level : Nat) : LevelKey :=
  let ids := r.levels.toNat
  { level := level, job := bits ids 63 56, phase := if level ≤ 3 then bits ids 55 48 else 0, graph := if level ≤ 2 then bits ids 47 32 else 0,
    launch := if level ≤ 1 then bits ids 31 0 else 0 }

/-- The level that an id names for a unit with a record (R360). -/
def Record.named (r : Record) (level id : Nat) : LevelKey :=
  let k := r.key level
  match level with
  | 1 => { k with launch := id }
  | 2 => { k with graph := id % 2 ^ 16 }
  | 3 => { k with phase := id % 2 ^ 8 }
  | _ => { k with job := id % 2 ^ 8 }

/-- A live level object of a partition. -/
def State.level? (s : State) (part : Nat) (key : LevelKey) : Option Level := s.levels.find? (fun l => l.part == part && l.key == key)

/-- The state with a level object changed. -/
def State.modLevel (s : State) (part : Nat) (key : LevelKey) (f : Level → Level) : State :=
  { s with levels := s.levels.map (fun l => if l.part = part ∧ l.key = key then f l else l) }

/-- One record more in a level, whose object is created with its first (R360). -/
def State.enterLevel (s : State) (part : Nat) (key : LevelKey) : State :=
  match s.level? part key with
  | some _ => s.modLevel part key (fun l => { l with count := l.count + 1 })
  | none =>
    { s with levels := s.levels ++ [{ part := part, key := key, count := 1, errors := 0, firstCause := none, dyn := false, bitmap := none, blk := 0,
                                      token := none }] }

/-- An error counted in a level, with the cause of its first (R360). -/
def State.levelError (s : State) (part : Nat) (key : LevelKey) (cause : Nat) : State :=
  s.modLevel part key (fun l => { l with errors := l.errors + 1, firstCause := some (l.firstCause.getD cause) })

/-- An entry of a partition's level log, a ring of 4,096 (R360). -/
def State.logLevel (s : State) (part : Nat) (e : LevelLogEntry) : State :=
  s.modPart part (fun p => { p with levelLog := (p.levelLog ++ [e]).drop (p.levelLog.length + 1 - 4096) })

/-- A level object destroyed. -/
def State.destroyLevel (s : State) (part : Nat) (key : LevelKey) : State :=
  match s.level? part key with
  | none => s
  | some l => { s with levels := s.levels.filter (fun x => !(x.part == part && x.key == key)) }.logLevel part ⟨key, l.errors, l.firstCause⟩

/-- One record fewer in a level, which completes at 0 unless it is a dynamic graph (R360, R368). -/
def State.leaveLevel (s : State) (part : Nat) (key : LevelKey) : State :=
  let s := s.modLevel part key (fun l => { l with count := l.count - 1 })
  match s.level? part key with
  | some l => if l.count = 0 ∧ !l.dyn then s.destroyLevel part key else s
  | none => s

/-- The codes of the levels above a unit. -/
def upperLevels : List Nat := [1, 2, 3, 4]

/-! ### Counters and bitmaps as the control die reaches them (R466) -/

/-- Where an access of the control die stands. -/
inductive Reached where
  | at_ (pa : Nat)
  | blocked (b : Block)
  | failed (cause code : Nat)
  deriving DecidableEq, Repr

/-- The place of the control die among cores, which no compute die holds. -/
def controlDie : CoreRef := ⟨8, 0⟩

/-- A translation made for package work. -/
def State.workReach (s : State) (c : CoreRef) (part unitId : Nat) (va : Dword) (need : Need) (kind : Nat) : State × Reached :=
  match s.reach c part unitId va need kind false with
  | (s, .ok pa _) => (s, .at_ pa)
  | (s, .remote pa) => (s, .at_ pa)
  | (s, .denied code) => (s, .failed 0x09 code)
  | (s, .fault seq) => (s, .blocked (.fault seq))
  | (s, .migrate p n) => (s, .blocked (.migration p n))
  | (s, .unresolvable) => (s, .failed 0x08 kind)

/-- A translation of the control die for a unit, denied where the host has answered FAIL to the unit's fault (R387, R466). -/
def State.unitReach (s : State) (u : UnitState) (va : Dword) : State × Reached :=
  if s.counterAccesses.any (fun a => a.uid == some u.uid && a.setBits.isNone && a.va == va && s.failedBlock a.part a.block) then
    ({ s with counterAccesses := s.counterAccesses.filter (fun a => a.uid != some u.uid || a.setBits.isSome) }, .failed 0x08 1)
  else
    { s with counterAccesses := s.counterAccesses.filter (fun a => a.uid != some u.uid || a.setBits.isSome) }.workReach controlDie u.part 0 va needBoth 1

/-- Every record armed on a counter becomes ready (R362). -/
def State.readyOn (s : State) (part : Nat) (va : Dword) : State :=
  { s with queued := s.queued.map (fun (q : Queued) => if q.part = part ∧ q.armed ∧ q.record.join = va then { q with armed := false, stamp := s.now } else q) }

/-- A doubleword read at its home for a change there (R308, R319). -/
def State.atHome (s : State) (pa : Nat) : State := if s.physKind pa = .registers then s else s.useHome pa false

/-- A counter at a place decremented, and records armed on it readied at 0 (R362, R372). -/
def State.decrementAt (s : State) (part : Nat) (va : Dword) (pa n : Nat) : State :=
  let x := (s.numPhys pa + 2 ^ 64 - n % 2 ^ 64) % 2 ^ 64
  let s := s.atHome pa
  let s := s.writePlace none (s.glbPlace pa) (toBytes 8 x) false
  if x = 0 then s.readyOn part va else s

/-- Bits set in a doubleword at a place (R367). -/
def State.orAt (s : State) (pa mask : Nat) : State := (s.atHome pa).writePlace none (s.glbPlace pa) (toBytes 8 (s.numPhys pa ||| mask)) false

/-- The doubleword of a bitmap that holds a tile's bits, and their position in it (R367). -/
def tilePlace (bitmap : Dword) (tile : Nat) : Dword × Nat := (bitmap + dword (8 * (2 * tile / 64)), 2 * tile % 64)

/-- The tile of a launch's unit (R372). -/
def tileOf (arg first : Dword) : Nat := ((arg.extractLsb' 0 32) - (first.extractLsb' 0 32)).toNat

/-! ### Enqueueing (R361, R362, R466) -/

/-- Records held in a partition's queues. -/
def State.queuedIn (s : State) (part : Nat) : Nat := (s.queued.filter (fun q => q.part == part)).length

/-- Whether a partition's queue area has room. -/
def State.queueRoom (s : State) (part : Nat) : Bool :=
  match s.part? part with | some p => decide (s.queuedIn part < p.queueCap) | none => false

/-- What an enqueue finds of its join counter. -/
inductive Enqueued where
  | done
  | blocked (b : Block)
  | failed (cause code : Nat)
  deriving DecidableEq, Repr

/-- A record entered into its queue and its levels; `origin` is the die of the issuing unit, none for the host (R361, R362, R368). -/
def State.enterQueue (s : State) (q : Queued) (origin : Option Nat) (spawn : Bool) : State :=
  let s := { s with queued := s.queued ++ [{ q with serial := s.nextStamp }], nextStamp := s.nextStamp + 1 }
  let s := upperLevels.foldl (fun s l => s.enterLevel q.part (q.record.key l)) s
  let s := match q.bitmap with | some b => s.modLevel q.part (q.record.key 1) (fun l => { l with bitmap := some b }) | none => s
  s.modLevel q.part (q.record.key 2) (fun l =>
    let l := if spawn then { l with dyn := true } else l
    match origin with
    | some n => if q.die < n then { l with blk := l.blk ||| BitVec.ofNat 8 (2 ^ n) } else l
    | none => { l with token := l.token.map (fun (t : TokenRound) => { t with host := true }) })

/-- A record enqueued, once its join counter has been read. -/
def State.enqueue (s : State) (q : Queued) (origin : Option Nat) (spawn : Bool) : State × Enqueued :=
  if q.record.join = 0 then (s.enterQueue { q with armed := false, stamp := s.now } origin spawn, .done)
  else
    match s.workReach controlDie q.part 0 q.record.join needBoth 1 with
    | (s, .at_ pa) => (s.enterQueue { q with armed := s.numPhys pa != 0, stamp := s.now } origin spawn, .done)
    | (s, .blocked b) => (s, .blocked b)
    | (s, .failed cause code) => (s, .failed cause code)

/-- Records enqueued in order while the queue area has room: those left, and what stopped the first of them. -/
def State.enqueueAll (s : State) (origin : Option Nat) (spawn : Bool) : List Queued → State × List Queued × Option Enqueued
  | [] => (s, [], none)
  | q :: rest =>
    if !s.queueRoom q.part then (s, q :: rest, none)
    else
      match s.enqueue q origin spawn with
      | (s, .done) => s.enqueueAll origin spawn rest
      | (s, e) => (s, q :: rest, some e)

/-- A record as it is queued. -/
def Queued.of (part die : Nat) (r : Record) (order : Nat) : Queued :=
  { part := part, die := die, record := r, order := order, armed := true, stamp := 0, pops := 0, priority := r.prio, bitmap := none, firstArg := r.arg,
    launchUnit := false, launchSerial := 0, serial := 0 }

/-! ### Completion (R365 to R367) -/

/-- A unit's completion waits for a counter or bitmap. -/
def State.holdUnit (s : State) (u : UnitState) (va : Dword) (b : Block) : State :=
  { s with counterAccesses := s.counterAccesses ++ [{ part := u.part, va := va, setBits := none, uid := some u.uid, block := b }] }

/-- The last steps of R366: the completion counter, the counts of the levels, and the unit's own object. -/
def State.finishUnit (s : State) (u : UnitState) : State :=
  let close (s : State) : State :=
    let s := { s with units := s.units.filter (fun x => x.uid != u.uid) }
    let s := upperLevels.foldl (fun s l => s.leaveLevel u.part (u.record.key l)) s
    if u.unitId = 0 then s
    else s.logLevel u.part ⟨{ (u.record.key 1) with level := 0, launch := u.unitId }, if u.cancelled.isSome then 1 else 0, u.cancelled⟩
  if u.record.completion = 0 then close s
  else
    match s.unitReach u u.record.completion with
    | (s, .at_ pa) => close (s.decrementAt u.part u.record.completion pa 1)
    | (s, .blocked b) => s.holdUnit u u.record.completion b
    | (s, .failed cause _) => close (s.levelError u.part (u.record.key 1) cause)

/-- Steps 1 and 2 of R366: the tile's bits, then the errors of a cancelled unit. -/
def State.markUnit (s : State) (u : UnitState) : State :=
  let errors (s : State) : State :=
    let s := match u.cancelled with
      | some cause => upperLevels.foldl (fun (s : State) l => s.levelError u.part (u.record.key l) cause) s
      | none => s
    let s := s.modUnit u.uid (fun x => { x with stage := 1 })
    s.finishUnit { u with stage := 1 }
  match u.bitmap with
  | none => errors s
  | some b =>
    let t := tilePlace b (tileOf u.record.arg u.firstArg)
    match s.unitReach u t.1 with
    | (s, .at_ pa) => errors (s.orAt pa ((if u.cancelled.isSome then 3 else 1) * 2 ^ t.2))
    | (s, .blocked blk) => s.holdUnit u t.1 blk
    | (s, .failed cause _) => errors (s.levelError u.part (u.record.key 1) cause)

/-- The completion of a unit whose groups have completed, from where it stands. -/
def State.completeUnit (s : State) (uid : Nat) : State :=
  match s.unit? uid with
  | none => s
  | some u =>
    if u.groups ≠ 0 then s
    else if u.stage = 0 then s.markUnit u
    else s.finishUnit u

/-- Whether a unit waits for an access of the control die: a bit of its `TDONE` not set yet, or a bitmap or counter of its completion whose fault is not answered (R466). -/
def State.unitWaits (s : State) (uid : Nat) : Bool :=
  s.counterAccesses.any (fun a => a.uid == some uid && (a.setBits.isSome || !s.blockOver a.part Group.vacant a.block))

/-- R366: a unit completes, once it waits for no access of the control die. -/
def execUnitCompletion (uid : Nat) (s : State) : Outcome := .next (if s.unitWaits uid then s else s.completeUnit uid)

/-- Copies, matrix commands or Mint commands of a group not yet finished (R365). -/
def State.groupBusy (s : State) (g : Group) : Bool :=
  let k := s.core g.coreRef
  k.copies.any (fun c => c.gid == g.gid) || k.matrix.queue.any (fun c => c.gid == g.gid) || k.mint.queue.any (fun c => c.gid == g.gid)

/-- The cause of the first pending failure of a slice that has ended: a copy's fault or MIS report, a matrix failure, or a Mint failure (R232, R241, R280). -/
def Slice.leftFailure (sl : Slice) : Option Nat :=
  if sl.copies.reports.any CopyReport.bad then some 0x12
  else if (sl.matrix.openBatch :: sl.matrix.sealed_).any (fun b => b.error.isSome) then some 0x13
  else sl.mintFailures.head?.map (fun f => f.cause)

/-- Owner tags and victim entries of a gang slot dropped (R182). -/
def Core.dropSlot (k : Core) (slot : Nat) : Core :=
  { k with
    l1 := k.l1.map (fun (l : L1Line) => if l.owner = some slot then { l with owner := none } else l)
    victims := k.victims.filter (fun v => v.2 != slot) }

/-- R365: a group completes; its pending failures cancel its unit, and its places, registers and pages are free. -/
def execGroupCompletion (gid : Nat) (s : State) : Outcome :=
  match s.group? gid with
  | none => .next s
  | some g =>
    if !(g.slices.all (fun sl => sl.ended)) || s.groupBusy g || g.swapped then .next s
    else
      let s := match g.slices.findSome? Slice.leftFailure with
        | some cause => s.cancelUnit g.uid cause
        | none => s
      let s := g.gangs.foldl (fun s k => s.modCore g.coreRef (fun c => c.dropSlot k.slot)) s
      .next ({ s with
        groups := s.groups.filter (fun x => x.gid != gid)
        parks := s.parks.filter (fun e => e.ref.gid != gid)
        remotes := s.remotes.filter (fun e => e.ref.gid != gid)
        hbarWaiting := s.hbarWaiting.filter (fun w => w.1 != gid) }.modUnit g.uid (fun u => { u with groups := u.groups - 1 }))

/-! ### Cancels and budgets (R369, R370) -/

/-- A record removed from its queue completes at once as cancelled. -/
def State.dropRecord (s : State) (q : Queued) : State :=
  let uid := s.nextUid
  let u : UnitState :=
    { uid := uid, unitId := 0, part := q.part, record := q.record, bitmap := q.bitmap, firstArg := q.firstArg, launchUnit := q.launchUnit,
      launchSerial := q.launchSerial, groups := 0, cycles := 0, pendingCancel := none, budgetOut := false, cancelled := some 0x1B, stage := 0 }
  { s with units := s.units ++ [u], nextUid := uid + 1 }.completeUnit uid

/-- Reservations whose record has left its queue end (R297). -/
def State.pruneReservations (s : State) : State :=
  { s with dies := s.dies.mapIdx (fun n (d : Die) =>
    { d with reservations := d.reservations.filter (fun r => s.queued.any (fun q => q.die == n && q.serial == r.serial)) }) }

/-- A cancel over the records and units that a test names, with its level code. -/
def State.cancelWhere (s : State) (records : Queued → Bool) (units : UnitState → Bool) (code : Nat) : State :=
  let gone := s.queued.filter records
  let s := { s with
    queued := s.queued.filter (fun q => !records q)
    units := s.units.map (fun u => if units u ∧ u.pendingCancel = none then { u with pendingCancel := some code } else u) }
  (gone.foldl State.dropRecord s).pruneReservations

/-- R369: a level of a partition cancelled; one that is complete is left alone. -/
def State.cancelLevel (s : State) (part : Nat) (key : LevelKey) : State :=
  s.cancelWhere (fun q => q.part == part && q.record.key key.level == key && key.level != 0)
    (fun u => u.part == part && u.groups != 0 && (if key.level = 0 then u.unitId == key.launch else u.record.key key.level == key)) key.level

/-- The level key of a unit by its UNITID. -/
def unitKey (unitId : Nat) : LevelKey := ⟨0, 0, 0, 0, unitId⟩

def execHostCancel (part : Nat) (key : LevelKey) (s : State) : Outcome :=
  s.smivik (fun s => .next ((s.cancelLevel part key).reply (.status true)))

/-- R370: a unit has used more cycles than its budget. -/
def execCycleBudget (uid : Nat) (s : State) : Outcome :=
  .next (s.modUnit uid (fun u => if u.record.budget ≠ 0 ∧ u.record.budget < u.cycles then { u with budgetOut := true } else u))

/-- The lanes of a wait. -/
def Wait.lanes (w : Wait) (active : Mask) : Mask :=
  match w with
  | .access a => a.left
  | .regang eff | .commit eff | .gsync eff _ | .hbar _ _ _ eff _ _ | .bwait _ _ eff _ | .cseal _ eff _ | .cwait _ eff _ | .qpop _ _ _ eff _
  | .mbatch eff _ _ _ | .mwait _ eff _ | .mnwait eff _ | .twait _ _ _ eff _ | .sigw _ _ _ _ eff _
  | .sppin _ _ eff _ | .qpush _ _ _ eff _ | .jwaitCounter _ eff _ | .jwaitLevel _ eff _ | .queueArea eff _ => eff
  | _ => active

/-- Whether a wait is a cancel point: every one but those that restore or commit a slice's own state (R26, R146, R173, R192). -/
def Wait.cancelPoint : Wait → Bool
  | .commit _ | .abortDrain _ | .restartDrain | .release _ _ _ => false
  | _ => true

/-- The cancel or budget trap that a slice takes where it waits (R146, R190). -/
def State.cancelAtWait (s : State) (r : SliceRef) : Option Trap :=
  match (s.slice r).wait with
  | none => s.cancelAtRegister r
  | some w => if w.cancelPoint then s.pending r (w.lanes (s.slice r).active) else none

/-- R146, R190: a pending cancel or budget trap is taken at the wait of a slice. -/
def execCancelTaken (r : SliceRef) (s : State) : Outcome :=
  match s.cancelAtWait r with
  | some t => .next (((s.leaveSlots r).takeTrap r (s.slice r).pc t).divide r.gid (r.idx / (s.group r.gid).gangSize))
  | none => .next s

/-! ### Placement (R179, R181, R296, R297, R363, R364) -/

/-- Room for a group of a record on a core (R179). -/
def State.fits (s : State) (c : CoreRef) (r : Record) : Bool :=
  let gs := s.resident c
  let sum (f : Group → Nat) : Nat := (gs.map f).foldl (· + ·) 0
  let x (g : Group) : Nat := g.slices.length * (if g.shadow then 2 else 1)
  decide (sum x + r.places ≤ 256) && decide (sum (fun g => 16 * g.regs * x g) + 16 * r.regs * r.places ≤ 512 * 1024)
    && decide (sum (fun g => g.pages) + r.pages ≤ 128)

/-- Free slice places of a core. -/
def State.freePlaces (s : State) (c : CoreRef) : Nat :=
  256 - ((s.resident c).map (fun g => g.slices.length * (if g.shadow then 2 else 1))).foldl (· + ·) 0

/-- The order of R363: priority descending, ready stamp, address. -/
def Queued.before (x y : Queued) : Bool :=
  if x.priority ≠ y.priority then decide (y.priority < x.priority)
  else if x.stamp ≠ y.stamp then decide (x.stamp < y.stamp)
  else decide (x.order ≤ y.order)

/-- A record put in its place in the order. -/
def insertQueued (x : Queued) : List Queued → List Queued
  | [] => [x]
  | y :: rest => if x.before y then x :: y :: rest else y :: insertQueued x rest

/-- The ready records of a die's queue whose partition is resident, in order. -/
def State.readyQueue (s : State) (die : Nat) : List Queued :=
  (s.queued.filter (fun q => q.die == die && !q.armed && (match s.part? q.part with | some p => p.resident && !p.leaving && !p.ending | none => false))).foldr insertQueued []

/-- The cluster that a cluster-bound launch is tied to. -/
def State.boundCluster (s : State) (q : Queued) : Option Nat :=
  if q.launchUnit && q.record.clusterBound then (s.launchClusters.find? (fun x => x.1 == q.launchSerial)).map Prod.snd else none

/-- The queued record that a reservation of a die is for. -/
def State.reserved? (s : State) (die : Nat) (r : Reservation) : Option Queued := s.queued.find? (fun q => q.die == die && q.serial == r.serial)

/-- The priority that a reservation holds its cluster against: the one its record has now, whatever it was when it reserved (R297, R363, R371). -/
def State.heldAgainst (s : State) (die : Nat) (r : Reservation) : Nat := match s.reserved? die r with | some q => q.priority | none => r.priority

/-- Whether the launch of a record leaves a cluster to it: the one it is bound to, or any (R364). -/
def State.boundTo (s : State) (q : Queued) (cluster : Nat) : Bool := match s.boundCluster q with | some c => c == cluster | none => true

/-- Whether a cluster is open to a record: not held against its priority, and the one its launch is bound to. -/
def State.clusterOpen (s : State) (q : Queued) (cluster : Nat) : Bool :=
  !(s.die q.die).reservations.any (fun r => r.cluster == cluster && !r.lapsed && decide (q.priority < s.heldAgainst q.die r)) && s.boundTo q cluster

/-- Cores of a cluster that can take a group of a record. -/
def State.coresIn (s : State) (q : Queued) (cluster : Nat) : List Nat :=
  ((List.range 8).map (· + 8 * cluster)).filter (fun c => s.fits ⟨q.die, c⟩ q.record)

/-- Of two cores, the one with more free places, then the lower. -/
def State.betterCore (s : State) (die a b : Nat) : Nat := if s.freePlaces ⟨die, a⟩ < s.freePlaces ⟨die, b⟩ then b else a

/-- The cores a record is placed on now, when it can be (R296, R364). -/
def State.coresFor (s : State) (q : Queued) : Option (List Nat) :=
  let open_ := (List.range 12).filter (s.clusterOpen q)
  if q.record.cos = 1 then
    match open_.flatMap (s.coresIn q) with
    | [] => none
    | c :: rest => some [rest.foldl (s.betterCore q.die) c]
  else (open_.find? (fun cl => decide (q.record.cos ≤ (s.coresIn q cl).length))).map (fun cl => (s.coresIn q cl).take q.record.cos)

/-- The lowest number not in a list. -/
def lowestFree (l : List Nat) : Nat := ((List.range (l.length + 1)).find? (fun n => !l.contains n)).getD 0

/-- The pipe with the fewest unended gangs, the lower on a tie (R181). -/
def fewestPipe (pipes : List Nat) : Nat :=
  (List.range 4).foldl (fun best p => if (pipes.filter (· == p)).length < (pipes.filter (· == best)).length then p else best) 0

/-- Gangs added to a core one after another: each takes the lowest free slot, the next age and a home pipe (R180, R181). -/
def addGangs (lease : Nat) : Nat → Nat → List Nat → List Nat → List Gang
  | 0, _, _, _ => []
  | n + 1, age, slots, pipes =>
    let slot := lowestFree slots
    let pipe := fewestPipe pipes
    { slot := slot, age := age, pipe := pipe, declared := lease, lost := 0, victims := 0, active := false, heldWindows := 0, waits := [], waitSince := none,
      parted := false } :: addGangs lease n (age + 1) (slot :: slots) (pipe :: pipes)

/-- The slice with an index in a group of a record, as it starts: a primary and its shadow alike (R16, R197). -/
def Record.sliceAt (r : Record) (i : Nat) : Slice := { Slice.start r.regs r.code with sub := i / r.gang * r.gang }

/-- A group of a unit instantiated on a core; the first there finds its engines reset (R16, R180, R181, R184, R205, R235, R263). -/
def State.instantiate (s : State) (u : UnitState) (die core index : Nat) : State :=
  let c : CoreRef := ⟨die, core⟩
  let r := u.record
  let s := if (s.resident c).isEmpty then (s.resetMint c).modCore c (fun k => { k with matrix := Matrix.clear }) else s
  let here := (s.resident c).flatMap (fun g => g.gangs.mapIdx (fun k (x : Gang) => (x, (g.unended k).isEmpty)))
  let n := r.slices / r.gang
  let age := (s.core c).nextAge
  let g : Group :=
    { gid := s.nextGid, uid := u.uid, part := u.part, die := die, core := core, index := index, regs := r.regs, pages := r.pages, gangSize := r.gang,
      slices := (List.range r.slices).map (Record.sliceAt r)
      gangs := addGangs r.lease n age (here.map (fun x => x.1.slot)) ((here.filter (fun x => !x.2)).map (fun x => x.1.pipe))
      scr := Memory.blank, backing := Memory.blank, pageState := List.replicate r.pages .pinned, absent := [], unpins := [], queues := Bank.all 16 Queue.closed,
      gsat := false, gsyncGen := 0, shadow := r.shadow,
      shadows := if r.shadow then (List.range r.slices).map (fun i => ⟨r.sliceAt i, 0, 0⟩) else [], trail := [], swapped := false }
  { s with groups := s.groups ++ [g], nextGid := s.nextGid + 1 }.modCore c (fun k => { k with nextAge := age + n })

/-- A pop counted by the records that stay ready (R363). -/
def Queued.age (q : Queued) : Queued :=
  if q.pops + 1 < 2 ^ 16 then { q with pops := q.pops + 1 } else { q with pops := 0, priority := min 7 (q.priority + 1) }

/-- A number that no unit of a partition has: a free value, moved past the numbers in use, and never the 0 of an agent without a unit (R37). -/
def State.freeUnitId (s : State) (part : Nat) : Nat :=
  let used := (s.units.filter (fun u => u.part == part)).map (fun u => u.unitId)
  let x := (Config.openValue s.fresh 0).toNat
  (((List.range (used.length + 1)).map (fun k => (x + k) % (2 ^ 32 - 1) + 1)).find? (fun n => !used.contains n)).getD 1

/-- A record placed on cores: its unit starts (R296, R364). -/
def State.place (s : State) (q : Queued) (cores : List Nat) : State :=
  let uid := s.nextUid
  let u : UnitState :=
    { uid := uid, unitId := s.freeUnitId q.part, part := q.part, record := q.record, bitmap := q.bitmap, firstArg := q.firstArg, launchUnit := q.launchUnit,
      launchSerial := q.launchSerial, groups := cores.length, cycles := 0, pendingCancel := none, budgetOut := false, cancelled := none, stage := 0 }
  let s := { s with
    queued := (s.queued.erase q).map (fun (x : Queued) => if x.die = q.die ∧ x.part = q.part ∧ !x.armed then x.age else x)
    units := s.units ++ [u]
    nextUid := uid + 1
    launchClusters := if q.launchUnit && q.record.clusterBound && (s.boundCluster q).isNone then (q.launchSerial, cores.headD 0 / 8) :: s.launchClusters
      else s.launchClusters }
  (cores.zipIdx.foldl (fun (s : State) c => s.instantiate u q.die c.1 c.2) s).pruneReservations

/-- Of two clusters, the one that a record reserves: one its launch leaves to it, then the one with more cores able to take a group of it now (R297, R364). -/
def State.betterCluster (s : State) (q : Queued) (best c : Nat) : Nat :=
  if s.boundTo q c ∧ (s.boundTo q best = false ∨ (s.coresIn q best).length < (s.coresIn q c).length) then c else best

/-- The cluster with the most cores able to take a group, the lowest on a tie (R297). -/
def State.bestCluster (s : State) (q : Queued) : Nat := (List.range 12).foldl (s.betterCluster q) 0

/-- A reservation made for a co-scheduled record that is first of its priority and cannot be placed (R297). -/
def State.reserve (s : State) (q : Queued) : State :=
  if (s.die q.die).reservations.any (fun r => r.serial == q.serial) then s
  else
    s.modDie q.die (fun d =>
      { d with reservations := d.reservations ++ [⟨q.serial, s.bestCluster q, q.priority, d.cycle, false⟩] })

/-- The first record of a list that can be placed is; records passed over may reserve. -/
def State.placeFirst (s : State) : List Nat → List Queued → State
  | _, [] => s
  | seen, q :: rest =>
    match s.coresFor q with
    | some cores => s.place q cores
    | none =>
      let s := if q.record.cos ≠ 1 ∧ !seen.contains q.priority then s.reserve q else s
      s.placeFirst (q.priority :: seen) rest

/-- R364: a die's queue manager places the first record in order that it can. -/
def execPlacement (die : Nat) (s : State) : Outcome := if (s.die die).inReset then .next s else .next (s.placeFirst [] (s.readyQueue die))

/-- The reservations of every die, with their dies. -/
def State.allReservations (s : State) : List (Nat × Reservation) := (s.dies.zipIdx).flatMap (fun d => d.1.reservations.map (fun r => (d.2, r)))

/-- The record of a lapsed reservation that reserves again: it is the first ready one of its priority, and cannot be placed now (R297). -/
def State.reservesAgain (s : State) (die : Nat) (r : Reservation) : Option Queued :=
  match s.reserved? die r with
  | some q => if (s.readyQueue die).find? (fun x => x.priority == q.priority) = some q ∧ s.coresFor q = none then some q else none
  | none => none

/-- The reservations of a die after reservation `r` has run its 2^14 cycles: it lapses for as many, and then its record reserves again under the same rule or, not being the one that may, stands aside till a placement finds it so. -/
def State.lapse (s : State) (n : Nat) (r : Reservation) : List Reservation :=
  let d := s.die n
  if r.lapsed = false then d.reservations.map (fun x => if x = r then { r with lapsed := true, start := d.cycle } else x)
  else
    match s.reservesAgain n r with
    | some q => d.reservations.map (fun x => if x = r then ⟨r.serial, s.bestCluster q, q.priority, d.cycle, false⟩ else x)
    | none => d.reservations.filter (fun x => x ≠ r)

/-- R297: reservation `k` lapses after 2^14 cycles, and is made again after as many. -/
def execReservationLapse (k : Nat) (s : State) : Outcome :=
  match (s.allReservations.drop k).head? with
  | none => .next s
  | some (n, r) =>
    if (s.die n).cycle < r.start + 2 ^ 14 then .next s else .next (s.modDie n (fun d => { d with reservations := s.lapse n r }))

/-! ### Termination rounds (R368) -/

/-- The units of a graph whose slices wait in `jwait` on it, by number. -/
def State.waitingUnits (s : State) (part : Nat) (key : LevelKey) : List Nat :=
  ((s.groups.filter (fun g => g.part == part && decide ((s.recordOf g.uid).key key.level = key) && g.slices.any (fun sl =>
    match sl.wait with | some (.jwaitLevel k _ _) => k == key | _ => false))).map (fun g => g.uid)).eraseDups

/-- Whether a partition is swapped out with work of any graph: none of its dies is quiet then (R375). -/
def State.awayWithWork (s : State) (part : Nat) : Bool :=
  (match s.part? part with | some p => !p.resident | none => false) && (s.queued.any (fun q => q.part == part) || s.groups.any (fun g => g.part == part))

/-- Whether a die is quiet for a graph (R368, R375); in a round for waiting units those units do not count. -/
def State.quiet (s : State) (part : Nat) (key : LevelKey) (n : Nat) (waiters : Bool) : Bool :=
  let waiting := if waiters then s.waitingUnits part key else []
  let of (r : Record) : Bool := r.key 2 == key
  !s.awayWithWork part && !s.queued.any (fun q => q.part == part && q.die == n && of q.record)
    && !s.groups.any (fun g => g.part == part && g.die == n && of (s.recordOf g.uid) && !waiting.contains g.uid)
    && !s.enqueues.any (fun e => e.part == part && e.records.any (fun q => of q.record) && (match e.issuer with | some r => (s.group r.gid).die == n | none => false))

/-- Every slice that waits in `jwait` on a level goes on, an acquire at device scope (R368, R372). -/
def State.releaseJwait (s : State) (part : Nat) (key : LevelKey) : State :=
  s.groups.foldl (fun s g =>
    if g.part ≠ part ∨ g.swapped then s
    else
      (g.slices.zipIdx).foldl (fun s x => match x.1.wait with
        | some (.jwaitLevel k _ next) => if k = key then (s.acquire g.coreRef 4).resume ⟨g.gid, x.2⟩ x.1.pc next .next else s
        | _ => s) s) s

/-- The end of a white round. -/
def State.endRound (s : State) (part : Nat) (key : LevelKey) (t : TokenRound) : State :=
  let idle := s.modLevel part key (fun l => { l with token := none })
  if t.black || t.host then idle else if t.waiters then idle.releaseJwait part key else s.destroyLevel part key

/-- R368: the token of a dynamic graph starts a round, or moves on from a quiet die. -/
def execTokenRound (part : Nat) (key : LevelKey) (s : State) : Outcome :=
  match s.level? part key, s.part? part with
  | some l, some p =>
    if !l.dyn || key.level != 2 then .next s
    else
      let dies := dieList p.dies
      match l.token with
      | none =>
        let waiting := (s.waitingUnits part key).length
        if l.count = 0 then .next (s.modLevel part key (fun l => { l with token := some ⟨dies.headD 0, false, false, false⟩ }))
        else if l.count ≤ waiting then .next (s.modLevel part key (fun l => { l with token := some ⟨dies.headD 0, false, true, false⟩ }))
        else .next s
      | some t =>
        if !s.quiet part key t.die t.waiters then .next s
        else
          let t := { t with black := t.black || l.blk.getLsbD t.die }
          let s := s.modLevel part key (fun l => { l with blk := l.blk &&& ~~~(BitVec.ofNat 8 (2 ^ t.die)) })
          match dies.find? (fun n => decide (t.die < n)) with
          | some n => .next (s.modLevel part key (fun l => { l with token := some { t with die := n } }))
          | none => .next (s.endRound part key t)
  | _, _ => .next s

/-! ### The instructions (R371, R372) -/

/-- The unit's record and number of a slice. -/
def recordAt (c : Ctx) (s : State) : Record := s.recordOf (s.group c.ref.gid).uid

/-- The checks of an address operand: misaligned, then not canonical (R371). -/
def addressTrap (c : Ctx) (a : Dword) (align : Nat) : Option Trap :=
  if a.toNat % align ≠ 0 then some ⟨0x07, a, c.eff, word align⟩ else if !canonical a then some ⟨0x09, a, c.eff, 1⟩ else none

/-- The fate of a slice whose counter the control die could not reach (R466). -/
def counterFate (c : Ctx) (a : Dword) : Enqueued → Fate
  | .blocked b => .park (.replay b ⟨0x08, a, c.eff, word (1 + 16 * c.eff.toNat)⟩)
  | .failed cause code => .trap ⟨cause, a, c.eff, word (if cause = 8 then code + 16 * c.eff.toNat else code)⟩
  | .done => .next

/-- A record read at issue and judged (R359, R372). -/
def withRecord (c : Ctx) (s : State) (a : Dword) (inherit_ : Bool) (f : Record → State → State × Fate) : State × Fate :=
  match readOnce c s true a 64 64 with
  | (s, .inr x) => (s, x)
  | (s, .inl bs) =>
    let r := Record.ofBytes a.toNat bs
    let own := (recordAt c s).levels
    let r := if inherit_ then { r with levels := own.extractLsb' 32 32 ++ r.levels.extractLsb' 0 32 } else r
    let dies := match s.part? (s.group c.ref.gid).part with | some p => p.dies | none => 0
    match r.bad dies with
    | some off => (s, .trap ⟨0x02, a + dword off, c.eff, infoRuntime⟩)
    | none => f r s

/-- Records of a slice enqueued; the slice waits where the area is full (R361). -/
def enqueueFor (c : Ctx) (s : State) (qs : List Queued) (spawn : Bool) : State × Fate :=
  let g := s.group c.ref.gid
  let s := if spawn then (qs.foldl (fun s q => s.modLevel q.part (q.record.key 2) (fun l => { l with dyn := true })) s) else s
  match s.enqueueAll (some g.die) spawn qs with
  | (s, [], _) => (s, .next)
  | (s, q :: _, some e) => (s, counterFate c q.record.join e)
  | (s, rest, none) =>
    match parkOrCancel c s (.queueArea c.eff c.g.next) with
    | (s, .park w) => ({ s with enqueues := s.enqueues ++ [{ part := g.part, records := rest, issuer := some c.ref, unread := none, block := none }] }, .park w)
    | x => x

/-- The dies of a record in a partition. -/
def State.diesOf (s : State) (part : Nat) (r : Record) : List Nat := dieList (r.dies &&& (match s.part? part with | some p => p.dies | none => 0))

/-- SPAWN (R372). -/
def actSpawn (c : Ctx) (s : State) : State × Fate :=
  let a := uniPair c s c.g.w.a.toNat
  match addressTrap c a 64 with
  | some t => (s, .trap t)
  | none =>
    withRecord c s a (WForm.field c.g.w 50 50 == 1) (fun r s =>
      let g := s.group c.ref.gid
      let dies := s.diesOf g.part r
      enqueueFor c s [Queued.of g.part (if dies.contains g.die then g.die else dies.headD 0) r a.toNat] true)

/-- JDEC; its counter is checked in the core as an atomic's (R466). -/
def actJdec (c : Ctx) (s : State) : State × Fate :=
  let a := uniPair c s c.g.w.a.toNat
  let g := s.group c.ref.gid
  if !canonical a then (s, .trap ⟨0x09, a, c.eff, 1⟩)
  else if a.toNat % 8 ≠ 0 then (s, .trap ⟨0x07, a, c.eff, 8⟩)
  else
    match s.workReach g.coreRef g.part (s.unitIdOf g) a needBoth 1 with
    | (s, .at_ pa) => ((s.homeLookup g.die pa).decrementAt g.part a pa (uni c s c.g.w.b.toNat), .next)
    | (s, .blocked b) => (s, counterFate c a (.blocked b))
    | (s, .failed cause code) => (s, counterFate c a (.failed cause code))

/-- A doubleword read through the core's TLB for a wait: its value with its poison mark, or what stops the slice (R466). -/
def State.watch (s : State) (r : SliceRef) (a : Dword) (eff : Mask) : State × ((Nat × Option Dword) ⊕ Fate) :=
  match s.readGlb r a 8 needRead 0 with
  | (s, .inl (bs, p)) => (s, .inl (fromBytes bs, p.map (fun _ => originOf .glb a)))
  | (s, .inr (b, .fault seq)) => (s, .inr (.park (.replay (.fault seq) ⟨0x08, b, eff, word (16 * eff.toNat)⟩)))
  | (s, .inr (b, .migrate p n)) => (s, .inr (.park (.replay (.migration p n) ⟨0x08, b, eff, word (16 * eff.toNat)⟩)))
  | (s, .inr (b, .denied code)) => (s, .inr (.trap ⟨0x09, b, eff, word code⟩))
  | (s, .inr (b, _)) => (s, .inr (.trap ⟨0x08, b, eff, word (16 * eff.toNat)⟩))

/-- JWAIT on a counter: over once it reads 0 (R372). -/
def State.tryJwait (s : State) (r : SliceRef) (a : Dword) (eff : Mask) : Option (State × Fate) :=
  match s.watch r a eff with
  | (s, .inl (0, _)) => some (s.acquire (s.group r.gid).coreRef 4, .next)
  | (_, .inl _) => none
  | (s, .inr f) => some (s, f)

/-- JWAIT (R372). A level of which an object lives waits until the end of the step. -/
def actJwait (c : Ctx) (s : State) : State × Fate :=
  let mode := WForm.field c.g.w 52 50
  let g := s.group c.ref.gid
  if mode = 0 then
    let a := uniPair c s c.g.w.a.toNat
    match addressTrap c a 8 with
    | some t => (s, .trap t)
    | none => match s.tryJwait c.ref a c.eff with
      | some x => x
      | none => parkOrCancel c s (.jwaitCounter a c.eff c.g.next)
  else
    let key := (recordAt c s).named mode (uni c s c.g.w.a.toNat)
    if (s.level? g.part key).isNone then (s.acquire g.coreRef 4, .next) else parkOrCancel c s (.jwaitLevel key c.eff c.g.next)

/-- LAUNCH (R361, R371, R372). -/
def actLaunch (c : Ctx) (s : State) : State × Fate :=
  let a := uniPair c s c.g.w.a.toNat
  let n := uni c s c.g.w.b.toNat
  let stride := uni c s c.g.w.c.toNat
  let bitmap := if c.g.w.d.toNat < 192 then some (uniPair c s c.g.w.d.toNat) else none
  let traps : List (Option Trap) := [
    (if a.toNat % 64 ≠ 0 then some ⟨0x07, a, c.eff, 64⟩ else none),
    bitmap.bind (fun b => if b.toNat % 8 ≠ 0 then some ⟨0x07, b, c.eff, 8⟩ else none),
    addressTrap c a 64,
    bitmap.bind (fun b => addressTrap c b 8),
    (if 2 ^ 24 < n ∨ stride % 8 ≠ 0 then some ⟨0x02, c.g.addr, c.eff, infoRuntime⟩ else none)]
  match traps.findSome? id with
  | some t => (s, .trap t)
  | none =>
    withRecord c s a false (fun t s =>
      let g := s.group c.ref.gid
      let dies := s.diesOf g.part t
      let serial := s.nextLaunch
      let q (i : Nat) : Queued :=
        { Queued.of g.part (if t.clusterBound then dies.headD 0 else dies.getD (i % dies.length) 0)
            { t with frame := t.frame + dword (i * stride), arg := t.arg + dword i } (a.toNat + 64 * i) with
          bitmap := bitmap, firstArg := t.arg, launchUnit := true, launchSerial := serial }
      enqueueFor c { s with nextLaunch := serial + 1 } ((List.range n).map q) false)

/-- CANCEL (R369, R372). -/
def actCancel (c : Ctx) (s : State) : State × Fate :=
  let level := WForm.field c.g.w 52 50
  let id := uni c s c.g.w.a.toNat
  let key := if level = 0 then unitKey id else (recordAt c s).named level id
  (s.cancelLevel (s.group c.ref.gid).part key, .next)

/-- TDONE (R367, R372); a bitmap that cannot be reached now is set later, or counts an error (R466). -/
def actTdone (c : Ctx) (s : State) : State × Fate :=
  match s.unit? (s.group c.ref.gid).uid with
  | none => (s, .next)
  | some u =>
    match u.bitmap with
    | none => (s, .next)
    | some b =>
      let t := tilePlace b (tileOf u.record.arg u.firstArg)
      match s.workReach controlDie u.part 0 t.1 needBoth 1 with
      | (s, .at_ pa) => (s.orAt pa (2 ^ t.2), .next)
      | (s, .blocked blk) =>
        ({ s with counterAccesses := s.counterAccesses ++ [{ part := u.part, va := t.1, setBits := some (BitVec.ofNat 64 (2 ^ t.2)), uid := some u.uid, block := blk }] },
          .next)
      | (s, .failed cause _) => (s.levelError u.part (u.record.key 1) cause, .next)

/-- TWAIT of a tile: over once its done or error bit is set (R372). -/
def State.tryTwait (s : State) (r : SliceRef) (bitmap : Dword) (tile d : Nat) (eff : Mask) : Option (State × Fate) :=
  let t := tilePlace bitmap tile
  match s.watch r t.1 eff with
  | (s, .inl (x, p)) =>
    let v := x / 2 ^ t.2 % 4
    if v = 0 then none
    else
      let s := s.modSlice r (fun sl => sl.setLanesP d eff (Lanes.all (word v)) (Lanes.all p))
      some (s.acquire (s.group r.gid).coreRef 4, .next)
  | (s, .inr f) => some (s, f)

def actTwait (c : Ctx) (s : State) : State × Fate :=
  let a := uniPair c s c.g.w.a.toNat
  let tile := uni c s c.g.w.b.toNat
  match addressTrap c a 8 with
  | some t => (s, .trap t)
  | none => match s.tryTwait c.ref a tile c.g.w.d.toNat c.eff with
    | some x => x
    | none => parkOrCancel c s (.twait a tile c.g.w.d.toNat c.eff c.g.next)

/-- PRIO (R371, R372). -/
def actPrio (c : Ctx) (s : State) : State × Fate :=
  let b := uni c s c.g.w.b.toNat
  if 7 < b then (s, .trap ⟨0x02, c.g.addr, c.eff, infoRuntime⟩)
  else
    let part := (s.group c.ref.gid).part
    let key := (recordAt c s).named (WForm.field c.g.w 52 50) (uni c s c.g.w.a.toNat)
    ({ s with queued := s.queued.map (fun (q : Queued) => if q.part = part ∧ q.record.key key.level = key then { q with priority := b } else q) }, .next)

def execSpawn (p : List Prefix) (w : WForm) (s : State) : Outcome := issueEach 0xD0 true p w actSpawn s
def execJdec (p : List Prefix) (w : WForm) (s : State) : Outcome := issueEach 0xD1 true p w actJdec s
def execJwait (p : List Prefix) (w : WForm) (s : State) : Outcome := issueEach 0xD2 true p w actJwait s
def execLaunch (p : List Prefix) (w : WForm) (s : State) : Outcome := issueEach 0xD3 true p w actLaunch s
def execCancel (p : List Prefix) (w : WForm) (s : State) : Outcome := issueEach 0xD4 true p w actCancel s
def execTdone (p : List Prefix) (w : WForm) (s : State) : Outcome := issueEach 0xD5 true p w actTdone s
def execTwait (p : List Prefix) (w : WForm) (s : State) : Outcome := issueEach 0xD6 true p w actTwait s
def execPrio (p : List Prefix) (w : WForm) (s : State) : Outcome := issueEach 0xD7 true p w actPrio s

/-! ### The host and the queue area (R359, R361) -/

/-- The pieces of a record in memory as the control die reads it. -/
def State.readRecord (s : State) (part : Nat) (a : Dword) : State × (List Byte ⊕ Reached) :=
  match s.workReach controlDie part 0 a needRead 0 with
  | (s, .at_ pa) => (s, .inl (s.readPhys pa 64))
  | (s, e) => (s, .inr e)

/-- A host's record read and enqueued, left to wait, or refused. -/
def State.hostEnqueue (s : State) (part : Nat) (a : Dword) : State :=
  let wait (s : State) (rs : List Queued) (unread : Option Dword) (b : Option Block) : State :=
    { s with enqueues := s.enqueues ++ [{ part := part, records := rs, issuer := none, unread := unread, block := b }] }
  match s.part? part with
  | none => s.reply (.status false)
  | some p =>
    if a.toNat % 64 ≠ 0 then s.reply (.status false)
    else
      match s.readRecord part a with
      | (s, .inr (.blocked b)) => wait s [] (some a) (some b)
      | (s, .inr _) => s.reply (.status false)
      | (s, .inl bs) =>
        let r := Record.ofBytes a.toNat bs
        if (r.bad p.dies).isSome then s.reply (.status false)
        else
          match s.enqueueAll none false [Queued.of part ((s.diesOf part r).headD 0) r a.toNat] with
          | (s, [], _) => s.reply (.status true)
          | (s, _, some (.failed _ _)) => s.reply (.status false)
          | (s, qs, some (.blocked b)) => wait s qs none (some b)
          | (s, qs, _) => wait s qs none none

def execHostEnqueue (part : Nat) (addr : Dword) (s : State) : Outcome := s.smivik (fun s => .next (s.hostEnqueue part addr))

/-- R361: waiting enqueue `k` goes on as far as room and its join counters allow. -/
def execEnqueueAreaWaitEnd (k : Nat) (s : State) : Outcome :=
  match (s.enqueues.drop k).head? with
  | none => .next s
  | some e =>
    let out (s : State) : State := { s with enqueues := s.enqueues.eraseIdx k }
    let stays (s : State) (rest : List Queued) (x : Option Enqueued) : State :=
      { s with enqueues := s.enqueues.set k { e with records := rest, block := match x with | some (.blocked b) => some b | _ => none } }
    let failed := match e.block with | some b => s.failedBlock e.part b | none => false
    let held := match e.block with | some b => !s.blockOver e.part Group.vacant b | none => false
    if held then .next s
    else
      match e.unread, e.issuer with
      | some a, _ => .next (if failed then (out s).reply (.status false) else (out s).hostEnqueue e.part a)
      | none, some r =>
        let sl := s.slice r
        let eff := (sl.wait.map (fun (w : Wait) => w.lanes sl.active)).getD sl.active
        let spawn := e.records.all (fun q => !q.launchUnit)
        let go (s : State) (f : Fate) : State :=
          match sl.wait with
          | some (.queueArea _ next) => s.resume r sl.pc next f
          | _ => s
        let trap (cause code : Nat) : Fate :=
          .trap ⟨cause, (e.records.head?.map (fun q => q.record.join)).getD 0, eff, word (if cause = 8 then code + 16 * eff.toNat else code)⟩
        if failed then .next (go (out s) (trap 0x08 1))
        else
          match s.enqueueAll (some (s.group r.gid).die) spawn e.records with
          | (s, [], _) => .next (go (out s) .next)
          | (s, _, some (.failed cause code)) => .next (go (out s) (trap cause code))
          | (s, rest, x) => .next (stays s rest x)
      | none, none =>
        if failed then .next ((out s).reply (.status false))
        else
          match s.enqueueAll none false e.records with
          | (s, [], _) => .next ((out s).reply (.status true))
          | (s, _, some (.failed _ _)) => .next ((out s).reply (.status false))
          | (s, rest, x) => .next (stays s rest x)

/-- The control die's own accesses whose page faults have been answered (R466): a tile's bits that `TDONE` could not set. -/
def State.retryCounters (s : State) : State :=
  let ended (a : CounterAccess) : Bool := a.setBits.isSome && s.blockOver a.part Group.vacant a.block
  let todo := s.counterAccesses.filter ended
  let s := { s with counterAccesses := s.counterAccesses.filter (fun a => !ended a) }
  todo.foldl (fun s a =>
    match (if s.failedBlock a.part a.block then (s, .failed 0x08 1) else s.workReach controlDie a.part 0 a.va needBoth 1) with
    | (s, .at_ pa) => s.orAt pa ((a.setBits.getD 0).toNat)
    | (s, .blocked b) => { s with counterAccesses := s.counterAccesses ++ [{ a with block := b }] }
    | (s, .failed cause _) =>
      match a.uid.bind s.unit? with
      | some u => s.levelError u.part (u.record.key 1) cause
      | none => s) s

end Sys2Proof.Machine
end

