-- ==== Sys2Proof/Machine/Vm.lean ====
section
/-! DEFINITION. Virtual memory between instructions: the replay of faults and the host's answers, mappings and shootdowns, migration and its thrash detector, the control die on host pages, region tables, and the requests of base dies (R171, R379 to R402). -/

namespace Sys2Proof.Machine

/-! ### Replay and the host's answers (R171, R231, R387) -/

/-- The lanes of an access whose page fault has been answered FAIL. -/
def State.failedLanes (s : State) (part : Nat) (a : Access) : Mask :=
  Mask.ofFn (fun i => match a.lanes.get i with | .faulted seq => s.faultAnswer part seq == some false | _ => false)

/-- A slice whose fault, migration or absent line is over goes on: its access is replayed for the unfinished lanes, its instruction executed again, its handler's address read again; FAIL brings its trap instead (R171, R387). -/
def State.replaySlice (s : State) (r : SliceRef) : Outcome :=
  let g := s.group r.gid
  let sl := s.slice r
  let again (b : Block) (failed : Trap) : Outcome :=
    if s.failedBlock g.part b then .next (s.resume r sl.pc sl.pc (.trap failed))
    else if s.blockOver g.part g b then .next ((s.modSlice r (fun sl => { sl with wait := none })).divide r.gid (r.idx / g.gangSize))
    else .next s
  match sl.wait with
  | some (.access a) =>
    let bad := s.failedLanes g.part a
    if bad = 0 then s.replayAccess r else .next ((s.dropAccess r a).resume r a.addr a.next (.trap (a.faultTrap bad)))
  | some (.replay b failed) => again b failed
  | some (.fetch b failed) => again b failed
  | some (.handler b cause) =>
    if s.failedBlock g.part b then .next ((s.cancelBy r cause).divide r.gid (r.idx / g.gangSize))
    else if s.blockOver g.part g b then .next ((s.enterHandler r cause).divide r.gid (r.idx / g.gangSize))
    else .next s
  | _ => .next s

def execFaultReplay (r : SliceRef) (s : State) : Outcome := if (s.group r.gid).swapped then .next s else s.unlessEarly r (s.replaySlice r)

/-- The answer of a fault entry recorded; whether the entry stood unanswered. -/
def State.answerFault (s : State) (part seq : Nat) (ok : Bool) : Option State :=
  match s.part? part with
  | none => none
  | some p =>
    if p.faults.any (fun f => f.seq == seq && f.answer.isNone) then
      some (s.modPart part (fun p => { p with faults := p.faults.map (fun f => if f.seq = seq then { f with answer := some ok } else f) }))
    else none

/-- R387: RESOLVE. Every agent parked on the page may replay. -/
def execResolve (part seq : Nat) (s : State) : Outcome :=
  s.smivik (fun s => .next (match s.answerFault part seq true with
    | some s => s.reply (.status true)
    | none => s.reply (.status false)))

/-- Whether a slice waits on a fault entry. -/
def Slice.waitsOn (sl : Slice) (seq : Nat) : Bool :=
  match sl.wait with
  | some (.access a) => (List.range 4).any (fun i => decide (a.lanes.get i = .faulted seq))
  | some (.replay b _) | some (.fetch b _) | some (.handler b _) => decide (b = .fault seq)
  | _ => false

/-- The slices of a resident partition that wait on a fault entry. -/
def State.waitersOn (s : State) (part seq : Nat) : List SliceRef :=
  (s.groups.filter (fun g => g.part == part && !g.swapped)).flatMap (fun g =>
    (g.slices.zipIdx).filterMap (fun x => if x.1.waitsOn seq then some ⟨g.gid, x.2⟩ else none))

/-- Every core. -/
def allCores : List CoreRef := (List.range 8).flatMap (fun d => (List.range 96).map (fun c => (⟨d, c⟩ : CoreRef)))

/-- The copies of a partition parked on a failed entry end (R232). -/
def State.failCopies (s : State) (at_ : CoreRef) (part seq : Nat) : State :=
  ((s.core at_).copies.filter (fun c => c.part == part && c.block == some (.fault seq))).foldl
    (fun s c => s.faultCopy at_ c (c.fault.getD (0, 0)).1 (c.fault.getD (0, 0)).2) s

/-- The image load of a Mint parked on a failed entry fails with code 5, and a second reading of its image leaves the store invalid (R269, R281, R292). -/
def State.failMintBlock (s : State) (at_ : CoreRef) (part seq vpage : Nat) : State :=
  let m := (s.core at_).mint
  if m.stale then
    if m.block = some (.fault seq) ∧ m.image.map ImageRecord.part = some part then s.modMint at_ (fun m => { m.loseImage with block := none }) else s
  else
  match m.queue with
  | c :: _ =>
    if m.block = some (.fault seq) ∧ (s.group c.gid).part = part then
      (s.modMint at_ Mint.loseImage).mintFault at_ c 5 (c.imageAddr vpage) 0
    else s
  | [] => s

/-- The end of an outcome that a device register may have stopped. -/
def andThen (o : Outcome) (f : State → Outcome) : Outcome :=
  match o with
  | .next s => f s
  | .fault r => .fault r
  | .refused r => .refused r

/-- FAIL at the fault service: every parked slice takes the unresolvable page-fault trap, every parked copy ends, and a parked image load fails (R269, R387). -/
def State.failFault (s : State) (part seq : Nat) : Outcome :=
  match s.answerFault part seq false with
  | none => .next (s.reply (.status false))
  | some s =>
    let vpage := match s.part? part with | some p => ((p.faults.find? (fun f => f.seq == seq)).map (fun f => f.vpage)).getD 0 | none => 0
    let s := allCores.foldl (fun s c => (s.failCopies c part seq).failMintBlock c part seq vpage) s
    andThen ((s.waitersOn part seq).foldl (fun (o : Outcome) r => andThen o (fun s => s.unlessEarly r (s.replaySlice r))) (.next s)) (fun s => .next (s.reply (.status true)))

/-- R387: FAIL. -/
def execFail (part seq : Nat) (s : State) : Outcome := s.smivik (fun s => s.failFault part seq)

/-- The partition whose slices a die runs. -/
def State.residentOn (s : State) (die : Nat) : Option Partition := s.partitions.find? (fun p => p.resident && p.dies.getLsbD die)

/-- R383: a walk for the partition that a core runs: it installs a leaf with A set, and D for a write, or finds a fault. -/
def execPageWalk (at_ : CoreRef) (va : Dword) (write : Bool) (s : State) : Outcome :=
  match s.residentOn at_.die with
  | none => .next s
  | some p =>
    let kind := if write then 1 else 0
    match s.translate at_ p.num va.toNat write with
    | (s, .ok _ _) => .next s
    | (s, .invalid) => .next (s.raiseFault p.num va.toNat kind 0 0 at_.die at_.core).1
    | (s, .malformed) => .next (s.raiseFault p.num va.toNat kind 2 0 at_.die at_.core).1

/-! ### Shootdowns (R173, R388, R389) -/

/-- Whether an address lies in a span of virtual addresses. -/
def inSpan (va n x : Nat) : Bool := decide (va ≤ x % 2 ^ 57) && decide (x % 2 ^ 57 < va + n)

/-- Whether two spans meet. -/
def spansMeet (a n b m : Nat) : Bool := decide (a < b + m) && decide (b < a + n)

/-- The windows of a slice that map a span marked stale. -/
def Slice.staleWindows (va n : Nat) (sl : Slice) : Slice :=
  { sl with w := sl.w.map (fun (o : Option Window) => o.map (fun w =>
      if spansMeet va n (w.vbase.toNat % 2 ^ 57) w.limit then { w with stale := true, used := false } else w)) }

/-- An open transaction that holds a line of a frame meets a conflict: its set was translated through the old entry (R389). -/
def Slice.conflictFrame (frame n : Nat) (sl : Slice) : Slice :=
  match sl.tx with
  | some t => if t.lines.any (fun l => decide (frame ≤ l.1 * 128) && decide (l.1 * 128 < frame + n)) then { sl with tx := some { t with conflict := true } } else sl
  | none => sl

/-- Stores to a frame that the slice's other path made are no longer told apart once its page is mapped anew (R130, R389). -/
def Slice.forgetPaths (frame n : Nat) (sl : Slice) : Slice :=
  { sl with pathStores := sl.pathStores.filter (fun x => !(x.space == .glb && decide (frame ≤ x.addr) && decide (x.addr < frame + n))) }

/-- Whether a lane of a waiting access lies in a span of a partition's addresses. -/
def State.laneIn (s : State) (part va n : Nat) (r : SliceRef) (lane : Nat) : Bool :=
  (s.group r.gid).part == part &&
    (match s.accessOf r with
     | some a => a.space == .glb && inSpan va n (a.ea.get lane).toNat
     | none => false)

/-- A lane of a waiting access is to be translated again. -/
def State.retryLane (s : State) (r : SliceRef) (lane : Nat) : State :=
  s.modSlice r (fun sl =>
    match sl.wait with
    | some (.access a) =>
      if a.lanes.get lane = .parked ∨ a.lanes.get lane = .remote then { sl with wait := some (.access (a.setLane lane .todo)) } else sl
    | _ => sl)

/-- The lanes parked on the words of a span, and those handed to the control die, are woken without spending a unit (R173). -/
def State.wakeSpan (s : State) (part va n : Nat) : State :=
  let here (e : ParkEntry) : Bool := e.space == .glb && s.laneIn part va n e.ref e.lane
  let gone (x : RemoteRequest) : Bool := s.laneIn part va n x.ref x.lane
  let lanes := (s.parks.filter here).map (fun e => (e.ref, e.lane)) ++ (s.remotes.filter gone).map (fun x => (x.ref, x.lane))
  let s := { s with parks := s.parks.map (fun (e : ParkEntry) => if here e ∧ e.woken = false then { e with woken := true, free := true } else e), remotes := s.remotes.filter (fun x => !gone x) }
  lanes.foldl (fun s x => s.retryLane x.1 x.2) s

/-- A shootdown of a span mapped to a frame (R388). -/
def State.shootdown (s : State) (part va n frame : Nat) : State :=
  let s := { s with
    dies := s.dies.map (fun (d : Die) => { d with cores := d.cores.map (fun (k : Core) =>
      { k with tlb := k.tlb.filter (fun t => !(t.part == part && spansMeet va n t.vpage (pageBytes t.size))) }) })
    groups := s.groups.map (fun (g : Group) =>
      if g.part = part then { g with slices := g.slices.map (fun (sl : Slice) => ((sl.staleWindows va n).conflictFrame frame n).forgetPaths frame n) } else g) }
  s.wakeSpan part va n

/-! ### Page tables as firmware writes them (R379 to R382) -/

/-- The leaf that a MAP command writes (R381). -/
def leafEntry (m : MapCommand) : Nat :=
  let b (x : Bool) (k : Nat) : Nat := if x then 2 ^ k else 0
  1 + b m.perm.r 2 + b m.perm.w 3 + b m.perm.x 4 + b m.perm.fe 5 + m.size % 8 * 2 ^ 9 + m.frame % 2 ^ 52 / 4096 * 4096 + b m.mig 52

/-- The table of an address at a level, `n` levels below a table, with the tables on the way allocated in the table area; none where a leaf stands in the way or the area is full. -/
def State.tableFor (s : State) (part va target : Nat) : Nat → Nat → State × Option Nat
  | 0, table => (s, some table)
  | n + 1, table =>
    let a := entryAddr table (target + n + 1) va
    let e := s.mem.num a 8
    if bit e 0 && bit e 1 then s.tableFor part va target n (pteFrame e)
    else if bit e 0 then (s, none)
    else
      match s.part? part with
      | none => (s, none)
      | some p =>
        if p.tableEnd < p.tableNext + 4096 then (s, none)
        else
          let t := p.tableNext
          let s := { s with mem := (s.mem.zeroSpan 128 t 4096).setNum a 8 (t + 3) }.controlAsks 3 [(t, 4096), (a, 8)]
          (s.modPart part (fun p => { p with tableNext := t + 4096 })).tableFor part va target n t

/-- The leaf of an address, well formed or not, `n` levels from the last: its level, the address of its entry, and the entry. -/
def State.findLeaf (s : State) (va : Nat) : Nat → Nat → Option (Nat × Nat × Nat)
  | 0, table =>
    let a := entryAddr table 0 va
    let e := s.mem.num a 8
    if bit e 0 then some (0, a, e) else none
  | n + 1, table =>
    let a := entryAddr table (n + 1) va
    let e := s.mem.num a 8
    if !bit e 0 then none else if bit e 1 then s.findLeaf va n (pteFrame e) else some (n + 1, a, e)

/-- The leaf of an address in a partition's space. -/
def State.leafOf (s : State) (part va : Nat) : Option (Nat × Nat × Nat) :=
  match s.part? part with
  | some p => s.findLeaf (va % 2 ^ 57) 4 p.ptroot
  | none => none

/-- The run of a leaf: its first entry and its length. -/
def runOf (level a e : Nat) : Nat × Nat :=
  let n := if sizeAllowed level (bits e 11 9) then runLength (bits e 11 9) else 1
  (a - a / 8 % 512 % n * 8, n)

/-- The entries of a run written by the control die (R379, R400). -/
def State.writeRun (s : State) (a n e : Nat) : State := { s with mem := (List.range n).foldl (fun m k => m.setNum (a + 8 * k) 8 e) s.mem }.controlAsks 3 [(a, 8 * n)]

/-- The bytes that a leaf at a level maps: those of its size, or of one entry where the size is not allowed there. -/
def leafBytes (level e : Nat) : Nat := if sizeAllowed level (bits e 11 9) then pageBytes (bits e 11 9) else 2 ^ (12 + 9 * level)

/-- What firmware and the directory keep of a span forgotten. -/
def Partition.forget (p : Partition) (va n : Nat) : Partition :=
  { p with
    mapped := p.mapped.filter (fun m => !spansMeet va n m.va m.bytes)
    directory := p.directory.filter (fun d => !spansMeet va n d.vpage 4096) }

/-- The host requests that the directory entries of a span hold, and those whose moves are under way: forgetting the span ends the moves, and they are answered "retry" (R390). -/
def Partition.heldRequests (p : Partition) (va n : Nat) : Nat :=
  ((p.directory.filter (fun d => spansMeet va n d.vpage 4096 && decide (d.home = .moving))).map (fun d => d.hostHeld + if d.target = .host then 1 else 0)).sum

/-- Host requests answered "retry" (R390). -/
def State.retryHeld (s : State) (k : Nat) : State := { s with replies := s.replies ++ List.replicate k (.migration true) }

/-- What firmware and the directory keep of a span of a partition forgotten; the host requests held there are answered. -/
def State.forget (s : State) (part va n : Nat) : State :=
  (s.modPart part (fun p => p.forget va n)).retryHeld (match s.part? part with | some p => p.heldRequests va n | none => 0)

/-- The directory entry that MAP creates (R390). -/
def dirEntryOf (m : MapCommand) (va : Nat) : DirEntry :=
  { vpage := va, home := m.home, source := m.home, target := m.home, moves := 0, wstart := none, pinUntil := 0, pinned := false, hostHeld := 0, turn := 0,
    devFrame := if m.home = .dev then some (pteFrame (leafEntry m)) else none, hostFrame := if m.home = .dev then none else some (pteFrame (leafEntry m)) }

/-- The bits of a host page's tag shadow: every word full, or every word empty (R394). -/
def Memory.shadowPage (m : Memory) (frame n : Nat) (empty : Bool) : Memory :=
  (List.range (n / 8)).foldl (fun m k => m.setFull (frame + 8 * k) (!empty)) m

/-- The tag shadow of a host page as its 64 bytes: the word at page offset 8w is bit (w mod 8) of byte floor(w / 8) (R394). -/
def Memory.shadowBytes (m : Memory) (frame : Nat) : List Byte :=
  (List.range 64).map (fun b => BitVec.ofNat 8 (((List.range 8).map (fun i => if m.full (frame + 8 * (8 * b + i)) then 2 ^ i else 0)).sum))

/-- R379: MAP; no leaf maps a table area. It writes the run of a page, with a shootdown where a valid leaf stood (R388). -/
def State.mapPage (s : State) (part : Nat) (m : MapCommand) : Outcome :=
  match s.part? part with
  | none => .next (s.reply (.status false))
  | some p =>
    let va := m.va.toNat % 2 ^ 57
    let n := pageBytes m.size
    let tables := s.partitions.any (fun q => spansMeet m.frame n q.ptroot (q.tableEnd - q.ptroot))
    if !canonical m.va ∨ va % n ≠ 0 ∨ 7 < m.size ∨ (m.mig ∧ m.home = .moving) ∨ tables then .next (s.reply (.status false))
    else
      let level := sizeLevel m.size
      let old := s.leafOf part va
      match s.tableFor part va level (4 - level) p.ptroot with
      | (s, none) => .next (s.reply (.status false))
      | (s, some table) =>
        let a := entryAddr table level va
        let run := runLength m.size
        let stood := (List.range run).any (fun k => bit (s.mem.num (a + 8 * k) 8) 0)
        let s := s.writeRun a run (leafEntry m)
        let s := (s.forget part va n).modPart part (fun p =>
          { p with
            mapped := p.mapped ++ [⟨va, m.frame, n⟩]
            directory := if m.mig && m.size == 0 then p.directory ++ [dirEntryOf m va] else p.directory })
        let s := match old with
          | some (l, _, e) =>
            let b := max n (leafBytes l e)
            if stood then s.shootdown part (va / b * b) b (pteFrame e) else s
          | none => if stood then s.shootdown part va n m.frame else s
        let s := if m.perm.fe ∧ s.physKind m.frame = .host then { s with mem := s.mem.shadowPage m.frame n m.emptyShadow } else s
        .next (s.reply (.status true))

def execMap (part : Nat) (m : MapCommand) (s : State) : Outcome := s.smivik (fun s => s.mapPage part m)

/-- R388: UNMAP of the page that holds an address. -/
def State.unmapPage (s : State) (part : Nat) (va : Dword) : Outcome :=
  match s.leafOf part va.toNat with
  | none => .next (s.reply (.status false))
  | some (level, a, e) =>
    let n := leafBytes level e
    let base := va.toNat % 2 ^ 57 / n * n
    let run := runOf level a e
    let s := (s.writeRun run.1 run.2 0).forget part base n
    .next ((s.shootdown part base n (pteFrame e)).reply (.status true))

def execUnmap (part : Nat) (va : Dword) (s : State) : Outcome := s.smivik (fun s => s.unmapPage part va)

/-- R383, R388: PROTECT of the page that holds an address; A and D are cleared. -/
def State.protectPage (s : State) (part : Nat) (va : Dword) (perm : Perm) : Outcome :=
  match s.leafOf part va.toNat with
  | none => .next (s.reply (.status false))
  | some (level, a, e) =>
    let n := leafBytes level e
    let base := va.toNat % 2 ^ 57 / n * n
    let b (x : Bool) (k : Nat) : Nat := if x then 2 ^ k else 0
    let run := runOf level a e
    let s := s.writeRun run.1 run.2 (e / 512 * 512 + e % 4 + b perm.r 2 + b perm.w 3 + b perm.x 4 + b perm.fe 5)
    .next ((s.shootdown part base n (pteFrame e)).reply (.status true))

def execProtect (part : Nat) (va : Dword) (perm : Perm) (s : State) : Outcome := s.smivik (fun s => s.protectPage part va perm)

/-! ### Migration (R390 to R392) -/

/-- The state with a directory entry changed. -/
def State.modDir (s : State) (part vpage : Nat) (f : DirEntry → DirEntry) : State :=
  s.modPart part (fun p => { p with directory := p.directory.map (fun d => if d.vpage = vpage then f d else d) })

/-- The spans of physical memory that firmware has given out: mapped pages, table areas, and the frames of migratable pages. -/
def State.framesUsed (s : State) : List (Nat × Nat) :=
  s.partitions.flatMap (fun p =>
    (p.ptroot, p.tableEnd - p.ptroot) :: p.mapped.map (fun m => (m.frame, m.bytes))
      ++ p.directory.flatMap (fun d => (d.devFrame.toList ++ d.hostFrame.toList).map (fun f => (f, 4096))))

/-- A frame of 4 KiB of device or host memory that firmware has not given out: a free value among them, for R390 does not say which. -/
def State.freeFrame (s : State) (kind : PhysKind) : Option Nat :=
  let used := s.framesUsed
  let good (f : Nat) : Bool := s.physKind f == kind && !used.any (fun u => spansMeet f 4096 u.1 u.2)
  let starts := s.regions.map (fun e => e.base * 2 ^ 30) ++ used.map (fun u => (u.1 + u.2 + 4095) / 4096 * 4096)
  ((Config.openValue s.fresh 0).toNat % 2 ^ 40 * 4096 :: starts).find? good

/-- The directory entry with a frame on the side that a move goes to. -/
def State.frameFor (s : State) (d : DirEntry) (target : PageHome) : Option DirEntry :=
  match target with
  | .dev => (match d.devFrame with | some _ => some d | none => (s.freeFrame .device).map (fun f => { d with devFrame := some f }))
  | _ => (match d.hostFrame with | some _ => some d | none => (s.freeFrame .host).map (fun f => { d with hostFrame := some f }))

/-- The frame a page lives in. -/
def DirEntry.frame (d : DirEntry) (home : PageHome) : Nat := match home with | .dev => d.devFrame.getD 0 | _ => d.hostFrame.getD 0

/-- A move starts: the page is shot down (R388, R390). It waits where no frame is free. -/
def State.startMove (s : State) (part : Nat) (d : DirEntry) (target : PageHome) : State :=
  match s.frameFor d target with
  | none => s
  | some e =>
    (s.modDir part d.vpage (fun _ => { e with home := .moving, source := d.home, target := target })).shootdown part d.vpage 4096 (d.frame d.home)

/-- R390: a device request at the directory. One that meets MOVING is held; a pinned page, or one in device memory, is answered "resolved". -/
def execMigrationRequest (part vpage : Nat) (s : State) : Outcome :=
  match s.dirEntry? part vpage with
  | none => .next s
  | some d => .next (if d.home = .moving ∨ d.pinned ∨ d.home = .dev then s else s.startMove part d .dev)

/-- R390: a host request at the directory. -/
def State.hostRequest (s : State) (part vpage : Nat) : Outcome :=
  match s.dirEntry? part vpage with
  | none => .next (s.reply (.status false))
  | some d =>
    .next (if d.home = .moving then s.modDir part vpage (fun d => { d with hostHeld := d.hostHeld + 1 })
      else if d.pinned ∨ d.home = .host then s.reply (.migration false)
      else s.startMove part d .host)

def execHostMigrationRequest (part vpage : Nat) (s : State) : Outcome := s.smivik (fun s => s.hostRequest part vpage)

/-- 4 KiB of one frame copied to another with their bits and marks (R390). -/
def Memory.movePage (m : Memory) (src dst : Nat) : Memory :=
  let d := m.copySpan m src 4096 dst 128
  (m.poison.filter (fun u => decide (src ≤ 128 * u) && decide (128 * u < src + 4096))).foldl (fun d u => d.addPoison 128 (128 * u - src + dst) 1) d

/-- A leaf with its frame and PR replaced. -/
def moveLeaf (e frame : Nat) (pr : Bool) : Nat := e % 4096 + frame % 2 ^ 52 / 4096 * 4096 + 2 ^ 52 + (if pr then 2 ^ 53 else 0)

/-- The thrash detector after a counted move (R392). -/
def DirEntry.counted (d : DirEntry) (p : Partition) (now : Nat) : DirEntry :=
  let d := { d with moves := d.moves + 1 }
  let d := match d.wstart with
    | some w => if w + p.thrashW * 1000 ≤ now then { d with wstart := some now, moves := 1 } else d
    | none => { d with wstart := some now, moves := 1 }
  if p.thrashN < d.moves then { d with pinUntil := now + p.thrashT * 1000, pinned := true } else d

/-- R390: a move ends: the page's bytes and bits lie at the target, the leaf is written, and held requests are answered "retry". -/
def execMoveComplete (part vpage : Nat) (s : State) : Outcome :=
  match s.dirEntry? part vpage, s.part? part, s.leafOf part vpage with
  | some d, some p, some (_, a, e) =>
    if d.home ≠ .moving then .next s
    else
      let dst := d.frame d.target
      let mem := if d.source = .unpop then s.mem.eraseSpan 128 dst 4096 else s.mem.movePage (d.frame d.source) dst
      let d' := { d with home := d.target }
      let d' := if d.source = .unpop then d' else d'.counted p s.nanos
      let s := { s with mem := mem.setNum a 8 (moveLeaf e dst (d'.pinned && decide (d.target = PageHome.host))) }
      let s := ((s.controlAsks 1 (if d.source = .dev then [(d.frame d.source, 4096)] else [])).controlAsks 2 (if d.target = .dev then [(dst, 4096)] else [])).controlAsks 3 [(a, 8)]
      let s := (s.modDir part vpage (fun _ => { d' with hostHeld := 0, turn := d.turn + 1 })).shootdown part vpage 4096 (d.frame d.source)
      let s := if d.target = .host then s.reply (.migration false) else s
      .next (s.retryHeld d.hostHeld)
  | _, _, _ => .next s

/-- R392: at PINUNTIL a page is pinned no more. -/
def execPinExpiry (part vpage : Nat) (s : State) : Outcome :=
  match s.dirEntry? part vpage, s.leafOf part vpage with
  | some d, some (_, a, e) =>
    if !d.pinned ∨ s.nanos < d.pinUntil then .next s
    else
      let s := { s with mem := s.mem.setNum a 8 (moveLeaf e (pteFrame e) false) }.controlAsks 3 [(a, 8)]
      let s := s.modDir part vpage (fun d => { d with pinned := false, moves := 0, wstart := some s.nanos })
      .next (s.shootdown part vpage 4096 (pteFrame e))
  | _, _ => .next s

/-- R392: the parameters of a partition's thrash detector; values outside their ranges are refused. -/
def State.setThrash (s : State) (part n w t : Nat) : Outcome :=
  .next (if (s.part? part).isSome ∧ 1 ≤ n ∧ n ≤ 255 ∧ 1 ≤ w ∧ w ≤ 1000000 ∧ 1 ≤ t ∧ t ≤ 10000000 then
      (s.modPart part (fun p => { p with thrashN := n, thrashW := w, thrashT := t })).reply (.status true)
    else s.reply (.status false))

def execThrashParameters (part n w t : Nat) (s : State) : Outcome := s.smivik (fun s => s.setThrash part n w t)

/-! ### The control die on host pages (R395) -/

/-- R395: the control die performs request `k`, the first of its page. -/
def execPinnedRemoteService (k : Nat) (s : State) : Outcome :=
  match (s.remotes.drop k).head? with
  | none => .next s
  | some x =>
    if (s.remotes.take k).any (fun y => y.pa / 4096 == x.pa / 4096) || (s.group x.ref.gid).swapped then .next s
    else
      let s := { s with remotes := s.remotes.eraseIdx k }
      match s.accessOf x.ref with
      | none => .next s
      | some a =>
        if a.lanes.get x.lane ≠ .remote then .next s
        else
          let bad := s.poisonedTargets a [(x.lane, .at_ (.glb x.pa))]
          if bad ≠ 0 then .next ((s.dropAccess x.ref a).resume x.ref a.addr a.next (.poison bad (originOf a.space (a.lowest bad))))
          else
            let y := s.presentLane x.ref a x.lane (.glb x.pa)
            let z := y.1.restAccess x.ref y.2
            match z with
            | (s, .park (.access b)) =>
              .next (if (s.slice x.ref).retry.lost then s.budgetTrap x.ref b false else s.resume x.ref a.addr a.next (.park (.access b)))
            | (s, f) => .next (s.resume x.ref a.addr a.next f)

/-! ### Region tables (R396, R398) -/

/-- A region's reach in GiB. -/
def regionLast (e : RegionEntry) : Nat := e.base + e.size

/-- A region that firmware refuses: a reserved kind, no stack, or slots past 64 GiB in a stack (R396). -/
def regionRefused (e : RegionEntry) : Bool :=
  let k := (stackList e.stackMask).length
  decide (2 < e.kind) || (e.kind == 0 && (k == 0 || decide (2 ^ 24 < e.sofs + ((e.size + 1) * 2 ^ 18 + k - 1) / k)))

/-- Whether some two regions of a table overlap. -/
def regionsOverlap : List RegionEntry → Bool
  | [] => false
  | e :: rest => rest.any (fun f => decide (e.base ≤ regionLast f) && decide (f.base ≤ regionLast e)) || regionsOverlap rest

/-- A region-table entry as its 16 bytes (R396). -/
def regionWord (e : RegionEntry) : BitVec 128 :=
  BitVec.ofNat 128 (2 ^ 127 + e.kind % 8 * 2 ^ 120 + e.stackMask.toNat * 2 ^ 104 + e.hdie % 8 * 2 ^ 100 + e.port % 4 * 2 ^ 96 + e.sofs % 2 ^ 24 * 2 ^ 64
    + e.size % 2 ^ 22 * 2 ^ 32 + e.base % 2 ^ 22)

/-- Entry `n` of the region table as Smivik reads it: an entry that is not valid reads 0 (R396). -/
def State.regionEntry (s : State) (n : Nat) : BitVec 128 := match s.regions[n]? with | some e => regionWord e | none => 0

/-! ### Requests to base dies and their generations (R398, R400) -/

/-- Requests of a generation that a base die has not answered, or that stall at its ports. -/
def BaseDie.carries (b : BaseDie) (gen : Nat) (from_ : Nat → Bool) : Bool := (b.flights ++ b.stalled).any (fun f => f.q.gen == gen && from_ f.q.port)

/-- Whether the requester of a request has acknowledged a rewrite: a die of the generation's requests, or the base die (R398). -/
def Rewrite.acked (w : Rewrite) (q : BaseRequest) : Bool := if slicePort q.port then w.dieAcks.contains (q.stack / 2) else w.baseAcks.contains q.stack

/-- A request arrives at a base die. During a rewrite one that its requester places after it has acknowledged waits for the new generation (R398). -/
def State.arriveBase (s : State) (kind : Nat) (q : BaseRequest) : State :=
  match s.rewrite with
  | some w => if q.gen = s.generation ∧ w.acked q then { s with rewrite := some { w with waiting := w.waiting ++ [(kind, q)] } } else s.takeRequest kind q
  | none => s.takeRequest kind q

/-- The request of a line looked up again under the current table, from where an older table put it; nothing where the line lies in no region (R398). -/
def State.placedAgain (s : State) (table : List RegionEntry) (q : BaseRequest) : Option BaseRequest :=
  match paIn table q.stack q.line with
  | none => none
  | some pa =>
    match s.region? pa with
    | some e => if e.kind = 0 then some { q with gen := s.generation, stack := (regionPlace e pa).1, line := (regionPlace e pa).2 } else none
    | none => none

/-- The requester of a request that was answered RETRY-GEN looks up the table again; during a rewrite its request waits (R398). -/
def State.retryGen (s : State) (f : BaseFlight) : State :=
  let table := if (f.q.gen + 1) % 256 = s.generation then s.oldRegions else s.regions
  match s.rewrite with
  | some w => { s with rewrite := some { w with waiting := w.waiting ++ (s.placedAgain table f.q).toList.map (fun q => (f.kind, q)) } }
  | none => match s.placedAgain table f.q with | some q => s.takeRequest f.kind q | none => s

/-- The new table is current, and the requests that wait are placed under it, those of the device itself as its lines lie now (R398). -/
def State.endRewrite (s : State) (w : Rewrite) : State :=
  let old := s.regions
  let s := { s with
    regions := w.entries
    oldRegions := old
    generation := (s.generation + 1) % 256
    rewrite := none
    dies := s.dies.map (fun (d : Die) => { d with homeMap := [] }) }
  ((w.waiting.foldl (fun s x => match s.placedAgain old x.2 with | some q => s.takeRequest x.1 q | none => s) s).askBases w.own).reply (.status true)

/-- The acknowledgements of a rewrite: a die discards its home map and acknowledges once its requests of the generation are complete, and a base die once none is outstanding; with all of them the new generation is current (R398). -/
def State.finishRewrite (s : State) : State :=
  match s.rewrite with
  | none => s
  | some w =>
    let idle (b : Nat) (from_ : Nat → Bool) : Bool := !(s.base b).carries s.generation from_
    let dies := (List.range 8).filter (fun n => idle (2 * n) slicePort && idle (2 * n + 1) slicePort)
    let bases := (List.range 16).filter (fun b => idle b (fun _ => true))
    let w := { w with dieAcks := dies, baseAcks := bases }
    if dies.length = 8 ∧ bases.length = 16 then s.endRewrite w
    else
      { s with
        rewrite := some w
        dies := s.dies.mapIdx (fun n (d : Die) => if dies.contains n then { d with homeMap := [] } else d) }

/-- R398: firmware rewrites the region table; it refuses a table under R396, and one rewrite runs at a time. -/
def execRegionTableRewrite (entries : List RegionEntry) (s : State) : Outcome :=
  if 1024 < entries.length ∨ entries.any regionRefused ∨ regionsOverlap entries ∨ s.rewrite.isSome then .next (s.reply (.status false))
  else .next { s with rewrite := some ⟨entries, [], [], [], []⟩ }.finishRewrite

/-! ### Base dies (R399 to R402) -/

/-- The header of a request, of TYPE 1 RD, 2 WR or 3 WRM (R400). -/
def requestHeader (q : BaseRequest) (type : Nat) : Dword := dword (type % 16 * 2 ^ 60 + q.tag % 8 * 2 ^ 57 + q.gen % 256 * 2 ^ 49 + q.line % 2 ^ 36 / 128 * 128)

/-- The header of a reply (R400). -/
def BaseReply.header (r : BaseReply) : Dword := dword (r.type % 16 * 2 ^ 60 + r.tag % 8 * 2 ^ 57 + r.status % 8 * 2 ^ 54)

/-- What a line of device memory carries beside its bytes (R393). -/
structure LineMetadata where
  checks : List (BitVec 8)
  marks : BitVec 16
  poison : Bool
  check : Nat
  deriving DecidableEq, Repr

/-- The metadata of a line: its check bits follow its words and marks whenever they are written, and an error is an event of its own (R393, R399, R402, R417). -/
def Memory.metadata (m : Memory) (pa : Nat) : LineMetadata :=
  { checks := (List.range 16).map (fun k => Config.wordCheck (dword (m.num (pa + 8 * k) 8)))
    marks := m.marks pa
    poison := (m.poisonAt 128 pa 128).isSome
    check := Config.lineCheck (m.marks pa) (m.poisonAt 128 pa 128).isSome }

def execRd (q : BaseRequest) (s : State) : Outcome := .next (s.arriveBase 1 q)
def execWr (q : BaseRequest) (s : State) : Outcome := .next (s.arriveBase 2 q)
def execWrm (q : BaseRequest) (s : State) : Outcome := .next (s.arriveBase 3 q)

/-- Whether a flight is the first of its line that its base die has not refused: requests for one line are served in order (R401). -/
def BaseDie.firstOfLine (b : BaseDie) (f : BaseFlight) : Bool :=
  f.status == 1 || (b.flights.find? (fun g => g.q.line == f.q.line && g.status == 0)) == some f

/-- The reply to the request of a port and tag: the flight, when it may be served now. -/
def State.replyTo (s : State) (read : Bool) (stack port tag : Nat) : Option BaseFlight :=
  let b := s.base stack
  match b.flights.find? (fun f => f.q.port == port && f.q.tag == tag) with
  | some f => if (f.kind == 1) = read ∧ b.firstOfLine f then some f else none
  | none => none

/-- The reply to a flight: to a read that is not turned away, what its line held in its place in the order of arrival, and POISON where it was poisoned (R400 to R402). -/
def BaseFlight.answer (f : BaseFlight) : BaseReply :=
  if f.status = 1 then ⟨if f.kind = 1 then 8 else 9, f.q.port, f.q.tag, 1, [], 0, false⟩
  else if f.kind = 1 then ⟨8, f.q.port, f.q.tag, if f.poison then 2 else 0, f.data, f.marks, f.poison⟩
  else ⟨9, f.q.port, f.q.tag, 0, [], 0, false⟩

/-- A base die whose port has a tag free again: the first request that stalls there takes it (R400). -/
def State.unstall (s : State) (port : Nat) (b : BaseDie) : BaseDie :=
  match b.stalled.find? (fun f => f.q.port == port) with
  | some f => s.letsIn { b with stalled := b.stalled.erase f } f
  | none => b

/-- A flight answered; its tag is free again, and a line that was served lies in the LLC (R399, R400). -/
def State.answerFlight (s : State) (stack : Nat) (f : BaseFlight) : State :=
  s.modBase stack (fun b =>
    let b := { b with flights := b.flights.erase f, replied := some f.answer }
    s.unstall f.q.port (if f.status = 1 then b else b.touch (f.q.line / 128)))

/-- The answer to a request: one that is turned away is looked up again by its requester, and a drain may end (R398). -/
def State.serve (s : State) (stack : Nat) (f : BaseFlight) : State :=
  let s := s.answerFlight stack f
  (if f.status = 1 then s.retryGen f else s).finishRewrite

/-- R400 to R402: a read is answered. -/
def execRdr (stack port tag : Nat) (s : State) : Outcome :=
  match s.replyTo true stack port tag with
  | none => .next s
  | some f => .next (s.serve stack f)

/-- R400 to R402: a write has been placed in the LLC. -/
def execWack (stack port tag : Nat) (s : State) : Outcome :=
  match s.replyTo false stack port tag with
  | none => .next s
  | some f => .next (s.serve stack f)

/-- R399: a base die scrubs a line of its stack; single-bit errors are corrected, so no value changes. -/
def execScrub (stack line : Nat) (s : State) : Outcome := .next (s.modBase stack (fun b => { b with scrubbed := risingAdd b.scrubbed line }))

end Sys2Proof.Machine
end

