-- ==== Sys2Proof/Machine/Partition.lean ====
section
/-! DEFINITION. Partitions: their creation and teardown, pre-emption and resume, what firmware sets for them, and the semaphores of the host ports (R185, R201, R202, R208, R295, R312, R320, R369, R373 to R376, R447). -/

namespace Sys2Proof.Machine

/-! ### Cores and dies of a partition -/

/-- A Mint that holds no context: only its coupling store stays as it is, with its tag (R292). -/
def Mint.emptied (m : Mint) : Mint := { Mint.clear with coupling := m.coupling, tag := m.tag }

/-- A core that holds no context: its counters go on, everything else is as a core reset leaves it. -/
def Core.emptied (k : Core) : Core := { Core.reset with clock := k.clock, window := k.window, predictor := k.predictor, mint := k.mint.emptied }

/-- Cluster memories of a die, every byte zero and every word full (R295). -/
def blankClusters : Bank Memory 12 := Bank.all 12 Memory.blank

/-- A die without a partition's context: empty cores, zero memories. -/
def Die.emptied (gids : List Nat) (d : Die) : Die :=
  { d with
    cores := d.cores.map Core.emptied
    cls := blankClusters
    chp := Memory.blank
    commits := d.commits.filter (fun r => !gids.contains r.gid)
    reservations := [] }

/-- The state with some dies changed. -/
def State.modDies (s : State) (dies : List Nat) (f : Die → Die) : State :=
  { s with dies := s.dies.mapIdx (fun n d => if dies.contains n then f d else d) }

/-- The groups of a partition. -/
def State.groupsOf (s : State) (part : Nat) : List Nat := (s.groups.filter (fun g => g.part == part)).map (fun g => g.gid)

/-- Whether a packet between Mints starts or ends on some dies; partners belong to one partition (R291). -/
def ClearPacket.on (p : ClearPacket) (dies : List Nat) : Bool := dies.contains p.fromDie || dies.contains p.toDie

/-! ### The end of a partition (R328, R369) -/

/-- A partition ends: its units, groups, records, levels and waits are gone, its dies are free, and its logs stay readable. -/
def State.endPartition (s : State) (part : Nat) : State :=
  match s.part? part with
  | none => s
  | some p =>
    let gids := s.groupsOf part
    let s := if p.resident then
        { s.modDies (dieList p.dies) (Die.emptied gids) with clearPackets := s.clearPackets.filter (fun x => !x.on (dieList p.dies)) }
      else s
    { s with
      partitions := s.partitions.filter (fun q => q.num != part)
      ended := s.ended ++ [⟨part, p.errorLog, p.levelLog⟩]
      groups := s.groups.filter (fun g => g.part != part)
      units := s.units.filter (fun u => u.part != part)
      queued := s.queued.filter (fun q => q.part != part)
      levels := s.levels.filter (fun l => l.part != part)
      enqueues := s.enqueues.filter (fun e => e.part != part)
      counterAccesses := s.counterAccesses.filter (fun a => a.part != part)
      parks := s.parks.filter (fun e => !gids.contains e.ref.gid)
      remotes := s.remotes.filter (fun e => !gids.contains e.ref.gid)
      barriers := s.barriers.filter (fun b => b.part != part)
      hbarWaiting := s.hbarWaiting.filter (fun w => !gids.contains w.1)
      issuer := match s.issuer with | some w => if gids.contains w.gid then none else some w | none => none }

/-- Partitions being torn down end once no unit of theirs is left (R369). -/
def State.endTorn (s : State) : State :=
  (s.partitions.filter (fun p => p.ending && !s.units.any (fun u => u.part == p.num) && !s.groups.any (fun g => g.part == p.num))).foldl
    (fun s p => s.endPartition p.num) s

/-! ### Creation and teardown (R369, R373, R379) -/

/-- Whether firmware can create a partition: its number is free, its dies are in service and shared with at most one partition of the same dies, and its table area is device memory that no partition uses. -/
def State.canCreate (s : State) (c : PartitionCommand) : Bool :=
  let mates := s.partitions.filter (fun p => p.dies &&& c.dies != 0)
  decide (c.num < 8) && (s.part? c.num).isNone && c.dies != 0 && (dieList c.dies).all (fun n => !(s.die n).inReset)
    && mates.all (fun p => p.dies == c.dies) && decide (mates.length ≤ 1)
    && s.physKind (c.table * 2 ^ 30) == .device && !s.framesUsed.any (fun u => spansMeet (c.table * 2 ^ 30) (2 ^ 30) u.1 u.2)

/-- A partition as created: an empty root table, no work, the defaults of R392, and no peers. -/
def newPartition (c : PartitionCommand) (resident : Bool) : Partition :=
  { num := c.num, dies := c.dies, resident := resident, leaving := false, ptroot := c.table * 2 ^ 30, tableNext := c.table * 2 ^ 30 + 4096,
    tableEnd := (c.table + 1) * 2 ^ 30, walked := [], mapped := [], routines := Bank.all 16 none, thrashN := 4, thrashW := 1000, thrashT := 10000,
    queueCap := c.queueCap, faults := [], nextSeq := 0, ending := false, errorLog := [], levelLog := [], directory := [],
    peers := Bank.all 256 ⟨false, 0, 0, 0⟩, lctl := [], savedCls := (dieList c.dies).map (fun n => (n, blankClusters)),
    savedChp := (dieList c.dies).map (fun n => (n, Memory.blank)), savedCores := [], savedClear := [] }

/-- R373: firmware creates a partition; one that finds its dies taken stands in the vaults. -/
def execPartitionCreate (port : Nat) (c : PartitionCommand) (s : State) : Outcome :=
  s.smivikHeld port 0 (fun s =>
    if s.canCreate c then
      let resident := !s.partitions.any (fun p => p.resident && p.dies &&& c.dies != 0)
      let s := { s with partitions := s.partitions ++ [newPartition c resident], mem := s.mem.zeroSpan 128 (c.table * 2 ^ 30) 4096 }
      let s := if resident then s.modDies (dieList c.dies) (Die.emptied []) else s
      .next (s.reply (.status true))
    else .next (s.reply (.status false)))

/-- R369: a teardown cancels every level with code 5; a partition in the vaults ends at once. -/
def execPartitionTeardown (port part : Nat) (s : State) : Outcome :=
  s.smivikHeld port 0 (fun s =>
    match s.part? part with
    | none => .next (s.reply (.status false))
    | some p =>
      let s := s.cancelWhere (fun q => q.part == part) (fun u => u.part == part && u.groups != 0) 5
      let s := s.modPart part (fun p => { p with ending := true, leaving := false })
      let s := if p.resident then s.endTorn else s.endPartition part
      .next (s.reply (.status true)))

/-! ### Pre-emption (R201, R208, R233, R260, R291, R325, R374) -/

/-- A slice halted for the vault: values on their way arrive, and an open transaction aborts; it waits on for registers that engines owe it (R26, R325). -/
def Slice.halt (sl : Slice) : Slice :=
  let sl := { (sl.owed.foldl Slice.deliver sl) with owed := [] }
  match sl.tx, sl.wait with
  | some _, some (.access a) => { sl.abandon a with wait := none }.abortTx 4 0
  | some _, _ => { sl with wait := none }.abortTx 4 0
  | none, _ => sl

/-- The lines of a page that are in the array written to its backing page, and the page unpinned (R208). -/
def Group.writeBack (g : Group) (page : Nat) : Group :=
  let lines := ((List.range 32).map (fun k => 32 * page + k)).filter (fun l => !g.absent.contains l)
  { g with
    backing := lines.foldl (fun m l => m.movePart g.scr (128 * l) 128) g.backing
    scr := g.scr.eraseSpan 8 (4096 * page) 4096
    absent := (List.range 32).foldl (fun l k => risingAdd l (32 * page + k)) g.absent
    pageState := g.pageState.set page .unpinned }

/-- Whether the SPUNP of a page that is still to be done drops it (R209). -/
def Group.dropping (g : Group) (page : Nat) : Bool :=
  match g.pageState.getD page .pinned with
  | .unpinning drop _ => drop
  | _ => g.unpins.any (fun x => x.1 == page && x.2.1)

/-- A page as the vault takes it: a dropped page's backing page is zero and its lines are not written, every other page's are; an unpin that waits for earlier copies is taken up again after the resume, and then drops what they have landed (R208, R209). -/
def Group.vaultPage (owes : Nat → Bool) (g : Group) (page : Nat) : Group :=
  let away : Group := if g.dropping page then g.unpin page true else g.writeBack page
  match g.pageState.getD page .pinned with
  | .unpinned => g
  | .unpinning drop before => if owes page then { away with unpins := g.unpins ++ [(page, drop, before)] } else g.unpin page drop
  | _ => away

/-- The shadow of a slice halted for the vault: it aborts its transaction where its primary does (R199, R201). -/
def Group.haltPair (g : Group) (i : Nat) : Group :=
  Group.followSlice g { g with slices := g.slices.modify i Slice.halt } i

/-- A group as the vault takes it; its shadows have run until they stand at their primaries' groups, their load-value queues empty (R201). -/
def Group.vault (owes : Nat → Bool) (g : Group) : Group :=
  let g := { (List.range g.slices.length).foldl Group.haltPair g with swapped := true }
  let g := (List.range g.pages).foldl (Group.vaultPage owes) g
  (List.range g.gangs.length).foldl (fun g k => g.divide k) g

/-- The context of a partition taken from its dies. -/
def State.swapOut (s : State) (p : Partition) : State :=
  let dies := dieList p.dies
  let gids := s.groupsOf p.num
  let s := (s.groups.filter (fun g => g.part == p.num)).foldl (fun s g => (List.range g.pages).foldl (fun s page =>
    if g.dropping page then s.dropWakes g page else s) s) s
  let s := (dies.flatMap (fun n => (List.range 96).map (fun c => (⟨n, c⟩ : CoreRef)))).foldl State.haltMint s
  let s := { s with groups := s.groups.map (fun (g : Group) =>
    if g.part = p.num then g.vault (fun page => (s.dieCopies g.die).any (fun c => c.owesPage g.gid page)) else g) }
  let s := s.modPart p.num (fun q =>
    { q with
      resident := false
      leaving := false
      savedCls := dies.map (fun n => (n, (s.die n).cls))
      savedChp := dies.map (fun n => (n, (s.die n).chp))
      savedCores := dies.flatMap (fun n => (s.die n).cores.cells.mapIdx (fun c k => (n, c, k)))
      savedClear := s.clearPackets.filter (fun x => x.on dies) })
  { (s.modDies dies (Die.emptied gids)) with
    clearPackets := s.clearPackets.filter (fun x => !x.on dies)
    issuer := match s.issuer with | some w => if gids.contains w.gid then none else some w | none => none }

/-- Whether a lane of a remote load waits for a page fault at its peer. One that this package serves itself is seen to; what a peer's page faults are, the issuer does not see, so whether its answer is still to come is open (R456, R458; DESIGN CHOICE, log 69). -/
def State.laneParked (s : State) (r : SliceRef) (x : Getr) (i : Nat) : Bool :=
  if x.package = s.package then
    s.parkedPackets.any (fun y => match y.1.payload with | .read _ _ _ q l tag => q == r && l == i && tag == x.tag | _ => false)
  else (Config.openValue s.fresh (2 ^ 66 + 4 * x.tag + i)).getLsbD 0

/-- Whether nothing keeps a group from the vault: every remote load has ended but for lanes with a remote fault, and its shadows have nothing left to go through, with no value on its way to a primary (R26, R201, R458). -/
def State.groupHalted (s : State) (g : Group) : Bool :=
  (g.slices.zipIdx).all (fun x => x.1.getrs.all (fun y => y.left.lanes.all (s.laneParked ⟨g.gid, x.2⟩ y)))
    && (!g.shadow || (g.slices.all (fun sl => sl.owed.isEmpty) && (g.trail.zipIdx).all (fun x => (x.1.ripe (g.trail.take x.2)).isNone)))

/-- Whether every group of a partition stands ready for the vault. -/
def State.partHalted (s : State) (part : Nat) : Bool := s.groups.all (fun g => g.part != part || s.groupHalted g)

/-- Partitions being pre-empted are exchanged once their groups stand ready for the vault (R374). -/
def State.finishSwaps (s : State) : State :=
  (s.partitions.filter (fun p => p.leaving)).foldl (fun s p => if s.partHalted p.num then s.swapOut p else s) s

/-- R374: firmware pre-empts a resident partition: its slices halt at their instruction-group boundaries, and its context leaves the dies once what completes before the save has completed. -/
def execPreempt (part : Nat) (s : State) : Outcome :=
  match s.part? part with
  | some p =>
    .next (if p.resident && !p.ending && !p.leaving then
        (if s.partHalted part then s.swapOut p else s.modPart part (fun q => { q with leaving := true }))
      else s)
  | none => .next s

/-! ### Resume (R202, R261, R292, R374, R385, R405) -/

/-- A core's context put back: its L1, victims and TLB are empty, its counters go on, and the Mint's coupling store is what the core holds (R292). Lost-locality events counted in the window that the swap interrupts are forgotten: R202 is silent on them (DESIGN CHOICE, log 94). -/
def Core.restored (now saved : Core) : Core :=
  { saved with mint := { saved.mint with coupling := now.mint.coupling, tag := now.mint.tag }, clock := now.clock, window := now.window, windowLost := 0, predictor := now.predictor, pipes := Bank.all 4 Pipe.idle, l1 := [],
               victims := [], tlb := [] }

/-- A group's scratchpad with every page in its place, in the array or in its backing page. -/
def Group.whole (g : Group) : Memory :=
  (List.range g.pages).foldl (fun m p => m.movePart (if g.pageState.getD p .pinned = .unpinned then g.backing else g.scr) (4096 * p) 4096) Memory.blank

/-- A group as it comes back: every gang is dormant, and no slice holds a latch of `TIME`. -/
def Group.resumed (g : Group) : Group :=
  { g with
    swapped := false
    gangs := g.gangs.map (fun (k : Gang) => { k with active := false, waits := [], waitSince := none })
    slices := g.slices.map (fun (sl : Slice) => { sl with latch := none }) }

/-- The lease control value of a partition for a core, where the host has set one. -/
def Partition.lctlAt (p : Partition) (die core : Nat) : Option (Nat × Nat) :=
  (p.lctl.find? (fun x => x.1 == die && x.2.1 == core)).map (fun x => x.2.2)

/-- A core with a lease control value. -/
def Core.withLctl (x : Option (Nat × Nat)) (k : Core) : Core := match x with | some v => { k with lfact := v.1, lthresh := v.2 } | none => k

/-- A die with a partition's saved context. -/
def Partition.restoreDie (p : Partition) (n : Nat) (d : Die) : Die :=
  { d with
    cls := ((p.savedCls.find? (fun x => x.1 == n)).map Prod.snd).getD blankClusters
    chp := ((p.savedChp.find? (fun x => x.1 == n)).map Prod.snd).getD Memory.blank
    cores := d.cores.mapIdx (fun c k =>
      match p.savedCores.find? (fun (x : Nat × Nat × Core) => x.1 == n && x.2.1 == c) with
      | some x => Core.restored k x.2.2
      | none => Core.withLctl (p.lctlAt n c) (Core.emptied k)) }

/-- The engines of a core read their sources again (R261, R292). -/
def State.rereadCore (s : State) (c : CoreRef) : State :=
  (s.modCore c (fun k => { k with matrix := k.matrix.reread (fun gid => (s.group gid).whole) })).rereadMint c

/-- The context of a partition put back on its dies. -/
def State.swapIn (s : State) (p : Partition) : State :=
  let dies := dieList p.dies
  let s := { s with
    dies := s.dies.mapIdx (fun n d => if dies.contains n then p.restoreDie n d else d)
    groups := s.groups.map (fun (g : Group) => if g.part = p.num then g.resumed else g)
    clearPackets := s.clearPackets ++ p.savedClear }
  let s := s.modPart p.num (fun q => { q with resident := true, savedCls := [], savedChp := [], savedCores := [], savedClear := [] })
  let s := (dies.flatMap (fun n => (List.range 96).map (fun c => (⟨n, c⟩ : CoreRef)))).foldl State.rereadCore s
  (s.groupsOf p.num).foldl State.refillWanted s

/-- R374: firmware restores a partition whose dies are free. -/
def execResume (part : Nat) (s : State) : Outcome :=
  match s.part? part with
  | some p =>
    .next (if p.resident || s.partitions.any (fun q => q.resident && q.dies &&& p.dies != 0) || (dieList p.dies).any (fun n => (s.die n).inReset) then s
      else s.swapIn p)
  | none => .next s

/-! ### What firmware sets at the host's request -/

/-- R320: a routine slot loaded; a body that R321 does not accept is refused. -/
def execRoutineSlotLoad (port part slot : Nat) (body : List Word) (s : State) : Outcome :=
  s.smivikHeld port 2 (fun s =>
    if (s.part? part).isSome ∧ slot < 16 ∧ routineAccepted body then
      .next ((s.modPart part (fun p => { p with routines := p.routines.set slot (some body) })).reply (.status true))
    else .next (s.reply (.status false)))

/-- LFACT and LTHRESH after a write of `LCTL` (R185). -/
def lctlAfter (value : Word) (old : Nat × Nat) : Nat × Nat :=
  let f := bits value.toNat 25 16
  (if f = 0 ∨ 1000 < f then old.1 else f, bits value.toNat 15 0)

/-- R185: a partition's value of a core's lease control register: the core's own while the partition is resident, else that of the saved context, which the vault brings back. -/
def execLctlWrite (part : Nat) (at_ : CoreRef) (value : Word) (s : State) : Outcome :=
  s.smivik (fun s =>
    match s.part? part with
    | none => .next (s.reply (.status false))
    | some p =>
      if !p.dies.getLsbD at_.die then .next (s.reply (.status false))
      else
        let here (x : Nat × Nat × Core) : Bool := x.1 == at_.die && x.2.1 == at_.core
        let old := if p.resident then ((s.core at_).lfact, (s.core at_).lthresh)
          else match p.savedCores.find? here with
            | some x => (x.2.2.lfact, x.2.2.lthresh)
            | none => (p.lctlAt at_.die at_.core).getD (Core.reset.lfact, Core.reset.lthresh)
        let v := lctlAfter value old
        let s := s.modPart part (fun p =>
          { p with
            lctl := (at_.die, at_.core, v.1, v.2) :: p.lctl.filter (fun x => !(x.1 == at_.die && x.2.1 == at_.core))
            savedCores := p.savedCores.map (fun (x : Nat × Nat × Core) => if here x then (x.1, x.2.1, Core.withLctl (some v) x.2.2) else x) })
        .next ((if p.resident then s.modCore at_ (Core.withLctl (some v)) else s).reply (.status true)))

/-- Whether the fields of a fabric peer entry fit: a 12-bit package id and a partition number 0 to 7 (R447). -/
def peerFits (e : PeerEntry) : Bool := decide (e.package < 4096) && decide (e.part < 8)

/-- R447: a fabric peer entry; one whose fields do not fit is refused. -/
def execPeerTableWrite (part index : Nat) (entry : PeerEntry) (s : State) : Outcome :=
  s.smivik (fun s =>
    if (s.part? part).isSome ∧ index < 256 ∧ peerFits entry = true then
      .next ((s.modPart part (fun p => { p with peers := p.peers.set index entry })).reply (.status true))
    else .next (s.reply (.status false)))

/-! ### Semaphores and registers of the host ports (R11, R376) -/

/-- R376: ACQ written by some ports in one control-die cycle, or asked by the firmware. -/
def execAcq (ports : List Nat) (sem : Nat) (s : State) : Outcome := .next (s.acquireSem (ports.filter s.portServes) sem)

/-- R376: REL by a port, or by the firmware. -/
def execRel (port sem : Nat) (s : State) : Outcome := s.viaPort port (fun s => .next (s.releaseSem port sem))

/-- R376: a port's link resets: its semaphores are free. -/
def execPortLinkReset (port : Nat) (s : State) : Outcome :=
  .next { s with sems := s.sems.map (fun (h : Nat) => if h = port + 1 then 0 else h) }

/-- R11: a 32-bit write of a port to its management block. -/
def execRegisterWrite (port offset : Nat) (value : Word) (s : State) : Outcome := s.viaPort port (fun s => .next (s.barWrite port offset value))

end Sys2Proof.Machine
end

