-- ==== Sys2Proof/Machine/Dies.lean ====
section
/-! DEFINITION. Dies between instructions: time, errors and their containment, die resets, power and heat (R328, R403 to R407, R412 to R418, R426 to R429). -/

namespace Sys2Proof.Machine

/-! ### Time (R403, R404, R406) -/

/-- The global time estimate of a die under a pair of `TOFS` and `TRATE` (R404). -/
def globalTime (time tofs trate : Dword) : Dword := tofs + dword (time.toNat * trate.toNat / 2 ^ 40)

/-- `TRATE` of one nanosecond for each nanosecond (R403). -/
def unitRate : Dword := 0x10000000000

/-- How far a die's estimate is from `die0`'s `TIME`. -/
def State.timeGap (s : State) (g : Dword) : Nat := min (g - (s.die 0).time).toNat ((s.die 0).time - g).toNat

/-- Whether a `TRATE` is the ratio of two references within 50 parts in a million of 1 GHz, so that a die's estimate goes as `die0`'s `TIME` may (R403, R407). -/
def rateFits (trate : Dword) : Bool :=
  decide (trate.toNat * 999950 ≤ 2 ^ 40 * 1000050) && decide (2 ^ 40 * 999950 ≤ trate.toNat * 1000050)

/-- R406, R407: firmware refreshes a die's pair. It chooses one under which the estimate does not decrease, rises by at most 4 ns, and is within 50 ns of `die0`'s `TIME`, or no farther from it than before where the two have parted, at a rate that the two references may have (DEDUCED, log 78). `die0` keeps its constants (R403). -/
def execTimeRefresh (die : Nat) (tofs trate : Dword) (s : State) : Outcome :=
  let d := s.die die
  let was := globalTime d.time d.tofs d.trate
  let g := globalTime d.time tofs trate
  let near := decide (s.timeGap g ≤ max 50 (s.timeGap was)) && rateFits trate
  .next (if die ≠ 0 ∧ near = true ∧ (g - was).toNat ≤ 4 then s.modDie die (fun d => { d with tofs := tofs, trate := trate }) else s)

/-! ### The network of a die (R465) -/

/-- A stop of a die's network: a core, an L2 slice, a controller of the chip scratchpad, the barrier unit, or a UCIe port (R465). -/
inductive Stop where
  | core (n : Nat)
  | l2 (n : Nat)
  | chp (n : Nat)
  | barrier
  | ucie (n : Nat)
  deriving DecidableEq, Repr

/-- A number for each stop of a die, which has 96 cores, 48 L2 slices and 16 controllers. -/
def stopNumber : Stop → Nat
  | .core n => n
  | .l2 n => 96 + n
  | .chp n => 144 + n
  | .barrier => 160
  | .ucie n => 161 + n

/-- The hops between two stops, as the topology table of every die lists them: at most 11 (R465). Bounds on time alone count them (log 4). -/
def hopCount (x y : Stop) : Nat := if x = y then 0 else min 11 (Config.topology (stopNumber x) (stopNumber y))

/-! ### The error log (R417) -/

/-- One entry written into the error log of the first of some partitions, or, where the error lies in none, into the device's own (DESIGN CHOICE, log 41). Errors in storage are logged with cause 0, contained errors with their trap cause. -/
def State.logEntry (s : State) (parts : List Nat) (cause : Nat) (site : Option ErrorSite) : State :=
  match parts with
  | p :: _ => s.modPart p (fun p => { p with errorLog := p.errorLog ++ [⟨cause, site⟩] })
  | [] => { s with deviceLog := s.deviceLog ++ [⟨cause, site⟩] }

/-- An uncorrectable error or a containment logged, with the interrupt toward the host (R417). -/
def State.logErrors (s : State) (parts : List Nat) (cause : Nat) (site : Option ErrorSite) : State :=
  { s.logEntry parts cause site with msix := s.msix + 1 }

/-- The partitions whose dies include a die, the resident one first. -/
def State.partsOn (s : State) (die : Nat) : List Nat :=
  let on := s.partitions.filter (fun p => p.dies.getLsbD die)
  ((on.filter (fun p => p.resident)) ++ (on.filter (fun p => !p.resident))).map (fun p => p.num)

/-- The partition resident on a die. -/
def State.partOn (s : State) (die : Nat) : List Nat := ((s.residentOn die).map (fun p => p.num)).toList

/-- The partitions that map a physical address. -/
def State.partsMapping (s : State) (pa : Nat) : List Nat :=
  (s.partitions.filter (fun p => p.mapped.any (fun m => decide (m.frame ≤ pa) && decide (pa < m.frame + m.bytes))
    || p.directory.any (fun d => (d.devFrame.toList ++ d.hostFrame.toList).any (fun f => decide (f ≤ pa) && decide (pa < f + 4096))))).map (fun p => p.num)

/-! ### Die reset (R328) -/

/-- A die that has been reset and is back in service: it keeps nothing (R328) but its clock step and what `THRSTAT` reports, whose reset is control-die reset (R429). The firmware that brings it back sets its `TOFS` so that its estimate is what `die0`'s `TIME` is, whose value is given (DESIGN CHOICE, log 78). -/
def Die.reset (now : Dword) (d : Die) : Die :=
  { Die.held with inReset := false, tofs := now, step := d.step, temp := d.temp, thermal := d.thermal, power := d.power, capped := d.capped }

/-- R328: a die resets. Unless the reset is planned, every line whose current copy was dirty in its L2, or in the L1 of a core of it that owned the line, is poisoned; the partitions that hold its context end. -/
def State.resetDie (s : State) (die : Nat) (planned : Bool) : State :=
  let owned := s.dies.cells.flatMap (fun d => (d.owned.filter (fun o => o.2 / 96 == die)).map Prod.fst)
  let dirty := if planned then [] else ((s.die die).l2.filter (fun x => x.dirty)).map L2Line.line ++ owned
  let s := (s.partsOn die).foldl State.endPartition s
  let s := { s with mem := dirty.foldl (fun m l => m.addPoison 128 (128 * l) 1) s.mem }
  let s := { s with dies := s.dies.map (fun (d : Die) => { d with owned := d.owned.filter (fun o => o.2 / 96 != die) }) }
  s.modDie die (Die.reset (if die = 0 then 0 else (s.die 0).time))

def execDieReset (die : Nat) (planned : Bool) (s : State) : Outcome := .next (if (s.die die).inReset then s else s.resetDie die planned)

/-! ### A package reset (R416, R419, R427) -/

/-- Rows with sixteen corrected errors within 24 hours, spared at the next control-die reset (R417). -/
def BaseDie.worn (b : BaseDie) : List Nat :=
  let rows := (b.rowErrors.map Prod.fst).eraseDups
  rows.filter (fun r =>
    let ts := (b.rowErrors.filter (fun x => x.1 == r)).map Prod.snd
    (List.range ts.length).any (fun i => match ts[i]?, ts[i + 15]? with | some t, some u => decide (u ≤ t + 24 * 3600 * 10 ^ 9) | _, _ => false))

/-- A base die after a control-die reset: its worn rows are spared. -/
def BaseDie.rebooted (b : BaseDie) : BaseDie :=
  let rows := b.worn
  { BaseDie.start with
    spared := b.spared ++ rows
    rowErrors := b.rowErrors.filter (fun x => !rows.contains x.1)
    corrected := b.corrected }

/-- The device at a control-die reset: flash, fuses and keys stay, and so do memory, until the firmware clears it, and what the host has been told (R419, R424). -/
def State.rebooted (s : State) : State :=
  { State.reset with
    mem := s.mem
    flashA := s.flashA
    flashB := s.flashB
    preferB := s.preferB
    pendingCommit := s.pendingCommit
    flashEvents := s.flashEvents
    rollback := s.rollback
    revoked := s.revoked
    keyHashes := s.keyHashes
    deviceSecret := s.deviceSecret
    identitySeed := s.identitySeed
    serial := s.serial
    package := s.package
    bases := s.bases.map BaseDie.rebooted
    now := s.now
    nanos := s.nanos
    replies := s.replies
    msix := s.msix
    deviceLog := s.deviceLog
    agenda := s.agenda
    asks := s.asks
    fresh := s.fresh }

/-- The package resets, and both ports report a fatal error (R416, R427). -/
def State.packageReset (s : State) : State := (s.rebooted.reply .fatal).reply .fatal

/-! ### Uncorrectable errors (R412, R413, R416) -/

/-- A mark with no origin on a register lane. -/
def Slice.poisonReg (sl : Slice) (spec lane : Nat) : Slice :=
  if spec < 128 then { sl with v := sl.v.modify spec (fun (r : VReg) => { r with poison := r.poison.set lane (some 0) }) }
  else { sl with s := sl.s.modify (spec - 128) (fun (r : SReg) => { r with poison := some 0 }) }

/-- A slice of a unit that is cancelled for an error in control state: cause 0x18 with `XINFO`[1] set, never delivered (R416). -/
def State.containSlice (s : State) (r : SliceRef) : State :=
  let sl := s.slice r
  ((s.leaveSlots r).modSlice r (fun sl => sl.record ⟨0x18, Config.openValue s.fresh (r.gid * 128 + r.idx), sl.active, 2⟩ sl.pc false)).cancelBy r 0x18 |>.divide r.gid (if sl.ended then 0 else r.idx / (s.group r.gid).gangSize)

/-- Firmware resets a core: every slice on it ends with its unit cancelled, and its engines are empty (R416). -/
def State.containCore (s : State) (c : CoreRef) : State :=
  let refs := (s.resident c).flatMap (fun g => (List.range g.slices.length).map (fun i => (⟨g.gid, i⟩ : SliceRef)))
  let s := refs.foldl (fun s r => if (s.slice r).ended then s.cancelUnit (s.group r.gid).uid 0x18 else s.containSlice r) s
  (s.unsubscribe c).modCore c (fun k => { Core.reset with clock := 0, nextAge := k.nextAge })

/-- A word of a group's scratchpad poisoned in the array, or the line of its backing page in HBM (R412). -/
def Group.poisonScr (g : Group) (off : Nat) : Group :=
  if g.absent.contains (off / 128) then { g with backing := g.backing.addPoison 8 (off / 128 * 128) 128 } else { g with scr := g.scr.addPoison 8 off 1 }

/-- An entry under parity dropped, and fetched again from its source: at its next use, or at once by the engines of a core (R412). -/
def State.dropEntry (s : State) : ParityEntry → State
  | .l1 c line => s.modCore c (fun k => { k with l1 := k.l1.filter (fun x => x.line != line) })
  | .tlb c part vpage => s.modCore c (fun k => { k with tlb := k.tlb.filter (fun t => !(t.part == part && t.vpage == vpage)) })
  | .walk part entry => s.modPart part (fun p => { p with walked := p.walked.filter (fun a => a != entry) })
  | .panel c start => s.modCore c (fun k => { k with matrix := k.matrix.rereadPanels (fun p => p.start == start) (fun gid => (s.group gid).whole) })
  | .stage c x => s.modCore c (fun k => { k with matrix := k.matrix.rereadStages (fun y => y == x) (fun gid => (s.group gid).whole) })
  | .store c => (s.modMint c (fun m => { m with coupling := none, tag := none })).rereadMint c

/-- The dies on whose cores an entry under parity lies, or the partition of a walk cache. -/
def State.parityParts (s : State) : ParityEntry → List Nat
  | .l1 c _ | .tlb c _ _ | .panel c _ | .stage c _ | .store c => s.partOn c.die
  | .walk part _ => [part]

/-- R416: an uncorrectable error marks the storage it strikes, or is contained at the narrowest level. -/
def State.strike (s : State) (site : ErrorSite) : State :=
  match site with
  | .memory pa => { s.logErrors (s.partsMapping pa) 0 (some site) with mem := s.mem.addPoison 128 pa 1 }
  | .scr gid off => (s.logErrors [(s.group gid).part] 0 (some site)).modGroup gid (fun g => g.poisonScr off)
  | .cls die cl off => (s.logErrors (s.partOn die) 0 (some site)).modDie die (fun d => { d with cls := d.cls.modify cl (fun (m : Memory) => m.addPoison 8 off 1) })
  | .chp die off => (s.logErrors (s.partOn die) 0 (some site)).modDie die (fun d => { d with chp := d.chp.addPoison 8 off 1 })
  | .laneStore r lane off =>
    (s.logErrors [(s.group r.gid).part] 0 (some site)).modSlice r (fun sl => { sl with store := sl.store.set lane ((sl.store.get lane).addPoison 8 off 1) })
  | .register r spec lane => (s.logErrors [(s.group r.gid).part] 0 (some site)).modSlice r (fun sl => sl.poisonReg spec lane)
  | .tile c t row col =>
    (s.logErrors (s.partOn c.die) 0 (some site)).modCore c (fun k =>
      { k with matrix := { k.matrix with
          tilePoison := (t, 32 * row + col, 0) :: k.matrix.tilePoison.filter (fun x => !(x.1 == t && x.2.1 == 32 * row + col)) } })
  | .coins c n => (s.logErrors (s.partOn c.die) 0 (some site)).modMint c (fun m => { m with poisoned := risingAdd m.poisoned n })
  | .parity e => (s.logErrors (s.parityParts e) 0 (some site)).dropEntry e
  | .sliceControl r => (s.logErrors [(s.group r.gid).part] 0x18 (some site)).containSlice r
  | .coreShared c => (s.logErrors (s.partOn c.die) 0x18 (some site)).containCore c
  | .dieShared die => (s.logErrors (s.partsOn die) 0x18 (some site)).resetDie die false
  | .controlDie => (s.logErrors [] 0x18 (some site)).packageReset

def execUncorrectableError (site : ErrorSite) (s : State) : Outcome := .next (s.strike site)

/-! ### Corrected errors (R412, R417) -/

/-- R412: a corrected error is counted. Units 0 to 7 are the compute dies, 8 to 23 the base dies; a base die counts its rows, too. -/
def execCorrectedError (unit structure_ row : Nat) (s : State) : Outcome :=
  .next (if unit < 8 then s.modDie unit (fun d => { d with corrected := d.corrected ++ [(structure_, s.nanos)] })
    else s.modBase (unit - 8) (fun b => { b with corrected := b.corrected ++ [(structure_, s.nanos)], rowErrors := b.rowErrors ++ [(row, s.nanos)] }))

/-- Structures whose count has risen by 256 within an hour. -/
def risen (now : Nat) (l : List (Nat × Nat)) : List Nat :=
  ((l.map Prod.fst).eraseDups).filter (fun k => decide (256 ≤ (l.filter (fun x => x.1 == k && decide (now ≤ x.2 + 3600 * 10 ^ 9))).length))

/-- The counts after a poll: those logged start again. -/
def polled (now : Nat) (l : List (Nat × Nat)) : List (Nat × Nat) := l.filter (fun x => !(risen now l).contains x.1)

/-- R417: the control die reads the counts, and logs each structure whose count has risen by 256 within one hour. -/
def execErrorCountPoll (s : State) : Outcome :=
  let dies := (s.dies.zipIdx).flatMap (fun d => (risen s.nanos d.1.corrected).map (fun _ => s.partsOn d.2))
  let bases := (s.bases.zipIdx).flatMap (fun b => (risen s.nanos b.1.corrected).map (fun _ => ([] : List Nat)))
  let t := (dies ++ bases).foldl (fun (s : State) parts => s.logEntry parts 0 none) s
  .next { t with
    dies := t.dies.map (fun (d : Die) => { d with corrected := polled s.nanos d.corrected })
    bases := t.bases.map (fun (b : BaseDie) => { b with corrected := polled s.nanos b.corrected }) }

/-! ### Power and heat (R426 to R429) -/

/-- R426: caps set by ports in one control-die cycle; the lower stands. A cap outside 1,600 W to 3,200 W is refused. -/
def execModuleCap (caps : List (Nat × Nat)) (s : State) : Outcome :=
  s.smivik (fun s =>
    let ok := ((caps.filter (fun x => s.portServes x.1)).map Prod.snd).filter (fun w => decide (1600 ≤ w) && decide (w ≤ 3200))
    match ok with
    | [] => .next (s.reply (.status false))
    | w :: rest => .next ({ s with moduleCap := rest.foldl min w }.reply (.status true)))

/-- A compute die's share of the module cap in milliwatts, in proportion to its budget of 300 W. -/
def State.share (s : State) : Nat := s.moduleCap * 1000 * 300 / 3200

/-- The clock step that follows under power and temperature (R427). -/
def nextStep (step share milliwatts temp : Nat) : Nat :=
  if 110 ≤ temp then 4
  else if 105 ≤ temp then max 4 (step - 1)
  else if share < milliwatts then max 4 (step - 1)
  else if 10 * milliwatts < 9 * share then min 16 (step + 1)
  else step

/-- R427: a die's controller adjusts its step; at 120 °C the package resets. A step below 16 is limited by power while the die's power keeps it from rising, and by a host cap where the cap has lowered the share (R429; the spec does not define the two bits further: DESIGN CHOICE, log 43). -/
def execStepControl (die milliwatts temp : Nat) (s : State) : Outcome :=
  if 120 ≤ temp then .next { s with flashEvents := s.flashEvents + 1 }.packageReset
  else
    .next (s.modDie die (fun d =>
      let step := nextStep d.step s.share milliwatts temp
      let power := decide (temp < 105) && decide (step < 16) && decide (9 * s.share ≤ 10 * milliwatts)
      { d with step := step, temp := temp, thermal := decide (105 ≤ temp), power := power, capped := power && decide (s.moduleCap < 3200) }))

/-- R428: a base die at a temperature. -/
def execBaseDieThermal (stack temp : Nat) (s : State) : Outcome :=
  .next (s.modBase stack (fun b => { b with doubleRefresh := decide (95 ≤ temp), halfBandwidth := decide (105 ≤ temp) }))

end Sys2Proof.Machine
end

