-- ==== Sys2Proof/Machine/Boot.lean ====
section
/-! DEFINITION. Start-up and identity: firmware images, the boot sequence, recovery, firmware update, and attestation (R419 to R425). -/

namespace Sys2Proof.Machine

/-! ### Images (R420) -/

/-- The signed part of an image: header and body. -/
def imageSigned (img : List Byte) : List Byte := img.take (256 + (Config.imageFields img).bodyLength)

/-- The firmware digest of an image. -/
def imageDigestOf (img : List Byte) : List Byte := sha512 (imageSigned img)

/-- The signature of an image. -/
def imageSignature (img : List Byte) : List Byte := (img.drop (256 + (Config.imageFields img).bodyLength)).take 64

/-- The public key of an image at its index KI. -/
def imageKey (img : List Byte) : List Byte := (Config.imageFields img).keys.getD (Config.imageFields img).key []

/-- The code of `BOOTSTAT`.ERR under which an image is refused, 0 when it is accepted (R420, R421). -/
def State.imageError (s : State) (img : List Byte) : Nat :=
  let f := Config.imageFields img
  if img.length < 256 + f.bodyLength + 64 ∨ !edVerify (imageKey img) (imageDigestOf img) (imageSignature img) then 1
  else if 4 ≤ f.key ∨ sha512 (imageKey img) ≠ s.keyHashes.getD f.key [] ∨ s.revoked.getLsbD f.key then 2
  else if f.svn < s.rollback then 3
  else 0

/-- The image of a flash slot. -/
def State.slotImage (s : State) (b : Bool) : Option (List Byte) := ((if b then s.flashB else s.flashA)).map (fun x => x.image)

/-- The error of a slot: an empty one fails its signature. -/
def State.slotError (s : State) (b : Bool) : Nat := match s.slotImage b with | some img => s.imageError img | none => 1

/-! ### The boot sequence (R419, R421, R423, R424) -/

/-- `BOOTSTAT` from its fields. -/
def bootstatOf (ready recov slotB : Bool) (dies : BitVec 8) (stage err : Nat) : Word :=
  let b (x : Bool) (k : Nat) : Nat := if x then 2 ^ k else 0
  word (b ready 31 + b recov 30 + b slotB 29 + dies.toNat * 2 ^ 16 + stage * 2 ^ 8 + err)

/-- Recovery mode after a stage has failed. -/
def State.recover (s : State) (slotB : Bool) (stage err : Nat) : State := { s with bootstat := bootstatOf false true slotB 0 stage err }

/-- The ROM hands the firmware its attestation seed, and the fuses are locked (R424). -/
def State.runImage (s : State) (img : List Byte) : State :=
  { s with
    attestationSeed := some ((sha512 (s.deviceSecret ++ imageDigestOf img)).take 32)
    fusesLocked := true
    imageDigest := imageDigestOf img
    imageSvn := (Config.imageFields img).svn }

/-- A host range as the table takes it: port 0 with home die 0, port 1 with home die 4 (R396). -/
def hostRegion (e : RegionEntry) : RegionEntry := { e with kind := 1, hdie := if e.port = 0 then 0 else 4, stackMask := 0, sofs := 0 }

/-- Stages 3 to 6 with the image of a slot (R419). The base dies leave their reset in stage 3; the routine slots that stage 4 reloads are those of partitions, of which there is none yet. -/
def State.startDevice (s : State) (slotB : Bool) (boot : BootOutcome) : State :=
  if !boot.hbm then s.recover slotB 3 4
  else
    let s := { s with
      mem := s.mem.eraseSpan 128 0 (2 ^ 40)
      bases := s.bases.map (fun (b : BaseDie) => { b with up := true })
      dies := s.dies.mapIdx (fun n (d : Die) => { d with inReset := !boot.dies.getLsbD n }) }
    if !boot.ucie then { s.recover slotB 4 5 with bootstat := bootstatOf false true slotB boot.dies 4 5 }
    else if !boot.region then { s with bootstat := bootstatOf false true slotB boot.dies 4 6 }
    else
      { s with
        regions := s.regions ++ (boot.hostRanges.filter (fun e => boot.ports.getLsbD e.port)).map hostRegion
        portsUp := boot.ports
        bootstat := bootstatOf true false slotB boot.dies 6 0 }

/-- The slots in the order in which the ROM tries them: the preferred one first (R419, R423). -/
def State.slotOrder (s : State) : List Bool := [s.preferB, !s.preferB]

/-- The first acceptable slot is run. An uncommitted image that does not reach READY is abandoned, and the other slot boots, with hardware tests of its own (R423). -/
def State.boot (s : State) (boot : BootOutcome) : State :=
  let go (b : Bool) (boot : BootOutcome) : State := (s.runImage ((s.slotImage b).getD [])).startDevice b boot
  match s.slotOrder.find? (fun b => s.slotError b == 0) with
  | none => s.recover false 2 (s.slotError (!s.preferB))
  | some b =>
    let t := go b boot
    if t.bootReady ∨ s.pendingCommit = none ∨ b ≠ s.preferB then
      (if b = s.preferB ∨ s.pendingCommit = none then t else { t with pendingCommit := none, preferB := b })
    else
      let u := if s.slotError (!b) = 0 then go (!b) (Config.bootOutcome (2 * s.fresh + 1)) else t
      { u with preferB := !b, pendingCommit := none }

/-- R419: a control-die reset and the boot that follows. -/
def execControlDieReset (boot : BootOutcome) (s : State) : Outcome := .next (s.rebooted.boot boot)

/-- R422: in recovery mode a host that holds `SEM1` boots the image of the mailbox: it is written to slot A, and the control die resets. -/
def execRecoveryBoot (port : Nat) (s : State) : Outcome :=
  if !s.bootstat.getLsbD 30 ∨ !s.holds port 1 ∨ s.imageError s.mailbox ≠ 0 then .next (s.reply (.status false))
  else .next { (s.reply (.status true)).rebooted with flashA := some ⟨s.mailbox⟩, preferB := false, pendingCommit := none }

/-! ### Firmware update (R423) -/

/-- `BOOTSTAT`.SLOTB. -/
def State.runsB (s : State) : Bool := s.bootstat.getLsbD 29

/-- R423: an image written to the slot that does not run; once verified it is preferred. -/
def execFirmwareUpdate (port : Nat) (image : List Byte) (s : State) : Outcome :=
  s.smivikHeld port 1 (fun s =>
    let b := !s.runsB
    let s := if b then { s with flashB := some ⟨image⟩ } else { s with flashA := some ⟨image⟩ }
    if s.imageError image = 0 then
      .next ({ s with preferB := b, pendingCommit := some (Config.imageFields image).svn }.reply (.status true))
    else .next (({ s with preferB := s.runsB, pendingCommit := none }).reply (.status false)))

/-- R423: COMMIT advances the rollback counter to the SVN of an updated image that has reached READY. -/
def execFirmwareCommit (port : Nat) (s : State) : Outcome :=
  s.viaPort port (fun s => s.smivik (fun s =>
    match s.pendingCommit with
    | some svn =>
      if s.runsB = s.preferB ∧ port < 2 then .next ({ s with rollback := min 64 (max s.rollback svn), pendingCommit := none }.reply (.status true))
      else .next (s.reply (.status false))
    | none => .next (s.reply (.status false))))

/-! ### Identity and attestation (R424, R425) -/

/-- A number in bytes, its length before it. -/
def numberBytes (n : Nat) : List Byte := toBytes 8 (n.log2 / 8 + 1) ++ toBytes (n.log2 / 8 + 1) n

/-- The bytes of the partition tables, from the tables' numbers: R425 does not lay them out, and all that the model fixes is that different tables give different bytes (DESIGN CHOICE, log 10). -/
def tableBytes (t : List (List Nat)) : List Byte :=
  let bs := t.flatMap (fun row => numberBytes row.length ++ row.flatMap numberBytes)
  (bs.zipIdx).map (fun x => x.1 ^^^ Config.tableMask bs.length x.2)

/-- The numbers of a memory: its bytes, its empty words and its poison. -/
def Memory.numbers (m : Memory) : List Nat := m.bytes.flatMap (fun c => [c.1, c.2.toNat]) ++ [m.empties.length] ++ m.empties ++ m.poison

/-- The numbers of a level object. -/
def Level.numbers (l : Level) : List Nat :=
  [l.key.level, l.key.job, l.key.phase, l.key.graph, l.key.launch, l.count, l.errors, l.firstCause.getD 256, if l.dyn then 1 else 0,
    (l.bitmap.map (fun b => b.toNat)).getD (2 ^ 64), l.blk.toNat]
    ++ (match l.token with | some t => [t.die, if t.black then 1 else 0, if t.waiters then 1 else 0, if t.host then 1 else 0] | none => [])

/-- The numbers of a queued record. -/
def Queued.numbers (q : Queued) : List Nat :=
  [q.die, q.record.levels.toNat, q.record.code.toNat, q.record.frame.toNat, q.record.join.toNat, q.record.completion.toNat, q.record.shape.toNat,
    q.record.placement.toNat, q.record.arg.toNat, q.order, if q.armed then 1 else 0, q.stamp, q.pops, q.priority, (q.bitmap.map (fun b => b.toNat)).getD (2 ^ 64),
    q.firstArg.toNat, if q.launchUnit then 1 else 0, q.launchSerial]

/-- The numbers of an entry of a park list. -/
def ParkEntry.numbers (e : ParkEntry) : List Nat := [e.ref.gid, e.ref.idx, e.lane, e.space.ctorIdx, e.home, e.word, if e.wantsFull then 1 else 0, e.stamp]

/-- What firmware keeps of a partition besides its areas. -/
def Partition.numbers (p : Partition) : List Nat :=
  [p.num, p.dies.toNat, if p.resident then 1 else 0, p.ptroot, p.tableEnd, p.thrashN, p.thrashW, p.thrashT, p.queueCap]
    ++ p.routines.cells.flatMap (fun r => match r with | some ws => ws.length :: ws.map (fun w => w.toNat) | none => [0])
    ++ p.peers.cells.flatMap (fun e => [if e.valid then 1 else 0, e.package, e.part, e.job])
    ++ p.lctl.flatMap (fun x => [x.1, x.2.1, x.2.2.1, x.2.2.2])

/-- The tables of a partition: what firmware keeps of it, its queue and park areas, its scratch, cluster and chip backing areas, and its level objects (R373). Each row begins with its kind. -/
def State.tablesOf (s : State) (p : Partition) : List (List Nat) :=
  let gs := s.groups.filter (fun g => g.part == p.num)
  (0 :: p.numbers) :: (s.queued.filter (fun q => q.part == p.num)).map (fun q => 1 :: q.numbers)
    ++ (s.parks.filter (fun e => gs.any (fun g => g.gid == e.ref.gid))).map (fun e => 2 :: e.numbers)
    ++ gs.map (fun g => 3 :: g.gid :: g.backing.numbers)
    ++ p.savedCls.flatMap (fun x => (x.2.cells.zipIdx).map (fun y => 4 :: x.1 :: y.2 :: y.1.numbers)) ++ p.savedChp.map (fun x => 5 :: x.1 :: x.2.numbers)
    ++ (s.levels.filter (fun l => l.part == p.num)).map (fun l => 6 :: l.numbers)

/-- The public half of the device identity key. -/
def State.identityKey (s : State) : List Byte := edPublic s.identitySeed

/-- The identity key's signature over the attestation key with the firmware's digest and SVN (R424). -/
def State.attestationCertificate (s : State) : List Byte :=
  edSign s.identitySeed (edPublic (s.attestationSeed.getD []) ++ s.imageDigest ++ toBytes 8 s.imageSvn)

/-- The ordering code of the device: 2 for the XF-P8, 3 for the XF-M8 (R2, R425). -/
def orderingCode : Nat := if Config.isModule then 3 else 2

/-- The Varlia certificate that flash holds: it certifies the identity key and names the serial number and the ordering code (R2, R424). -/
def State.varliaCertificate (s : State) : List Byte := Config.varliaCertificate s.identityKey s.serial orderingCode

/-- The first 240 bytes of a report (R425). -/
def State.reportBody (s : State) (nonce : List Byte) : List Byte :=
  toBytes 4 1 ++ toBytes 4 orderingCode ++ toBytes 8 s.bootstat.toNat ++ s.serial ++ toBytes 8 s.imageSvn ++ toBytes 8 (s.die 0).time.toNat ++ s.imageDigest
    ++ sha512 (tableBytes (s.partitions.flatMap s.tablesOf)) ++ nonce ++ edPublic (s.attestationSeed.getD [])

/-- R425: a report over a 32-byte nonce, signed by the attestation key. -/
def execAttestationReport (port : Nat) (nonce : List Byte) (s : State) : Outcome :=
  s.viaPort port (fun s => s.smivik (fun s =>
    if nonce.length ≠ 32 ∨ 2 ≤ port then .next (s.reply (.status false))
    else
      let body := s.reportBody nonce
      .next (s.reply (.report (body ++ edSign (s.attestationSeed.getD []) body)))))

/-! ### What the host reads (R11, R360, R407, R417, R424) -/

/-- The error log that a host reads: a partition's, resident or ended, or the device's own. -/
def State.errorLogOf (s : State) : Option Nat → List ErrorLogEntry
  | none => s.deviceLog
  | some n => match s.part? n with
    | some p => p.errorLog
    | none => match s.ended.find? (fun e => e.num == n) with | some e => e.errorLog | none => []

/-- The level log of a partition, resident or ended. -/
def State.levelLogOf (s : State) (n : Nat) : List LevelLogEntry :=
  match s.part? n with
  | some p => p.levelLog
  | none => match s.ended.find? (fun e => e.num == n) with | some e => e.levelLog | none => []

/-- The answer to a read through Smivik; before READY there is none but that the device is not ready (R421). -/
def State.smivikAnswer (s : State) (x : HostReply) : HostReply := if s.bootReady then x else .notReady

/-- The answer to a read of the host; where the spec places no register in BAR0 the value is free. -/
def State.answerTo (s : State) : HostRead → HostReply
  | .register _ offset => .register ((s.barRead offset).getD ((Config.openValue s.fresh (2 ^ 54 + offset)).extractLsb' 0 32))
  | .errorEntry part k => s.smivikAnswer (.error ((s.errorLogOf part)[k]?))
  | .levelEntry part k => s.smivikAnswer (.level ((s.levelLogOf part)[k]?))
  | .time => s.smivikAnswer (.time (s.die 0).time)
  | .varliaCertificate => s.smivikAnswer (.report s.varliaCertificate)
  | .attestationCertificate => s.smivikAnswer (.report s.attestationCertificate)

/-- The port that a read comes from, where it names one. -/
def HostRead.port : HostRead → Nat
  | .register port _ => port
  | _ => 2

/-- A read of the host is answered; a port that is down carries none. The opcode table has no event for these reads, so that they stand in a list of their own (State.asks; DESIGN CHOICE, log 3). -/
def State.serveRead (s : State) (x : HostRead) : State := (if s.portServes x.port then s.reply (s.answerTo x) else s).tick

end Sys2Proof.Machine
end

