-- ==== Sys2Proof/Machine/Fabric.lean ====
section
/-! DEFINITION. The fabric and the host links: `PUTS`, `GETR` and `SIGW`, packets at their source and destination, links, routes, the die-to-die links, and the hosts' accesses to device memory (R447 to R461, R411). -/

namespace Sys2Proof.Machine

/-! ### Paths and links (R448, R451) -/

/-- Link `n`. -/
def State.link (s : State) (n : Nat) : Link := s.links.getD n Link.down

/-- The state with a link changed. -/
def State.modLink (s : State) (n : Nat) (f : Link → Link) : State := { s with links := s.links.modify n f }

/-- The bytes that a packet carries. -/
def payloadBytes : Payload → Nat
  | .write _ _ data _ => data.length
  | .reply _ _ _ data _ _ => data.length
  | _ => 8

/-- The flits of a packet, 240 bytes of payload each (R448). -/
def payloadFlits (x : Payload) : Nat := max 1 ((payloadBytes x + 239) / 240)

/-- A link has room for flits: it carries traffic and its replay buffer of 512 would not overflow (R448). -/
def Link.room (k : Link) (n : Nat) : Bool := k.up && decide (k.replay.length + n ≤ 512)

/-- Flits put on a link and into its replay buffer. -/
def Link.push (k : Link) (n : Nat) : Link :=
  { k with replay := k.replay ++ (List.range n).map (fun i => (k.nextSeq + i) % 1024), nextSeq := (k.nextSeq + n) % 1024 }

/-- The path that a packet takes, with the link it leaves on; another than the one before where there is one. -/
def State.pathFor (s : State) (k : Kept) (old : Option (List (Nat × Nat))) : Option (List (Nat × Nat) × Nat) :=
  let ok := (s.pathsTo k.packet.dst).filterMap (fun p => match s.firstLink p with
    | some l => if (s.link l).room (payloadFlits k.packet.payload) then some (p, l) else none
    | none => none)
  match ok.find? (fun x => some x.1 != old) with
  | some x => some x
  | none => ok.head?

/-- The state with a kept packet changed. -/
def State.modKept (s : State) (dst seq : Nat) (f : Kept → Kept) : State :=
  { s with kept := s.kept.map (fun (k : Kept) => if k.packet.dst = dst ∧ k.packet.seq = seq then f k else k) }

/-- A kept packet put on the first link of a path, when one has room. -/
def State.transmit (s : State) (k : Kept) (old : Option (List (Nat × Nat))) : State :=
  match s.pathFor k old with
  | some (p, l) =>
    (s.modLink l (fun x => x.push (payloadFlits k.packet.payload))).modKept k.packet.dst k.packet.seq (fun k => { k with path := some p, since := s.nanos })
  | none => s

/-- Kept packets that no link has taken yet are sent. -/
def State.transmitAll (s : State) : State :=
  (s.kept.filter (fun k => k.path.isNone && k.packet.dst != s.package)).foldl (fun s k => s.transmit k none) s

/-- A kept packet. -/
def State.kept? (s : State) (dst seq : Nat) : Option Kept := s.kept.find? (fun k => k.packet.dst == dst && k.packet.seq == seq)

/-- A kept packet let go. -/
def State.unkeep (s : State) (dst seq : Nat) : State :=
  { s with kept := s.kept.filter (fun k => !(k.packet.dst == dst && k.packet.seq == seq)) }

/-! ### The issue checks (R454) -/

/-- The job id of a group's unit. -/
def jobOf (c : Ctx) (s : State) : Nat := ((recordAt c s).key 4).job

/-- Check 1 of R454: the peer entry is valid and of the unit's job. -/
def peerCheck (c : Ctx) (s : State) (p : Nat) (eff : Mask) : PeerEntry ⊕ Trap :=
  let e := s.peer (s.group c.ref.gid).part p
  if e.valid && e.job == jobOf c s then .inl e else .inr ⟨0x09, 0, eff, 9⟩

/-- The first trap of a list of checks. -/
def firstTrap (l : List (Option Trap)) : Option Trap := l.findSome? id

/-! ### PUTS at its source (R455, R456) -/

/-- A peer's package and partition as a copy names them. -/
def peerCode (e : PeerEntry) : Nat := e.package * 8 + e.part

/-- The bytes of one packet's data (R451). -/
def packetBytes : Nat := 4096

/-- Data packets of a `PUTS`. -/
def Copy.packets (c : Copy) : Nat := (c.total + packetBytes - 1) / packetBytes

/-- Packets of a `PUTS`, its signal among them. -/
def Copy.messages (c : Copy) : Nat := c.packets + match c.kind with | .puts _ _ (some _) _ => 1 | _ => 0

/-- PUTS: the checks of R454, then the post. -/
def actPuts (c : Ctx) (s : State) : State × Fate :=
  let f := WForm.field c.g.w
  let g := s.group c.ref.gid
  let len := uni c s c.g.w.b.toNat
  let dst := uniPair c s c.g.w.d.toNat
  let sp := spaceOf (f 60 58)
  let src := if f 60 58 = 0 then uniPair c s c.g.w.a.toNat else dword (uni c s c.g.w.a.toNat)
  let dec := match f 63 62 with | 0 => none | 1 => some 1 | _ => some len
  let counter := if f 63 62 = 0 then 0 else uniPair c s c.g.w.c.toNat
  match peerCheck c s (f 57 50) c.eff with
  | .inr t => (s, .trap t)
  | .inl e =>
    let traps : List (Option Trap) := [
      (if sp = .glb then none else (firstOutside g sp src.toNat len).map (fun a => (⟨0x0A, dword a, c.eff, word sp.code⟩ : Trap))),
      (if sp = .glb then (firstOutside g .glb src.toNat (max 1 len)).map (fun a => (⟨0x09, dword a, c.eff, 1⟩ : Trap)) else none),
      (firstOutside g .glb dst.toNat (max 1 len)).map (fun a => (⟨0x09, dword a, c.eff, 1⟩ : Trap)),
      (if canonical counter then none else some ⟨0x09, counter, c.eff, 1⟩),
      (if counter.toNat % 8 = 0 then none else some ⟨0x07, counter, c.eff, 8⟩)]
    match firstTrap traps with
    | some t => (s, .trap t)
    | none =>
      s.postCopy c { Copy.posted c s (.puts (peerCode e) (f 61 61 == 1) dec counter) with
        dsp := .glb, ssp := sp, dst := dst, src := src, rowLen := len, rows := if len = 0 then 0 else 1, scope := c.g.pfx.scope 5 }

/-- A copy of a core, or of a core's context in the vaults. -/
def State.copyAt? (s : State) (at_ : CoreRef) (id : Nat) : Option Copy :=
  match (s.core at_).copy? id with
  | some c => some c
  | none => s.partitions.findSome? (fun p => p.savedCores.findSome? (fun x => if x.1 = at_.die ∧ x.2.1 = at_.core then x.2.2.copy? id else none))

/-- The copies of a core, running or in the vaults, changed. -/
def State.mapCopies (s : State) (at_ : CoreRef) (f : List Copy → List Copy) : State :=
  let s := s.modCore at_ (fun k => { k with copies := f k.copies })
  { s with partitions := s.partitions.map (fun (p : Partition) => { p with savedCores := p.savedCores.map (fun (x : Nat × Nat × Core) =>
      if x.1 = at_.die ∧ x.2.1 = at_.core then (x.1, x.2.1, { x.2.2 with copies := f x.2.2.copies }) else x) }) }

/-- A `PUTS` ended by a remote failure: its signal is not applied, and its issuer is told (R456). -/
def State.failPuts (s : State) (at_ : CoreRef) (id : Nat) (a : Dword) : State :=
  match s.copyAt? at_ id with
  | none => s
  | some c => (s.mapCopies at_ (fun l => l.filter (fun x => x.id != id))).addReport c (c.report (some (a, 1)) false 0)

/-- A message of a `PUTS` acknowledged; the batch finishes with its last (R455). -/
def State.ackPuts (s : State) (at_ : CoreRef) (id n : Nat) : State :=
  match s.copyAt? at_ id with
  | none => s
  | some c =>
    let c := { c with landed := if c.landed.contains n then c.landed else c.landed ++ [n] }
    s.mapCopies at_ (fun l => if c.landed.length = c.messages then l.filter (fun x => x.id != id) else l.map (fun (x : Copy) => if x.id = id then c else x))

/-- Whether an ordered `PUTS` must wait for an earlier one of its slice to its peer, which has messages not yet sent (R456). -/
def State.putsWaits (s : State) (at_ : CoreRef) (c : Copy) : Bool :=
  match c.kind with
  | .puts peer true _ _ =>
    (s.core at_).copies.any (fun x => decide (x.id < c.id) && x.gid == c.gid && x.idx == c.idx && decide (x.first < x.messages)
      && (match x.kind with | .puts q true _ _ => q == peer | _ => false))
  | _ => false

/-- The next message of a `PUTS` is sent: a packet of its data, or its signal once every packet is performed and, where it is a release, the host ports have given back the lines written before (R451, R455, R456, R461). -/
def State.sendPuts (s : State) (at_ : CoreRef) (c : Copy) : Outcome :=
  match c.kind with
  | .puts peer ordered dec counter =>
    let dst := peer / 8
    let ref := some (at_.die, at_.core, c.id)
    let counted (s : State) : State := s.modCopy at_ c.id (fun c => { c with first := c.first + 1 })
    if c.block.isSome || decide (c.messages ≤ c.first) || s.streamFull dst || s.putsWaits at_ c then .next s
    else if c.first = c.packets then
      if !s.reachable dst then .next (s.failPuts at_ c.id counter)
      else if c.landed.length < c.packets ∨ (c.release ∧ s.backInvalidates ≠ []) then .next s
      else .next (counted (s.send dst ordered (.signal (peer % 8) counter (dec.getD 0)) ref))
    else
      let off := c.first * packetBytes
      let n := min packetBytes (c.total - off)
      if !s.reachable dst then .next (s.failPuts at_ c.id (c.dst + dword off))
      else
        match s.copyWaits c c.gid (if c.ssp = .scr then scrLines (c.src.toNat + off) n else []) true with
        | (s, true) => .next s
        | (s, false) =>
          match s.sidePlaces c c.ssp (c.src.toNat + off) n needRead 0 with
          | (s, .inr e) => .next (s.stopCopy at_ c e.1 e.2 0)
          | (s, .inl ps) =>
            let rd := s.readPlaces ps
            .next (counted (s.send dst ordered (.write (peer % 8) (c.dst + dword off) rd.1 rd.2) ref))
  | _ => .next s

/-- R206, R224, R300, R455: a piece of a copy lands, a multicast accepts or serves a receiver, or a `PUTS` sends its next message. -/
def execCopyLineLands (at_ : CoreRef) (id piece : Nat) (s : State) : Outcome :=
  match (s.core at_).copy? id with
  | none => .next s
  | some c =>
    match c.kind with
    | .mcast => .next (s.landMcast at_ c piece)
    | .puts _ _ _ _ => s.sendPuts at_ c
    | _ => s.landPiece at_ c piece

/-! ### GETR (R455, R456) -/

/-- The state with a remote load changed. -/
def State.modGetr (s : State) (r : SliceRef) (tag : Nat) (f : Getr → Getr) : State :=
  s.modSlice r (fun sl => { sl with getrs := sl.getrs.map (fun (x : Getr) => if x.tag = tag then f x else x) })

/-- A lane of a remote load has failed. -/
def Getr.failLane (x : Getr) (i : Nat) : Getr :=
  { x with left := x.left &&& ~~~(Mask.one i), failed := x.failed ||| Mask.one i, unsent := x.unsent &&& ~~~(Mask.one i) }

/-- The bytes of a lane of a remote load. -/
def Getr.bytes (x : Getr) : Nat := 4 * x.regs

/-- A lane's read sent, failed where no path reaches the peer, or left to wait for room in the stream. -/
def State.sendLane (s : State) (r : SliceRef) (x : Getr) (i : Nat) : State :=
  if !s.reachable x.package then s.modGetr r x.tag (fun x => x.failLane i)
  else if s.streamFull x.package then s
  else
    (s.send x.package false (.read x.part (x.addrs.get i) x.bytes r i x.tag) none).modGetr r x.tag (fun x => { x with unsent := x.unsent &&& ~~~(Mask.one i) })

/-- The unsent lanes of a remote load are sent. -/
def State.sendGetr (s : State) (r : SliceRef) (x : Getr) : State := x.unsent.lanes.foldl (fun s i => s.sendLane r x i) s

/-- GETR: the checks of R454; the destination is set empty and the reads leave. -/
def actGetr (c : Ctx) (s : State) : State × Fate :=
  let f := WForm.field c.g.w
  let sl := s.slice c.ref
  let n := if f 58 58 = 1 then 8 else 4
  let ea : Lanes Dword := Lanes.ofFn (fun i => joinWords (sl.reg c.g.w.a.toNat i) (sl.reg (c.g.w.a.toNat + 1) i))
  let bad (p : Dword → Bool) : Mask := c.eff &&& Mask.ofFn (fun i => p (ea.get i))
  let out := bad (fun a => !canonical a)
  let mis := bad (fun a => a.toNat % n != 0)
  match peerCheck c s (f 57 50) c.eff with
  | .inr t => (s, .trap t)
  | .inl e =>
    if out ≠ 0 then (s, .trap ⟨0x09, ea.get (lowestLane out), out, 1⟩)
    else if mis ≠ 0 then (s, .trap ⟨0x07, ea.get (lowestLane mis), mis, word n⟩)
    else
      let d := c.g.w.d.toNat
      let x : Getr :=
        { tag := s.nextCopy, dst := d, regs := n / 4, eff := c.eff, package := e.package, part := e.part, addrs := ea, left := c.eff, failed := 0,
          unsent := c.eff, got := [], acquire := c.g.pfx.order 0 % 2 == 1, scope := c.g.pfx.scope 5, pc := c.g.addr }
      let s := { s with nextCopy := s.nextCopy + 1 }
      let s := s.modSlice c.ref (fun sl => { (sl.makeEmptyN d x.regs c.eff) with getrs := sl.getrs ++ [x] })
      (s.sendGetr c.ref x, .next)

/-- A lane's answer reaches its slice. -/
def State.answerLane (s : State) (r : SliceRef) (i tag : Nat) (data : List Byte) (poison ok : Bool) : State :=
  s.modGetr r tag (fun x =>
    if !x.left.getLsbD i then x
    else if !ok then x.failLane i
    else
      let n := fromBytes data
      let mark := if poison then some (originOf .glb (x.addrs.get i)) else none
      { x with left := x.left &&& ~~~(Mask.one i), got := x.got ++ [⟨x.dst, x.regs, i, (List.range x.regs).map (fun k => word (n / 2 ^ (32 * k))), mark⟩] })

/-- The values of a remote load in lane order, so that an `s` register takes the highest lane's (R18). -/
def Getr.ordered (x : Getr) : List Owed := (List.range 4).flatMap (fun i => x.got.filter (fun o => o.lane == i))

/-- A remote load whose lanes are all answered ends: its values arrive, an acquire is performed; with a failed lane its destination is full with its old values and the slice, which has issued no later group, takes the protection trap at the `GETR` in a subgang of its own (R22, R25, R133, R141, R456). -/
def State.endGetr (s : State) (r : SliceRef) (x : Getr) : State :=
  let gone (sl : Slice) : Slice := { sl with getrs := sl.getrs.filter (fun y => y.tag != x.tag) }
  if x.left ≠ 0 then s
  else if x.failed = 0 then
    let s := s.modSlice r (fun sl => gone (x.ordered.foldl Slice.deliver sl))
    if x.acquire then s.acquire (s.group r.gid).coreRef x.scope else s
  else
    let s := s.modSlice r (fun sl => { gone (sl.makeFullN x.dst x.regs x.eff) with sub := loneLabel r.idx })
    s.resume r x.pc x.pc (.trap ⟨0x09, x.addrs.get (lowestLane x.failed), x.failed, 10⟩)

/-! ### SIGW (R455, R456) -/

/-- Whether a counter's value satisfies a target. -/
def sigwMet (eq : Bool) (target : Dword) (v : Nat) : Bool := if eq then dword v == target else decide ((dword v).toInt ≤ target.toInt)

/-- SIGW: over once the counter satisfies its target, an acquire at system scope. -/
def State.trySigw (s : State) (r : SliceRef) (a : Dword) (eq : Bool) (target : Dword) (d : Option Nat) (eff : Mask) : Option (State × Fate) :=
  match s.watch r a eff with
  | (s, .inl (v, p)) =>
    if sigwMet eq target v then
      let s := match d with
        | some d => s.modSlice r (fun sl => (sl.setLanesP d eff (Lanes.all (word v)) (Lanes.all p)).setLanesP (d + 1) eff (Lanes.all (word (v / 2 ^ 32))) (Lanes.all p))
        | none => s
      some (s.acquire (s.group r.gid).coreRef 5, .next)
    else none
  | (s, .inr f) => some (s, f)

def actSigw (c : Ctx) (s : State) : State × Fate :=
  let a := uniPair c s c.g.w.a.toNat
  let eq := WForm.field c.g.w 50 50 == 1
  let target := sext64 32 (uni c s c.g.w.b.toNat)
  let d := if c.g.w.d = 0 then none else some c.g.w.d.toNat
  if !canonical a then (s, .trap ⟨0x09, a, c.eff, 1⟩)
  else if a.toNat % 8 ≠ 0 then (s, .trap ⟨0x07, a, c.eff, 8⟩)
  else match s.trySigw c.ref a eq target d c.eff with
    | some x => x
    | none => parkOrCancel c s (.sigw a eq target d c.eff c.g.next)

def execPuts (p : List Prefix) (w : WForm) (s : State) : Outcome := issueEach 0xE0 true p w actPuts s
def execGetr (p : List Prefix) (w : WForm) (s : State) : Outcome := issueEach 0xE1 true p w actGetr s
def execSigw (p : List Prefix) (w : WForm) (s : State) : Outcome := issueEach 0xE2 true p w actSigw s

/-! ### Acknowledgements at the source (R451, R455, R456) -/

/-- The message number of a packet in its `PUTS`. -/
def payloadMessage (c : Copy) : Payload → Nat
  | .write _ va _ _ => (va - c.dst).toNat / packetBytes
  | _ => c.packets

/-- The remote address of a packet. -/
def payloadAddress : Payload → Dword
  | .write _ va _ _ => va
  | .signal _ va _ => va
  | .read _ va _ _ _ _ => va
  | _ => 0

/-- What a kept packet serves is told that it has been performed, or has failed. -/
def State.acknowledge (s : State) (k : Kept) (failed : Bool) : State :=
  match k.copy with
  | some (die, core, id) =>
    let at_ : CoreRef := ⟨die, core⟩
    if failed then s.failPuts at_ id (payloadAddress k.packet.payload)
    else
      match s.copyAt? at_ id with
      | some c => s.ackPuts at_ id (payloadMessage c k.packet.payload)
      | none => s
  | none =>
    match k.packet.payload with
    | .read _ _ _ r i tag => if failed then s.answerLane r i tag [] false false else s
    | _ => s

/-- R451: the end-to-end acknowledgement of a packet. -/
def execPacketAcknowledged (dst seq : Nat) (failed : Bool) (s : State) : Outcome :=
  match s.kept? dst seq with
  | some k => .next ((s.unkeep dst seq).acknowledge k failed)
  | none => .next s

/-- R451: a packet unacknowledged for 200 µs is sent again on another path. -/
def execPacketRetransmit (dst seq : Nat) (s : State) : Outcome :=
  match s.kept? dst seq with
  | some k => .next (if k.since + 200000 ≤ s.nanos then s.transmit k k.path else s)
  | none => .next s

/-- Packets waiting for a package that no path reaches end what they serve; barrier messages stay (R451, R456, R459). -/
def State.dropUnreachable (s : State) : State :=
  let lost := s.kept.filter (fun k => !s.reachable k.packet.dst && (match k.packet.payload with | .barrier _ | .barrierDone _ _ => false | _ => true))
  lost.foldl (fun s k => (s.unkeep k.packet.dst k.packet.seq).acknowledge k true) s

/-- Packets whose path is gone, to be sent again on another. -/
def State.repath (s : State) (gone : Kept → List (Nat × Nat) → Bool) : State :=
  { s with kept := s.kept.map (fun (k : Kept) => if k.path.any (gone k) then { k with path := none } else k) }

/-- R451: the control dies give new routes; packets whose path has lost a link, of this package or of another, are sent again. -/
def execRouteRecompute (routes : List RouteEntry) (s : State) : Outcome :=
  let s := { s with routes := routes.map (fun (r : RouteEntry) => { r with paths := r.paths.take 4 }) }
  .next ((s.repath (fun k p => !(s.pathsTo k.packet.dst).contains p || (s.firstLink p).any (fun l => (s.link l).fail))).dropUnreachable).transmitAll

/-! ### Packets at their destination (R451, R452, R455, R458, R459) -/

/-- What performing a packet comes to. -/
inductive Performed where
  | done
  | failed
  | parked (b : Block)
  deriving DecidableEq, Repr

/-- The place of a remote access, translated at the control die in the peer's address space. -/
def State.remotePlaces (s : State) (part : Nat) (va : Dword) (n : Nat) (need : Need) (kind : Nat) : State × (List (Nat × Nat) ⊕ Performed) :=
  if (s.part? part).isNone ∨ (firstOutside Group.vacant .glb va.toNat n).isSome then (s, .inr .failed)
  else
    match s.engineSpan controlDie part 0 va need kind (n + 1) n with
    | (s, .inl ps) => (s, .inl ps)
    | (s, .inr (_, .fault seq)) => (s, .inr (.parked (.fault seq)))
    | (s, .inr (_, .migrate p n)) => (s, .inr (.parked (.migration p n)))
    | (s, .inr _) => (s, .inr .failed)

/-- Bytes written at physical pieces in order, each with its poison mark, for the slice that issued them where it runs on this package; full/empty bits stay (R329, R413, R455). -/
def State.writePieces (s : State) (by_ : Option SliceRef) : List (Nat × Nat) → List (Byte × Bool) → State
  | [], _ => s
  | (pa, n) :: rest, xs => (s.writeMarked by_ (s.glbPlace pa) (xs.take n)).writePieces by_ rest (xs.drop n)

/-- The slice whose `PUTS` a loopback packet carries (R329, R447). -/
def State.putsOf (s : State) (p : Packet) : Option SliceRef :=
  if p.src ≠ s.package then none
  else (s.kept? p.dst p.seq).bind (fun k => k.copy.bind (fun x => (s.copyAt? ⟨x.1, x.2.1⟩ x.2.2).map (fun c => ⟨c.gid, c.idx⟩)))

/-- A reply to a read, handed over at once in a loopback. -/
def State.sendReply (s : State) (src : Nat) (r : SliceRef) (i tag : Nat) (data : List Byte) (poison ok : Bool) : State :=
  if src = s.package then s.answerLane r i tag data poison ok else s.send src false (.reply r i tag data poison ok) none

/-- A packet performed. A signal is a release at system scope, so it waits until the host ports have given back the lines written before it (R456, R461); a read waits for room for its answer (R452). -/
def State.perform (s : State) (p : Packet) : State × Performed :=
  match p.payload with
  | .write part va data marks =>
    match s.remotePlaces part va data.length needWrite 1 with
    | (s, .inl ps) => (s.writePieces (s.putsOf p) ps (data.zip marks), .done)
    | (s, .inr e) => (s, e)
  | .signal part va n =>
    if s.backInvalidates ≠ [] then (s, .parked (.hosts s.backInvalidates))
    else
    match s.remotePlaces part va 8 needBoth 1 with
    | (s, .inl ((pa, _) :: _)) => (s.writePlace (s.putsOf p) (s.glbPlace pa) (toBytes 8 ((s.numPhys pa + 2 ^ 64 - n % 2 ^ 64) % 2 ^ 64)) false, .done)
    | (s, .inl []) => (s, .failed)
    | (s, .inr e) => (s, e)
  | .read part va n r i tag =>
    if p.src ≠ s.package ∧ s.streamFull p.src then (s, .parked (.room p.src))
    else
    match s.remotePlaces part va n needRead 0 with
    | (s, .inl ps) => (s.sendReply p.src r i tag (s.piecesBytes ps) (ps.any (fun x => (s.mem.poisonAt 128 x.1 x.2).isSome)) true, .done)
    | (s, .inr .failed) => (s.sendReply p.src r i tag [] false false, .done)
    | (s, .inr e) => (s, e)
  | .reply r i tag data poison ok => (s.answerLane r i tag data poison ok, .done)
  | .barrier m => ({ s with jobMessages := s.jobMessages ++ [m] }, .done)
  | .barrierDone gids misuse => (s.jobAnswer gids misuse, .done)

/-- A packet performed and, in a loopback, acknowledged; a page fault parks it (R456). -/
def State.receive (s : State) (p : Packet) : State :=
  let ack (s : State) (failed : Bool) : State :=
    if p.src = s.package then (match s.kept? p.dst p.seq with | some k => (s.unkeep p.dst p.seq).acknowledge k failed | none => s) else s
  match s.perform p with
  | (s, .done) => ack s false
  | (s, .failed) => ack s true
  | (s, .parked b) => { s with parkedPackets := s.parkedPackets ++ [(p, b)] }

/-- The stream from a package. -/
def State.inflowOf (s : State) (src : Nat) : Inflow := (s.inflow.find? (fun x => x.src == src)).getD ⟨src, 0, [], []⟩

/-- The state with a stream replaced. -/
def State.setInflow (s : State) (x : Inflow) : State := { s with inflow := x :: s.inflow.filter (fun y => y.src != x.src) }

/-- How far a number lies before another in a stream, modulo 2^32. -/
def seqBehind (n seq : Nat) : Nat := (n + 2 ^ 32 - seq % 2 ^ 32) % 2 ^ 32

/-- Whether a stream has accepted a number. -/
def Inflow.has (x : Inflow) (seq : Nat) : Bool := x.accepted.contains seq || (decide (1 ≤ seqBehind x.next seq) && decide (seqBehind x.next seq ≤ 2 ^ 31))

/-- A stream whose next number moves past those accepted. -/
def Inflow.advance : Nat → Inflow → Inflow
  | 0, x => x
  | n + 1, x => if x.accepted.contains x.next then Inflow.advance n { x with next := (x.next + 1) % 2 ^ 32, accepted := x.accepted.filter (· != x.next) } else x

/-- The first ordered packet of a stream whose predecessors have all been accepted. -/
def Inflow.due (x : Inflow) : Option Packet :=
  (x.reorder.filter (fun p => decide (1 ≤ seqBehind x.next p.seq) && decide (seqBehind x.next p.seq ≤ 2 ^ 31))).foldl (fun (best : Option Packet) p =>
    match best with
    | some b => if seqBehind x.next b.seq < seqBehind x.next p.seq then some p else some b
    | none => some p) none

/-- Ordered packets of a stream performed in its order, none past one that is parked (R452). -/
def State.drainInflow (s : State) (src : Nat) : Nat → State
  | 0 => s
  | n + 1 =>
    if s.parkedPackets.any (fun x => x.1.src == src && x.1.ordered) then s
    else
      let x := s.inflowOf src
      match x.due with
      | none => s
      | some p => ((s.setInflow { x with reorder := x.reorder.erase p }).receive p).drainInflow src n

/-- A parked packet tried again once its fault is answered; FAIL, and the end of its partition, fail it. -/
def State.retryPacket (s : State) (p : Packet) (b : Block) : State :=
  let part := match p.payload with | .write part _ _ _ | .signal part _ _ | .read part _ _ _ _ _ => part | _ => 0
  let out : State := { s with parkedPackets := s.parkedPackets.filter (fun x => x.1 != p) }
  let fail (s : State) : State :=
    match p.payload with
    | .read _ _ _ r i tag => s.sendReply p.src r i tag [] false false
    | _ => s
  let full : Bool := match p.payload with | .read _ _ _ _ _ _ => p.src != s.package && s.streamFull p.src | _ => false
  if full then s
  else if (s.part? part).isNone || s.failedBlock part b then
    let s := fail out
    if p.src = s.package then (match s.kept? p.dst p.seq with | some k => (s.unkeep p.dst p.seq).acknowledge k true | none => s) else s
  else if s.blockOver part Group.vacant b then out.receive p
  else s

/-- R451, R452: a packet reaches this package: a number accepted before is discarded, an unordered packet is performed, an ordered one in its turn. A parked packet is tried again. -/
def execPacketArrival (p : Packet) (s : State) : Outcome :=
  if p.dst ≠ s.package then .next s
  else
    let drained (s : State) : State := s.drainInflow p.src (s.inflowOf p.src).reorder.length
    match s.parkedPackets.find? (fun x => x.1 == p) with
    | some x => .next (drained (s.retryPacket p x.2))
    | none =>
      let x := s.inflowOf p.src
      if x.has p.seq then .next s
      else
        let y := Inflow.advance (x.accepted.length + 1) { x with accepted := x.accepted ++ [p.seq] }
        if p.ordered then .next (drained (s.setInflow { y with reorder := y.reorder ++ [p] }))
        else .next (drained ((s.setInflow y).receive p))

/-! ### Links (R448 to R450) -/

/-- A link that starts a retrain: it keeps its replay buffer (R449). -/
def Link.retrain (k : Link) : Link := { k with up := false, retr := true, retrains := min 65535 (k.retrains + 1), crcFails := 0, attempts := 0 }

/-- Flits acknowledged leave the replay buffer: those before a number. -/
def Link.acked (k : Link) (ack : Nat) : Link :=
  if k.replay.contains ack then { k with replay := k.replay.dropWhile (· != ack) } else if ack = k.nextSeq then { k with replay := [] } else k

/-- R448, R449: a receiver takes the flit it expects, and discards every other, its acknowledgement with it, and asks for a replay; eight CRC failures in a row start a retrain. -/
def execFlitReceive (link : Nat) (flit : Flit) (s : State) : Outcome :=
  let k := s.link link
  if !k.up then .next s
  else if !flit.crcOk then
    let k := { k with crcFails := k.crcFails + 1, asked := some k.expected }
    .next (s.modLink link (fun _ => if 8 ≤ k.crcFails then k.retrain else k))
  else if flit.seq = k.expected then
    .next (s.modLink link (fun k => { (k.acked flit.ack) with crcFails := 0, asked := none, expected := (k.expected + 1) % 1024 })).transmitAll
  else .next (s.modLink link (fun k => { k with crcFails := 0, asked := some k.expected }))

/-- R449: a link loses lock, or has failed eight times in a row. -/
def execLinkRetrain (link : Nat) (s : State) : Outcome := .next (if (s.link link).up then s.modLink link Link.retrain else s)

/-- R449: the end of an attempt to train a link; the third that fails leaves it failed. -/
def execRetrainComplete (link : Nat) (ok : Bool) (peer : Nat) (s : State) : Outcome :=
  let k := s.link link
  if k.up || k.fail then .next s
  else if ok then .next (s.modLink link (fun k => { k with up := true, retr := false, attempts := 0, peer := peer % 4096 })).transmitAll
  else if k.attempts + 1 < 3 then .next (s.modLink link (fun k => { k with attempts := k.attempts + 1 }))
  else
    let s := s.modLink link (fun k => { k with retr := false, fail := true, attempts := 0 })
    .next (s.repath (fun _ p => s.firstLink p == some link)).transmitAll

/-- R449: Smivik brings a link up that is down; its numbers start again at 0. -/
def execLinkBringUp (link : Nat) (s : State) : Outcome :=
  s.smivik (fun s =>
    let k := s.link link
    if 24 ≤ link ∨ k.up ∨ k.retr then .next (s.reply (.status false))
    else .next ((s.modLink link (fun k => { Link.down with retr := true, peer := k.peer, retrains := k.retrains })).reply (.status true)))

/-! ### Die-to-die links (R411) -/

/-- The number of the link between two compute dies: links 0 to 7 join the dies to the control die, and the pairs of compute dies follow in order. DESIGN CHOICE, log 38. -/
def pairLink (a b : Nat) : Nat :=
  let lo := min a b
  8 + lo * (15 - lo) / 2 + (max a b - lo - 1)

/-- The retraining link that holds a packet between Mints: that between the dies it leaves and enters (R409, R443). -/
def State.heldLink (s : State) (p : ClearPacket) : Option Nat :=
  if p.fromDie ≠ p.toDie ∧ s.ucie.getD (pairLink p.fromDie p.toDie) false then some (pairLink p.fromDie p.toDie) else none

/-- Packets that meet a retraining link are held. -/
def State.holdPackets (s : State) : State :=
  { s with clearPackets := s.clearPackets.map (fun (p : ClearPacket) => if p.heldBy.isSome then p else { p with heldBy := s.heldLink p }) }

/-- R411: a die-to-die link retrains. -/
def execUcieRetrain (link : Nat) (s : State) : Outcome := .next { s with ucie := s.ucie.set link true }.holdPackets

/-- A packet that a link has held goes on. -/
def ClearPacket.freed (link : Nat) (p : ClearPacket) : ClearPacket := if p.heldBy = some link then { p with heldBy := none } else p

/-- R411: the retrain ends, and the packets it held go on, those of partitions in the vaults included (R446). -/
def execUcieRetrainEnd (link : Nat) (s : State) : Outcome :=
  .next { s with
    ucie := s.ucie.set link false
    partitions := s.partitions.map (fun (p : Partition) => { p with savedClear := p.savedClear.map (ClearPacket.freed link) })
    clearPackets := s.clearPackets.map (ClearPacket.freed link) }.holdPackets

/-! ### Host ports (R418, R460, R461) -/

/-- Whether a port carries traffic and a span lies in device memory. -/
def State.hostSpan (s : State) (port pa n : Nat) : Bool :=
  s.portsUp.getLsbD port && decide (port < 2) && (linesOf pa n).all (fun l => s.physKind (l * 128) == .device)

/-- R461: a host reads device memory; its caches may hold the lines, and poison is reported (R418). -/
def execCxlMemRead (port : Nat) (pa : Nat) (bytes : Nat) (s : State) : Outcome :=
  if !s.hostSpan port pa bytes then .next s
  else
    let lines := linesOf pa bytes
    let s := lines.foldl (fun s l => (s.recall (l * 128)).l2Touch (l * 128) .read) s
    let s := { s with hostLines := lines.foldl (fun (h : List (Nat × Nat)) l => if h.contains (port, l) then h else h ++ [(port, l)]) s.hostLines }
    .next (s.reply (.memory (s.mem.bytesAt pa bytes) (s.mem.poisonAt 128 pa bytes).isSome))

/-- R461: a host writes device memory; a poisoned write marks its lines (R418). -/
def execCxlMemWrite (port : Nat) (pa : Nat) (data : List Byte) (poison : Bool) (s : State) : Outcome :=
  if !s.hostSpan port pa data.length then .next s
  else
    let lines := linesOf pa data.length
    .next ({ s with hostLines := s.hostLines.filter (fun h => !(h.1 == port && lines.contains h.2)) }.writePhys none pa data poison)

/-- R460, R461: a host gives back a line that the device asked for. -/
def execBackInvalidateResponse (k : Nat) (s : State) : Outcome := .next { s with backInvalidates := s.backInvalidates.eraseIdx k }

end Sys2Proof.Machine
end

