-- ==== Sys2Proof/Machine/LaneGang.lean ====
section
/-! DEFINITION. Gang operations: exchange, vote and reduction over the present lanes of a gang (R90, R109 to R112). -/

namespace Sys2Proof.Machine

/-- The present lanes of the participating slices: lane index in the gang, the slice and the lane in it, ascending (R109). -/
def presentLanes (cs : List Ctx) : List (Nat × Ctx × Nat) := cs.flatMap (fun c => c.eff.lanes.map (fun i => (c.g0 + i, c, i)))

/-- Every participating slice takes its own part of a result computed from the state before (R109). -/
def gangWrite (put : Ctx → State → State) (cs : List Ctx) (s : State) : Ran :=
  ⟨cs.foldl (fun s c => put c s) s, cs.map (fun c => (c.ref.idx, .next)), .next⟩

/-- The source lane of LXCH (R110). -/
def sourceLane (mode g4 l b : Nat) : Nat :=
  match mode with
  | 0 => b
  | 1 => (l + b) % g4
  | 2 => l ^^^ b
  | _ => g4 - 1 - l

/-- LXCH (R110). -/
def runLxch : Run := fun cs s =>
  let ls := presentLanes cs
  let part (c : Ctx) : Lanes (Nat × Bool) :=
    let n := if WForm.field c.g.w 55 55 = 1 then 2 else 1
    let g4 := 4 * (s.group c.ref.gid).gangSize
    Lanes.ofFn (fun i =>
      let sl := s.slice c.ref
      let src := sourceLane (WForm.field c.g.w 51 50) g4 (c.g0 + i) (opB 1 c sl i)
      match ls.find? (fun l => l.1 == src) with
      | some l => (opA n l.2.1 (s.slice l.2.1.ref) l.2.2, true)
      | none => (opC n c sl i, false))
  let put (c : Ctx) (t : State) : State :=
    let x := part c
    let n := if WForm.field c.g.w 55 55 = 1 then 2 else 1
    let k := WForm.field c.g.w 54 52
    let t := writeLanes n (Lanes.ofFn (fun i => (dword (x.get i).1, 0))) c t
    if k = 0 then t else writeMaskLanes k (fun i => (x.get i).2) c t
  gangWrite put cs s

/-- The vote of POLL over values by lane index, ascending (R111). -/
def pollResult (mode : Nat) (xs : List (Nat × Nat)) : Nat :=
  let mask (f : Nat → Bool) : Nat := ((xs.filter (fun x => f x.2)).map (fun x => 2 ^ x.1)).foldl (· + ·) 0
  match mode with
  | 0 => mask (fun v => v != 0)
  | 1 => (xs.filter (fun x => x.2 != 0)).length
  | 2 => match xs.find? (fun x => x.2 != 0) with
    | some x => x.1
    | none => 0xFFFFFFFF
  | _ => mask (fun v => v == (xs.head?.map Prod.snd).getD 0)

/-- The values of operand a of `n` words in the present lanes. -/
def presentValues (n : Nat) (cs : List Ctx) (s : State) : List (Nat × Nat) :=
  (presentLanes cs).map (fun l => (l.1, opA n l.2.1 (s.slice l.2.1.ref) l.2.2))

/-- POLL (R111). -/
def runPoll : Run := fun cs s =>
  let xs := presentValues 1 cs s
  gangWrite (fun c t => writeLanes 1 (Lanes.all (dword (pollResult (WForm.field c.g.w 51 50) xs), 0)) c t) cs s

/-- One level of the tree of R90: neighbours combined, an absent child leaving the other unchanged. -/
def foldLevel (f : Nat → Nat → Nat × Flags) : List (Option Nat) → List (Option Nat) × Flags
  | x :: y :: rest =>
    let r := foldLevel f rest
    match x, y with
    | some a, some b => (some (f a b).1 :: r.1, (f a b).2 ||| r.2)
    | some a, none => (some a :: r.1, r.2)
    | none, z => (z :: r.1, r.2)
  | l => (l, 0)

/-- The tree of R90 over 32 leaves: the value of its root and the flags raised at its nodes. -/
def foldTree (f : Nat → Nat → Nat × Flags) : Nat → List (Option Nat) → Nat × Flags
  | 0, l => (match l with | some a :: _ => a | _ => 0, 0)
  | n + 1, l =>
    let r := foldLevel f l
    let t := foldTree f n r.1
    (t.1, r.2 ||| t.2)

/-- The operation of GFOLD (R112). -/
def foldOp (op ty a b : Nat) : Nat × Flags :=
  let sg := ty % 2 == 0
  let w := 32 * ityWords ty
  let F := ftyFmt ty
  match op with
  | 0 => (intAdd sg w a b, 0)
  | 1 => (intMin sg w a b, 0)
  | 2 => (intMax sg w a b, 0)
  | 3 => (a &&& b, 0)
  | 4 => (a ||| b, 0)
  | 5 => (a ^^^ b, 0)
  | 6 =>
    let r := deliverFmt F .rne (Num.add .rne (F.decode a) (F.decode b))
    (r.1.toNat, r.2)
  | 7 => chooseFloat F true a b
  | _ => chooseFloat F false a b

/-- GFOLD (R90, R112). -/
def runGfold : Run := fun cs s =>
  match cs with
  | [] => ⟨s, [], .next⟩
  | c0 :: _ =>
    let op := WForm.field c0.g.w 53 50
    let ty := WForm.field c0.g.w 55 54
    let n := if 6 ≤ op then ftyWords ty else ityWords ty
    let xs := presentValues n cs s
    let leaves := (List.range 32).map (fun l => (xs.find? (fun x => x.1 == l)).map Prod.snd)
    let r := foldTree (foldOp op ty) 5 leaves
    gangWrite (fun c t => writeLanes n (Lanes.all (dword r.1, r.2)) c t) cs s

def execLxch (p : List Prefix) (w : WForm) (s : State) : Outcome := issue 0x1C true p w ownNone runLxch s
def execPoll (p : List Prefix) (w : WForm) (s : State) : Outcome := issue 0x1D true p w ownNone runPoll s
def execGfold (p : List Prefix) (w : WForm) (s : State) : Outcome := issue 0x1E true p w ownNone runGfold s

end Sys2Proof.Machine
end

