-- ==== Sys2Proof/Machine/Dispatch.lean ====
section
/-! DEFINITION. The meaning of every instruction and event: one arm per constructor, each a call of that instruction's own definition. -/

namespace Sys2Proof.Machine

/-- The meaning of an instruction or event at a state. -/
def exec (i : Instr) (s : State) : Host.Outcome State Fault Refusal :=
  match i with
  | .nopC p w => Sys2Proof.Machine.execNopC p w s
  | .nop p w => Sys2Proof.Machine.execNop p w s
  | .movC p w => Sys2Proof.Machine.execMovC p w s
  | .mov p w => Sys2Proof.Machine.execMov p w s
  | .sel p w => Sys2Proof.Machine.execSel p w s
  | .iaddC p w => Sys2Proof.Machine.execIaddC p w s
  | .iadd p w => Sys2Proof.Machine.execIadd p w s
  | .isubC p w => Sys2Proof.Machine.execIsubC p w s
  | .isub p w => Sys2Proof.Machine.execIsub p w s
  | .imulC p w => Sys2Proof.Machine.execImulC p w s
  | .imul p w => Sys2Proof.Machine.execImul p w s
  | .imulh p w => Sys2Proof.Machine.execImulh p w s
  | .imad p w => Sys2Proof.Machine.execImad p w s
  | .idiv p w => Sys2Proof.Machine.execIdiv p w s
  | .irem p w => Sys2Proof.Machine.execIrem p w s
  | .iminC p w => Sys2Proof.Machine.execIminC p w s
  | .imin p w => Sys2Proof.Machine.execImin p w s
  | .imaxC p w => Sys2Proof.Machine.execImaxC p w s
  | .imax p w => Sys2Proof.Machine.execImax p w s
  | .iabs p w => Sys2Proof.Machine.execIabs p w s
  | .icmp p w => Sys2Proof.Machine.execIcmp p w s
  | .andC p w => Sys2Proof.Machine.execAndC p w s
  | .and p w => Sys2Proof.Machine.execAnd p w s
  | .orC p w => Sys2Proof.Machine.execOrC p w s
  | .or p w => Sys2Proof.Machine.execOr p w s
  | .xorC p w => Sys2Proof.Machine.execXorC p w s
  | .xor p w => Sys2Proof.Machine.execXor p w s
  | .notC p w => Sys2Proof.Machine.execNotC p w s
  | .not p w => Sys2Proof.Machine.execNot p w s
  | .shlC p w => Sys2Proof.Machine.execShlC p w s
  | .shl p w => Sys2Proof.Machine.execShl p w s
  | .shrC p w => Sys2Proof.Machine.execShrC p w s
  | .shr p w => Sys2Proof.Machine.execShr p w s
  | .sarC p w => Sys2Proof.Machine.execSarC p w s
  | .sar p w => Sys2Proof.Machine.execSar p w s
  | .rot p w => Sys2Proof.Machine.execRot p w s
  | .bfx p w => Sys2Proof.Machine.execBfx p w s
  | .bfi p w => Sys2Proof.Machine.execBfi p w s
  | .popc p w => Sys2Proof.Machine.execPopc p w s
  | .clz p w => Sys2Proof.Machine.execClz p w s
  | .brev p w => Sys2Proof.Machine.execBrev p w s
  | .lea p w => Sys2Proof.Machine.execLea p w s
  | .lxch p w => Sys2Proof.Machine.execLxch p w s
  | .poll p w => Sys2Proof.Machine.execPoll p w s
  | .gfold p w => Sys2Proof.Machine.execGfold p w s
  | .bperm p w => Sys2Proof.Machine.execBperm p w s
  | .faddC p w => Sys2Proof.Machine.execFaddC p w s
  | .fadd p w => Sys2Proof.Machine.execFadd p w s
  | .fsubC p w => Sys2Proof.Machine.execFsubC p w s
  | .fsub p w => Sys2Proof.Machine.execFsub p w s
  | .fmulC p w => Sys2Proof.Machine.execFmulC p w s
  | .fmul p w => Sys2Proof.Machine.execFmul p w s
  | .ffma p w => Sys2Proof.Machine.execFfma p w s
  | .fminC p w => Sys2Proof.Machine.execFminC p w s
  | .fmin p w => Sys2Proof.Machine.execFmin p w s
  | .fmaxC p w => Sys2Proof.Machine.execFmaxC p w s
  | .fmax p w => Sys2Proof.Machine.execFmax p w s
  | .fdiv p w => Sys2Proof.Machine.execFdiv p w s
  | .fsqrt p w => Sys2Proof.Machine.execFsqrt p w s
  | .frcp p w => Sys2Proof.Machine.execFrcp p w s
  | .frsq p w => Sys2Proof.Machine.execFrsq p w s
  | .fexp2 p w => Sys2Proof.Machine.execFexp2 p w s
  | .flog2 p w => Sys2Proof.Machine.execFlog2 p w s
  | .fsin p w => Sys2Proof.Machine.execFsin p w s
  | .fcos p w => Sys2Proof.Machine.execFcos p w s
  | .fcmp p w => Sys2Proof.Machine.execFcmp p w s
  | .fclass p w => Sys2Proof.Machine.execFclass p w s
  | .cvt p w => Sys2Proof.Machine.execCvt p w s
  | .cvtn p w => Sys2Proof.Machine.execCvtn p w s
  | .packbx p w => Sys2Proof.Machine.execPackbx p w s
  | .unpkbx p w => Sys2Proof.Machine.execUnpkbx p w s
  | .frnd p w => Sys2Proof.Machine.execFrnd p w s
  | .fscale p w => Sys2Proof.Machine.execFscale p w s
  | .fdot2 p w => Sys2Proof.Machine.execFdot2 p w s
  | .fdot4 p w => Sys2Proof.Machine.execFdot4 p w s
  | .idot4 p w => Sys2Proof.Machine.execIdot4 p w s
  | .rsplit p w => Sys2Proof.Machine.execRsplit p w s
  | .rnext p w => Sys2Proof.Machine.execRnext p w s
  | .runif p w => Sys2Proof.Machine.execRunif p w s
  | .iaddx p w => Sys2Proof.Machine.execIaddx p w s
  | .bra p w => Sys2Proof.Machine.execBra p w s
  | .brx p w => Sys2Proof.Machine.execBrx p w s
  | .cbr p w => Sys2Proof.Machine.execCbr p w s
  | .call p w => Sys2Proof.Machine.execCall p w s
  | .ret p w => Sys2Proof.Machine.execRet p w s
  | .split p w => Sys2Proof.Machine.execSplit p w s
  | .joinC p w => Sys2Proof.Machine.execJoinC p w s
  | .join p w => Sys2Proof.Machine.execJoin p w s
  | .loop p w => Sys2Proof.Machine.execLoop p w s
  | .part p w => Sys2Proof.Machine.execPart p w s
  | .regang p w => Sys2Proof.Machine.execRegang p w s
  | .elect p w => Sys2Proof.Machine.execElect p w s
  | .exitC p w => Sys2Proof.Machine.execExitC p w s
  | .exit p w => Sys2Proof.Machine.execExit p w s
  | .trap p w => Sys2Proof.Machine.execTrap p w s
  | .bkpt p w => Sys2Proof.Machine.execBkpt p w s
  | .srd p w => Sys2Proof.Machine.execSrd p w s
  | .swr p w => Sys2Proof.Machine.execSwr p w s
  | .setfmt p w => Sys2Proof.Machine.execSetfmt p w s
  | .region p w => Sys2Proof.Machine.execRegion p w s
  | .yieldC p w => Sys2Proof.Machine.execYieldC p w s
  | .yield p w => Sys2Proof.Machine.execYield p w s
  | .lease p w => Sys2Proof.Machine.execLease p w s
  | .leaseq p w => Sys2Proof.Machine.execLeaseq p w s
  | .ld p w => Sys2Proof.Machine.execLd p w s
  | .st p w => Sys2Proof.Machine.execSt p w s
  | .ldw p w => Sys2Proof.Machine.execLdw p w s
  | .ldc p w => Sys2Proof.Machine.execLdc p w s
  | .stf p w => Sys2Proof.Machine.execStf p w s
  | .feq p w => Sys2Proof.Machine.execFeq p w s
  | .feset p w => Sys2Proof.Machine.execFeset p w s
  | .bwin p w => Sys2Proof.Machine.execBwin p w s
  | .bwrel p w => Sys2Proof.Machine.execBwrel p w s
  | .pref p w => Sys2Proof.Machine.execPref p w s
  | .fence p w => Sys2Proof.Machine.execFence p w s
  | .lds p w => Sys2Proof.Machine.execLds p w s
  | .cpy p w => Sys2Proof.Machine.execCpy p w s
  | .cpyg p w => Sys2Proof.Machine.execCpyg p w s
  | .cpyr p w => Sys2Proof.Machine.execCpyr p w s
  | .cseal p w => Sys2Proof.Machine.execCseal p w s
  | .cwait p w => Sys2Proof.Machine.execCwait p w s
  | .qinit p w => Sys2Proof.Machine.execQinit p w s
  | .qpush p w => Sys2Proof.Machine.execQpush p w s
  | .qpop p w => Sys2Proof.Machine.execQpop p w s
  | .qpeek p w => Sys2Proof.Machine.execQpeek p w s
  | .binit p w => Sys2Proof.Machine.execBinit p w s
  | .bexp p w => Sys2Proof.Machine.execBexp p w s
  | .barv p w => Sys2Proof.Machine.execBarv p w s
  | .bwait p w => Sys2Proof.Machine.execBwait p w s
  | .gsyncC p w => Sys2Proof.Machine.execGsyncC p w s
  | .gsync p w => Sys2Proof.Machine.execGsync p w s
  | .sppin p w => Sys2Proof.Machine.execSppin p w s
  | .spunp p w => Sys2Proof.Machine.execSpunp p w s
  | .mcast p w => Sys2Proof.Machine.execMcast p w s
  | .hbar p w => Sys2Proof.Machine.execHbar p w s
  | .mlay p w => Sys2Proof.Machine.execMlay p w s
  | .mldb p w => Sys2Proof.Machine.execMldb p w s
  | .mlda p w => Sys2Proof.Machine.execMlda p w s
  | .mzero p w => Sys2Proof.Machine.execMzero p w s
  | .mma p w => Sys2Proof.Machine.execMma p w s
  | .mmam p w => Sys2Proof.Machine.execMmam p w s
  | .mmask p w => Sys2Proof.Machine.execMmask p w s
  | .mst p w => Sys2Proof.Machine.execMst p w s
  | .mldc p w => Sys2Proof.Machine.execMldc p w s
  | .mtrans p w => Sys2Proof.Machine.execMtrans p w s
  | .mgather p w => Sys2Proof.Machine.execMgather p w s
  | .mbatch p w => Sys2Proof.Machine.execMbatch p w s
  | .mwait p w => Sys2Proof.Machine.execMwait p w s
  | .stc p w => Sys2Proof.Machine.execStc p w s
  | .maccr p w => Sys2Proof.Machine.execMaccr p w s
  | .mncpl p w => Sys2Proof.Machine.execMncpl p w s
  | .mnbias p w => Sys2Proof.Machine.execMnbias p w s
  | .mnclamp p w => Sys2Proof.Machine.execMnclamp p w s
  | .mnfree p w => Sys2Proof.Machine.execMnfree p w s
  | .mnbeta p w => Sys2Proof.Machine.execMnbeta p w s
  | .mnmode p w => Sys2Proof.Machine.execMnmode p w s
  | .mnsweep p w => Sys2Proof.Machine.execMnsweep p w s
  | .mnpick p w => Sys2Proof.Machine.execMnpick p w s
  | .mnread p w => Sys2Proof.Machine.execMnread p w s
  | .mnstate p w => Sys2Proof.Machine.execMnstate p w s
  | .mnwait p w => Sys2Proof.Machine.execMnwait p w s
  | .mnreset p w => Sys2Proof.Machine.execMnreset p w s
  | .atom p w => Sys2Proof.Machine.execAtom p w s
  | .atomr p w => Sys2Proof.Machine.execAtomr p w s
  | .atomp p w => Sys2Proof.Machine.execAtomp p w s
  | .bfins p w => Sys2Proof.Machine.execBfins p w s
  | .bffcs p w => Sys2Proof.Machine.execBffcs p w s
  | .bfpls p w => Sys2Proof.Machine.execBfpls p w s
  | .txb p w => Sys2Proof.Machine.execTxb p w s
  | .txc p w => Sys2Proof.Machine.execTxc p w s
  | .txa p w => Sys2Proof.Machine.execTxa p w s
  | .atomw p w => Sys2Proof.Machine.execAtomw p w s
  | .spawn p w => Sys2Proof.Machine.execSpawn p w s
  | .jdec p w => Sys2Proof.Machine.execJdec p w s
  | .jwait p w => Sys2Proof.Machine.execJwait p w s
  | .launch p w => Sys2Proof.Machine.execLaunch p w s
  | .cancel p w => Sys2Proof.Machine.execCancel p w s
  | .tdone p w => Sys2Proof.Machine.execTdone p w s
  | .twait p w => Sys2Proof.Machine.execTwait p w s
  | .prio p w => Sys2Proof.Machine.execPrio p w s
  | .puts p w => Sys2Proof.Machine.execPuts p w s
  | .getr p w => Sys2Proof.Machine.execGetr p w s
  | .sigw p w => Sys2Proof.Machine.execSigw p w s
  | .illegalInstructionGroup g => Sys2Proof.Machine.execIllegalInstructionGroup g s
  | .loadValueArrival r k => Sys2Proof.Machine.execLoadValueArrival r k s
  | .feReissue r lane => Sys2Proof.Machine.execFeReissue r lane s
  | .retryBudgetExhausted r => Sys2Proof.Machine.execRetryBudgetExhausted r s
  | .faultReplay r => Sys2Proof.Machine.execFaultReplay r s
  | .resolve part seq => Sys2Proof.Machine.execResolve part seq s
  | .fail part seq => Sys2Proof.Machine.execFail part seq s
  | .pageWalk at_ va write => Sys2Proof.Machine.execPageWalk at_ va write s
  | .windowRetranslation r k => Sys2Proof.Machine.execWindowRetranslation r k s
  | .migrationRequest part vpage => Sys2Proof.Machine.execMigrationRequest part vpage s
  | .hostMigrationRequest part vpage => Sys2Proof.Machine.execHostMigrationRequest part vpage s
  | .moveComplete part vpage => Sys2Proof.Machine.execMoveComplete part vpage s
  | .pinExpiry part vpage => Sys2Proof.Machine.execPinExpiry part vpage s
  | .pinnedRemoteService k => Sys2Proof.Machine.execPinnedRemoteService k s
  | .map part m => Sys2Proof.Machine.execMap part m s
  | .unmap part va => Sys2Proof.Machine.execUnmap part va s
  | .protect part va perm => Sys2Proof.Machine.execProtect part va perm s
  | .regionTableRewrite entries => Sys2Proof.Machine.execRegionTableRewrite entries s
  | .rd q => Sys2Proof.Machine.execRd q s
  | .wr q => Sys2Proof.Machine.execWr q s
  | .wrm q => Sys2Proof.Machine.execWrm q s
  | .rdr stack port tag => Sys2Proof.Machine.execRdr stack port tag s
  | .wack stack port tag => Sys2Proof.Machine.execWack stack port tag s
  | .scrub stack line => Sys2Proof.Machine.execScrub stack line s
  | .copyLineLands at_ id piece => Sys2Proof.Machine.execCopyLineLands at_ id piece s
  | .copyResume at_ id => Sys2Proof.Machine.execCopyResume at_ id s
  | .refill gid page line => Sys2Proof.Machine.execRefill gid page line s
  | .unpinWriteback gid page => Sys2Proof.Machine.execUnpinWriteback gid page s
  | .matrixCommandExecute at_ => Sys2Proof.Machine.execMatrixCommandExecute at_ s
  | .mintCommandExecute at_ => Sys2Proof.Machine.execMintCommandExecute at_ s
  | .mintSweep at_ => Sys2Proof.Machine.execMintSweep at_ s
  | .mintPickStep at_ => Sys2Proof.Machine.execMintPickStep at_ s
  | .labelArrival k => Sys2Proof.Machine.execLabelArrival k s
  | .subscription k => Sys2Proof.Machine.execSubscription k s
  | .clearingTimeout at_ => Sys2Proof.Machine.execClearingTimeout at_ s
  | .hbarSlotAdmit k => Sys2Proof.Machine.execHbarSlotAdmit k s
  | .reservationLapse k => Sys2Proof.Machine.execReservationLapse k s
  | .conflict r => Sys2Proof.Machine.execConflict r s
  | .commit die => Sys2Proof.Machine.execCommit die s
  | .leaseActivation at_ => Sys2Proof.Machine.execLeaseActivation at_ s
  | .issueSelection at_ pipe => Sys2Proof.Machine.execIssueSelection at_ pipe s
  | .gangIdle gid gang => Sys2Proof.Machine.execGangIdle gid gang s
  | .leaseWindowEnd at_ => Sys2Proof.Machine.execLeaseWindowEnd at_ s
  | .hostEnqueue part addr => Sys2Proof.Machine.execHostEnqueue part addr s
  | .enqueueAreaWaitEnd k => Sys2Proof.Machine.execEnqueueAreaWaitEnd k s
  | .placement die => Sys2Proof.Machine.execPlacement die s
  | .groupCompletion gid => Sys2Proof.Machine.execGroupCompletion gid s
  | .unitCompletion uid => Sys2Proof.Machine.execUnitCompletion uid s
  | .tokenRound part key => Sys2Proof.Machine.execTokenRound part key s
  | .cycleBudget uid => Sys2Proof.Machine.execCycleBudget uid s
  | .cancelTaken r => Sys2Proof.Machine.execCancelTaken r s
  | .hostCancel part key => Sys2Proof.Machine.execHostCancel part key s
  | .partitionCreate port c => Sys2Proof.Machine.execPartitionCreate port c s
  | .partitionTeardown port part => Sys2Proof.Machine.execPartitionTeardown port part s
  | .preempt part => Sys2Proof.Machine.execPreempt part s
  | .resume part => Sys2Proof.Machine.execResume part s
  | .acq ports sem => Sys2Proof.Machine.execAcq ports sem s
  | .rel port sem => Sys2Proof.Machine.execRel port sem s
  | .portLinkReset port => Sys2Proof.Machine.execPortLinkReset port s
  | .routineSlotLoad port part slot body => Sys2Proof.Machine.execRoutineSlotLoad port part slot body s
  | .thrashParameters part n w t => Sys2Proof.Machine.execThrashParameters part n w t s
  | .lctlWrite part at_ value => Sys2Proof.Machine.execLctlWrite part at_ value s
  | .peerTableWrite part index entry => Sys2Proof.Machine.execPeerTableWrite part index entry s
  | .registerWrite port offset value => Sys2Proof.Machine.execRegisterWrite port offset value s
  | .timeRefresh die tofs trate => Sys2Proof.Machine.execTimeRefresh die tofs trate s
  | .uncorrectableError site => Sys2Proof.Machine.execUncorrectableError site s
  | .correctedError unit structure_ row => Sys2Proof.Machine.execCorrectedError unit structure_ row s
  | .errorCountPoll => Sys2Proof.Machine.execErrorCountPoll s
  | .dieReset die planned => Sys2Proof.Machine.execDieReset die planned s
  | .controlDieReset boot => Sys2Proof.Machine.execControlDieReset boot s
  | .recoveryBoot port => Sys2Proof.Machine.execRecoveryBoot port s
  | .firmwareUpdate port image => Sys2Proof.Machine.execFirmwareUpdate port image s
  | .firmwareCommit port => Sys2Proof.Machine.execFirmwareCommit port s
  | .attestationReport port nonce => Sys2Proof.Machine.execAttestationReport port nonce s
  | .moduleCap caps => Sys2Proof.Machine.execModuleCap caps s
  | .stepControl die milliwatts temp => Sys2Proof.Machine.execStepControl die milliwatts temp s
  | .baseDieThermal stack temp => Sys2Proof.Machine.execBaseDieThermal stack temp s
  | .flitReceive link flit => Sys2Proof.Machine.execFlitReceive link flit s
  | .linkRetrain link => Sys2Proof.Machine.execLinkRetrain link s
  | .linkBringUp link => Sys2Proof.Machine.execLinkBringUp link s
  | .ucieRetrain link => Sys2Proof.Machine.execUcieRetrain link s
  | .routeRecompute routes => Sys2Proof.Machine.execRouteRecompute routes s
  | .packetRetransmit dst seq => Sys2Proof.Machine.execPacketRetransmit dst seq s
  | .packetArrival p => Sys2Proof.Machine.execPacketArrival p s
  | .packetAcknowledged dst seq failed => Sys2Proof.Machine.execPacketAcknowledged dst seq failed s
  | .jobBarrierMessage m => Sys2Proof.Machine.execJobBarrierMessage m s
  | .cxlMemRead port pa bytes => Sys2Proof.Machine.execCxlMemRead port pa bytes s
  | .cxlMemWrite port pa data poison => Sys2Proof.Machine.execCxlMemWrite port pa data poison s
  | .retrainComplete link ok peer => Sys2Proof.Machine.execRetrainComplete link ok peer s
  | .ucieRetrainEnd link => Sys2Proof.Machine.execUcieRetrainEnd link s
  | .backInvalidateResponse k => Sys2Proof.Machine.execBackInvalidateResponse k s

end Sys2Proof.Machine
end

