-- ==== Sys2Proof/Machine/Schedule.lean ====
section
/-! DEFINITION. What happens between instructions: elapsed time, waits that are over, work of cancelled units withdrawn, and the internal events that may happen next (R7, R12, R133, R135, R183, R188, R194, R213, R218, R221, R290, R369, R403). -/

namespace Sys2Proof.Machine

/-! ### Time (R7, R170, R188, R370, R403, R410) -/

/-- Cycles that the clock of a die, or of the control die as number 8, counts in this step. -/
def State.cyclesNow (s : State) (die : Nat) : Nat := Config.elapsedCycles (s.fresh * 16 + die)

/-- Nominal nanoseconds of this step, which the control die counts. -/
def State.nanosNow (s : State) : Nat := Config.elapsedNanos (s.fresh * 16 + 8)

/-- The rate of a die's reference in this step, in millionths: within 50 ppm of nominal (R403). -/
def State.rateNow (s : State) (die : Nat) : Nat := 10 ^ 6 - 50 + Config.elapsedNanos (s.fresh * 16 + die) % 101

/-- A die's `TIME` after some nominal nanoseconds at a rate; what is less than a nanosecond is kept. -/
def Die.advance (d : Die) (nanos rate : Nat) : Die :=
  { d with time := d.time + dword ((d.timeFrac + nanos * rate) / 10 ^ 6), timeFrac := (d.timeFrac + nanos * rate) % 10 ^ 6 }

/-- A slice after some cycles of a full/empty wait (R170). -/
def Slice.elapse (n : Nat) (sl : Slice) : Slice := { sl with retry := { sl.retry with cycles := sl.retry.cycles + n } }

/-- The unexited slices of a gang that wait, each with the cycle since when. -/
def Group.waitsOf (clock : Nat) (g : Group) (k : Nat) : List (Nat × Nat) :=
  ((g.unended k).filter (fun i => (g.slice i).idles)).map (fun i => (i, (((g.gang k).waits.find? (fun w => w.1 == i)).map Prod.snd).getD clock))

/-- A gang after its group's slices have moved: since when each of them waits, and since when all do (R188). -/
def Group.noteWait (clock : Nat) (g : Group) : Group :=
  { g with gangs := g.gangs.mapIdx (fun k (x : Gang) =>
      { x with
        waits := g.waitsOf clock k
        waitSince := if g.allWait k then some ((g.waitsOf clock k).foldl (fun n w => max n w.2) 0) else none }) }

/-- A core after some cycles; the lease windows of a core that holds no group pass unnoticed. -/
def Core.elapse (n : Nat) (idle : Bool) (k : Core) : Core :=
  { k with
    clock := (k.clock + n) % 2 ^ 64
    window := if idle then (k.clock + n) % 2 ^ 64 / 4096 else k.window
    windowLost := if idle then 0 else k.windowLost
    mint := { k.mint with stalled := k.mint.stalled.map (· + n) } }

/-- Time passes. -/
def State.passTime (s : State) : State :=
  { s with
    now := s.now + s.cyclesNow 8
    nanos := s.nanos + s.nanosNow
    dies := s.dies.mapIdx (fun n (d : Die) =>
      if d.inReset then d
      else
        { (d.advance s.nanosNow (s.rateNow n)) with
          cycle := d.cycle + s.cyclesNow n
          cores := d.cores.mapIdx (fun c (k : Core) => k.elapse (s.cyclesNow n) (s.resident ⟨n, c⟩).isEmpty) })
    groups := s.groups.map (fun (g : Group) => if g.swapped then g else { g with slices := g.slices.mapIdx (fun i (sl : Slice) => if s.countsCycles ⟨g.gid, i⟩ then sl.elapse (s.cyclesNow g.die) else sl) })
    units := s.units.map (fun (u : UnitState) =>
      match s.part? u.part with
      | some p => if p.resident then { u with cycles := u.cycles + s.cyclesNow (s.groups.find? (fun g => g.uid == u.uid) |>.map (fun g => g.die) |>.getD 8) } else u
      | none => u) }

/-! ### Cancelled units (R233, R260, R290, R300, R458) -/

/-- The command of a cancelled unit at the head of its engine's queue may be in progress: an MMA stops between chunks (R259). -/
def State.stopHead (s : State) (at_ : CoreRef) (gone : Nat → Bool) : State :=
  let k := s.core at_
  match k.matrix.queue with
  | c :: _ =>
    match c.op with
    | .mma d src off =>
      let g := s.group c.gid
      if gone c.uid ∧ !(k.matrix.commandLines g.scr c.op).any (s.lineAbsent g) then s.modCore at_ (fun k => { k with matrix := k.matrix.stopMma g.scr d src off s.fresh })
      else s
    | _ => s
  | [] => s

/-- The commands of units that a test names leave a matrix engine; none of them has completed, so no batch of theirs finishes by it (R239, R259). A MACCR's destination is full again, as R25 says of a cancel. -/
def State.dropMatrix (s : State) (at_ : CoreRef) (gone : Nat → Bool) : State :=
  let s := s.stopHead at_ gone
  let cs := (s.core at_).matrix.queue.filter (fun c => gone c.uid)
  let s := s.modCore at_ (fun k => { k with matrix := { k.matrix with queue := k.matrix.queue.filter (fun c => !gone c.uid) } })
  cs.foldl (fun s c =>
    match c.op with
    | .accr _ fmt _ dst _ _ _ _ => s.modSlice ⟨c.gid, c.idx⟩ (fun sl => sl.makeFullN dst (codeWords fmt) c.eff)
    | _ => s) s

/-- The copies of units that a test names stop: what has landed stays. -/
def State.dropCopies (s : State) (at_ : CoreRef) (gone : Nat → Bool) : State :=
  s.modCore at_ (fun k => { k with copies := k.copies.filter (fun c => !gone c.uid) })

/-- The engines of the cores of cancelled units are rid of their work. -/
def State.dropCancelled (s : State) : State :=
  let uids := (s.units.filter (fun u => u.cancelled.isSome)).map (fun u => u.uid)
  if uids.isEmpty then s
  else
    let cores := ((s.groups.filter (fun g => uids.contains g.uid && !g.swapped)).map Group.coreRef).eraseDups
    cores.foldl (fun s c => ((s.dropCopies c uids.contains).dropMatrix c uids.contains).dropMint c uids.contains) s

/-! ### Waits that are over (R133) -/

/-- Every slice of the running groups, in order. -/
def State.allSlices (s : State) : List SliceRef :=
  (s.groups.filter (fun g => !g.swapped)).flatMap (fun g => (List.range g.slices.length).map (fun i => (⟨g.gid, i⟩ : SliceRef)))

/-- A slice whose wait has been tried: it goes on with its fate, or waits on; with a trap, until its shadow has reached the group too (R199). -/
def State.tried (s : State) (r : SliceRef) (next : Dword) : Option (State × Fate) → State
  | some (t, f) =>
    let u := t.resume r (t.slice r).pc next f
    if s.trapEarly r u then s else u
  | none => s

/-- A wait for values on their way is over once none is; a misuse trap that it put off is taken then (R324, R325). -/
def State.tryDrain (s : State) (r : SliceRef) (then_ : Option (Dword × Trap)) : State :=
  if !(s.slice r).drained then s
  else
    match then_ with
    | some (a, t) => s.resume r a a (.trap t)
    | none => (s.modSlice r (fun sl => { sl with wait := none })).divide r.gid (r.idx / (s.group r.gid).gangSize)

/-- A slice's own wait tried; waits that end by an event, for a whole gang or group, or at a queue, are not tried here. -/
def State.tryWait (s : State) (r : SliceRef) : State :=
  let g := s.group r.gid
  let sl := s.slice r
  match sl.wait with
  | some (.bwait a t eff next) =>
    match s.absentAmong r.gid (barrierLines a) with
    | (s, some _) => s
    | (s, none) => s.tried r next (s.tryBwait r a t eff)
  | some (.cseal d eff next) => s.tried r next (s.tryCseal r d eff)
  | some (.cwait n eff next) => s.tried r next (s.tryCwait r n eff)
  | some (.sppin a b _ next) => if s.allPinned r.gid a b then s.resume r sl.pc next .next else s.refillPages r.gid a b
  | some (.mbatch eff barrier d next) => s.tried r next (s.tryMbatch r eff barrier d)
  | some (.mwait n eff next) => s.tried r next (s.tryMwait r n eff)
  | some (.mnwait eff next) => s.tried r next (s.tryMnwait r eff)
  | some (.jwaitCounter a eff next) => s.tried r next (s.tryJwait r a eff)
  | some (.twait a tile d eff next) => s.tried r next (s.tryTwait r a tile d eff)
  | some (.sigw a eq target d eff next) => s.tried r next (s.trySigw r a eq target d eff)
  | some (.release lines acquires next) =>
    if lines.any s.backInvalidates.contains then s
    else (if acquires then s.acquire g.coreRef 5 else s).resume r sl.pc next .next
  | some .leaseReq => if (g.gang (r.idx / g.gangSize)).active then s.resume r sl.pc sl.pc (.goto sl.pc) else s
  | some (.abortDrain t) => s.tryDrain r t
  | some .restartDrain => s.tryDrain r none
  | _ => s

/-! ### Gangs at REGANG (R135) -/

/-- The slices of a gang that wait at REGANG, with the lanes of each. -/
def Group.regangs (g : Group) (k : Nat) : List (Nat × Mask) :=
  (g.unended k).filterMap (fun i => match (g.slice i).wait with | some (.regang eff) => some (i, eff) | _ => none)

/-- A gang whose every unexited slice waits at REGANG rejoins, or each takes regang misuse. -/
def State.tryRegang (s : State) (gid k : Nat) : State :=
  let g := s.group gid
  let ws := g.regangs k
  match ws with
  | [] => s
  | (i0, _) :: _ =>
    if ws.length ≠ (g.unended k).length then s
    else
      let x := (g.slice i0).pc
      let here := ws.filter (fun w => (g.slice w.1).pc == x)
      if here.length = ws.length then
        (ws.foldl (fun s w => s.modSlice ⟨gid, w.1⟩ (fun sl => { sl with wait := none, pc := x + 8, sub := i0 })) s).modGang gid k
          (fun (y : Gang) => { y with parted := false })
      else
        let info := here.foldl (fun n w => n + 2 ^ (w.1 - k * g.gangSize)) 0
        let s := ws.foldl (fun s w => s.modSlice ⟨gid, w.1⟩ (fun sl => { sl with sub := loneLabel w.1 })) s
        ws.foldl (fun s w => s.resume ⟨gid, w.1⟩ (s.slice ⟨gid, w.1⟩).pc (s.slice ⟨gid, w.1⟩).pc (.trap ⟨0x1E, x, w.2, word info⟩)) s

/-! ### Queues (R213) -/

/-- The first parked pusher of a queue that can push, in parking order. -/
def State.pushOne (s : State) (gid n : Nat) : List Nat → Option State
  | [] => none
  | i :: rest =>
    match (s.slice ⟨gid, i⟩).wait with
    | some (.qpush _ words poison _ next) =>
      match s.tryPush gid n (i / (s.group gid).gangSize) words poison with
      | (_, some t) =>
        some ((t.modQueue gid n (fun q => { q with pushers := q.pushers.filter (fun j => j != i) })).resume ⟨gid, i⟩ (s.slice ⟨gid, i⟩).pc next .next)
      | (t, none) => t.pushOne gid n rest
    | _ => s.pushOne gid n rest

/-- The first parked popper of a queue served. -/
def State.popOne (s : State) (gid n : Nat) : Option State :=
  match ((s.group gid).queue n).poppers with
  | [] => none
  | i :: _ =>
    match (s.slice ⟨gid, i⟩).wait with
    | some (.qpop _ dst regs eff next) =>
      match s.tryPop ⟨gid, i⟩ n dst regs eff with
      | (_, some t) =>
        some ((t.modQueue gid n (fun q => { q with poppers := q.poppers.filter (fun j => j != i) })).resume ⟨gid, i⟩ (s.slice ⟨gid, i⟩).pc next .next)
      | (_, none) => none
    | _ => none

/-- Parked pushers and poppers of a queue served while any can be. -/
def State.serveQueue (gid n : Nat) : Nat → State → State
  | 0, s => s
  | fuel + 1, s =>
    match s.popOne gid n with
    | some s => State.serveQueue gid n fuel s
    | none =>
      match s.pushOne gid n ((s.group gid).queue n).pushers with
      | some s => State.serveQueue gid n fuel s
      | none => s

/-- The refill of the lines that parked pushers and poppers of a queue need is started. -/
def State.refillQueue (s : State) (gid n : Nat) : State :=
  let q := (s.group gid).queue n
  let s := if q.poppers.isEmpty || q.count == 0 then s else (s.absentAmong gid (q.lines q.head)).1
  if q.pushers.isEmpty then s else (s.absentAmong gid (q.lines q.tail)).1

/-- The queues of a group served. -/
def State.serveQueues (s : State) (gid : Nat) : State :=
  (List.range 16).foldl (fun s n =>
    let q := (s.group gid).queue n
    if q.pushers.isEmpty && q.poppers.isEmpty then s
    else (State.serveQueue gid n (q.pushers.length + q.poppers.length) s).refillQueue gid n) s

/-! ### Groups and levels -/

/-- A group whose slices all wait at one barrier goes on, or arrives (R221, R304); one whose unit has a cancel or a budget trap pending, which its waiting slices take where they wait, does neither (R146, R437). -/
def State.tryGroup (s : State) (gid : Nat) : State :=
  let g := s.group gid
  if (s.pending ⟨gid, 0⟩ 0).isSome then s
  else
  let s := if g.slices.any Slice.atGsync && g.gsyncFull [] then s.releaseGsync gid else s
  if (s.group gid).slices.any (fun sl => sl.hbarWait.isSome) then (s.hbarTry gid []).1 else s

/-- The levels that slices wait on in `jwait`, with their partitions. -/
def State.waitedLevels (s : State) : List (Nat × LevelKey) :=
  ((s.groups.filter (fun g => !g.swapped)).flatMap (fun g =>
    g.slices.filterMap (fun sl => match sl.wait with | some (.jwaitLevel k _ _) => some (g.part, k) | _ => none))).eraseDups

/-- A `jwait` on a level is over: its object is gone, or only units that wait on it are left of a level that is no dynamic graph (R368, R372). -/
def State.levelOver (s : State) (part : Nat) (key : LevelKey) : Bool :=
  match s.level? part key with
  | none => true
  | some l => !l.dyn && decide (l.count ≤ (s.waitingUnits part key).length)

/-- The running groups, by number. -/
def State.runningGroups (s : State) : List Nat := (s.groups.filter (fun g => !g.swapped)).map (fun g => g.gid)

/-- Every wait tried once. -/
def State.tryWaits (s : State) : State :=
  let s := s.allSlices.foldl State.tryWait s
  let s := s.runningGroups.foldl (fun s gid =>
    let s := (List.range (s.group gid).gangs.length).foldl (fun s k => s.tryRegang gid k) s
    (s.serveQueues gid).tryGroup gid) s
  s.waitedLevels.foldl (fun s x => if s.levelOver x.1 x.2 then s.releaseJwait x.1 x.2 else s) s

/-! ### Remote loads, multicasts, gangs that have ended -/

/-- Remote loads send what they can, and those that are answered end. -/
def State.tryGetrs (s : State) : State :=
  s.groups.foldl (fun s g =>
    (g.slices.zipIdx).foldl (fun s x =>
      x.1.getrs.foldl (fun s y =>
        let r : SliceRef := ⟨g.gid, x.2⟩
        let now (s : State) : Option Getr := (s.slice r).getrs.find? (fun z => z.tag == y.tag)
        let s := match now s with | some z => if g.swapped || z.unsent = 0 then s else s.sendGetr r z | none => s
        match now s with | some z => if g.swapped then s else s.endGetr r z | none => s) s) s) s

/-- Every multicast judged: a receiver's group may have completed (R300). -/
def State.judgeAll (s : State) : State :=
  (s.dies.zipIdx).foldl (fun s d =>
    (d.1.cores.zipIdx).foldl (fun s k =>
      (k.1.copies.filter (fun c => decide (c.kind = .mcast))).foldl (fun s c => s.judgeMcast ⟨d.2, k.2⟩ c.id) s) s) s

/-- Owner tags and victim entries of gangs that have ended are dropped (R182). -/
def State.dropOwners (s : State) : State :=
  (s.groups.filter (fun g => !g.swapped)).foldl (fun s g =>
    (g.gangs.zipIdx).foldl (fun s x =>
      let k := s.core g.coreRef
      if (g.unended x.2).isEmpty && (k.l1.any (fun l => l.owner == some x.1.slot) || k.victims.any (fun v => v.2 == x.1.slot)) then
        s.modCore g.coreRef (fun k => k.dropSlot x.1.slot)
      else s) s) s

/-- Since when each gang waits. -/
def State.noteWaits (s : State) : State :=
  { s with groups := s.groups.map (fun (g : Group) => if g.swapped then g else g.noteWait (s.core g.coreRef).clock) }

/-- The end of a step: time has passed, work of cancelled units is withdrawn, waits whose condition holds are over, runs of subgangs that are not ready end, and what waits for its turn is taken up. A subgang chosen to issue issues in the same cycle, so no time passes before it (R194). -/
def State.settle (s : State) : State :=
  let before := s
  let s := (if s.issuer.isSome then s else s.passTime).retryCounters.transmitAll.sendAnswers.dropCancelled.tryGetrs.judgeAll
  let s := (s.tryWaits.dropOwners.followShadows before).finishSwaps.endRuns.noteWaits
  s.endTorn.finishRewrite.holdPackets.tick

/-! ### The events that may happen next -/

/-- An event where a condition holds. -/
def evt (c : Bool) (i : Instr) : List Instr := if c then [i] else []

/-- Whether a slice's blocked wait can go on. -/
def State.canReplay (s : State) (g : Group) (r : SliceRef) : Bool :=
  match (g.slice r.idx).wait with
  | some (.access a) => s.failedLanes g.part a != 0 || decide ((s.replayable g r a).lanes ≠ a.lanes)
  | some (.replay b _) | some (.fetch b _) | some (.handler b _) => s.failedBlock g.part b || s.blockOver g.part g b
  | _ => false

/-- Events of one slice. -/
def State.sliceEvents (s : State) (g : Group) (r : SliceRef) : List Instr :=
  let sl := g.slice r.idx
  let lanes : List Nat := match sl.wait with
    | some (.access a) => (List.range 4).filter (fun i => decide (a.lanes.get i = .woken) || decide (a.lanes.get i = .todo))
    | _ => []
  (List.range sl.owed.length).map (fun k => Instr.loadValueArrival r k) ++ lanes.map (fun l => Instr.feReissue r l)
    ++ evt (s.countsCycles r && (sl.retry.lost || sl.retry.late)) (.retryBudgetExhausted r) ++ evt (s.canReplay g r) (.faultReplay r)
    ++ evt (match sl.tx with | some t => t.conflict | none => false) (.conflict r)
    ++ ((List.range 8).filter (fun k => match sl.w.getD k none with | some w => w.stale && w.used | none => false)).map (fun k => Instr.windowRetranslation r k)

/-- The pieces of a copy that may land next. -/
def Copy.nextPieces (c : Copy) : List Nat :=
  let ofRow (base r : Nat) : List Nat :=
    ((List.range ((c.rowAt r + c.rowLen + 127) / 128 - c.rowAt r / 128)).map (fun l => r * rowPieces + l)).filter (fun p => !c.landed.contains (base + p))
  match c.kind with
  | .puts _ _ _ _ => if c.first < c.messages then [0] else []
  | .mcast =>
    (if c.nextReceiver.isSome then [acceptPiece] else [])
      ++ (c.receivers.filter (fun x => x.2 != c.gid && !c.resolved x.1)).flatMap (fun x =>
        ((List.range c.rows).flatMap (ofRow (x.1 * receiverPieces))).map (fun p => x.1 * receiverPieces + p))
  | _ => (List.range c.rows).flatMap (ofRow 0)

/-- Events of the engines of a core. -/
def State.engineEvents (s : State) (at_ : CoreRef) : List Instr :=
  let k := s.core at_
  let m := k.mint
  k.copies.flatMap (fun c =>
      match c.block with
      | some b => evt (s.failedBlock c.part b || s.blockOver c.part (s.group c.gid) b) (.copyResume at_ c.id)
      | none => c.nextPieces.map (fun p => Instr.copyLineLands at_ c.id p))
    ++ evt (!k.matrix.queue.isEmpty) (.matrixCommandExecute at_)
    ++ (match m.current with
        | some (c, _) =>
          (match c.op with
           | .sweep _ => [Instr.mintSweep at_]
           | .pick _ => [Instr.mintPickStep at_]
           | _ => []) ++ evt (match m.stalled with | some n => m.tmo != 0 && decide (m.tmo ≤ n) | none => false) (.clearingTimeout at_)
        | none => evt (m.stale || (m.joining.isNone && !m.queue.isEmpty)) (.mintCommandExecute at_))

/-- Events of a core's gangs and pipes. -/
def State.gangEvents (s : State) (at_ : CoreRef) : List Instr :=
  let k := s.core at_
  evt (!(s.toActivate at_).isEmpty) (.leaseActivation at_)
    ++ ((List.range 4).filter (fun p => (s.subgangsOn at_ p).any s.ready)).map (fun p => Instr.issueSelection at_ p)
    ++ ((s.gangsOf at_).filter (fun x => x.gang.active && gangIdle k.clock x.gang)).map (fun x => Instr.gangIdle x.gid x.k)

/-- Events of one group: its pages and its end. -/
def State.groupEvents (s : State) (g : Group) : List Instr :=
  (List.range g.pages).flatMap (fun p =>
      match g.pageState.getD p .pinned with
      | .refilling _ => (g.nextRefill p).toList.map (fun l => Instr.refill g.gid p l)
      | .unpinning _ before => evt (!(s.dieCopies g.die).any (fun c => decide (c.id < before) && c.owesPage g.gid p)) (.unpinWriteback g.gid p)
      | _ => [])
    ++ evt (g.slices.all (fun sl => sl.ended) && !s.groupBusy g) (.groupCompletion g.gid)

/-- The migrations that agents of a partition wait for. -/
def State.waitedPages (s : State) : List (Nat × Nat) :=
  let page (part : Nat) : Block → List (Nat × Nat)
    | .migration p _ => [(part, p)]
    | _ => []
  let ofWait (part : Nat) : Option Wait → List (Nat × Nat)
    | some (.access a) => (List.range 4).flatMap (fun i => match a.lanes.get i with | .migrating p _ => [(part, p)] | _ => [])
    | some (.replay b _) | some (.fetch b _) | some (.handler b _) => page part b
    | _ => []
  (s.groups.flatMap (fun g => g.slices.flatMap (fun sl => ofWait g.part sl.wait))
    ++ s.dies.cells.flatMap (fun d => d.cores.cells.flatMap (fun k => k.copies.flatMap (fun c => match c.block with | some b => page c.part b | none => [])
        ++ (match k.mint.queue, k.mint.block with | c :: _, some b => page (s.group c.gid).part b | _, _ => [])))
    ++ s.counterAccesses.flatMap (fun a => page a.part a.block)
    ++ s.enqueues.flatMap (fun e => match e.block with | some b => page e.part b | none => [])
    ++ s.parkedPackets.flatMap (fun x => match x.1.payload with
        | .write part _ _ _ | .signal part _ _ | .read part _ _ _ _ _ => page part x.2
        | _ => [])).eraseDups

/-- Events of migration and pinned-remote pages. -/
def State.pageEvents (s : State) : List Instr :=
  (s.waitedPages.filter (fun x => match s.dirEntry? x.1 x.2 with
      | some d => !decide (d.home = .moving) && !d.pinned && !decide (d.home = .dev) && (s.frameFor d .dev).isSome
      | none => false)).map (fun x => Instr.migrationRequest x.1 x.2)
    ++ s.partitions.flatMap (fun p => p.directory.flatMap (fun d =>
      evt (decide (d.home = .moving)) (.moveComplete p.num d.vpage) ++ evt (d.pinned && decide (d.pinUntil ≤ s.nanos)) (.pinExpiry p.num d.vpage)))
    ++ ((List.range s.remotes.length).filter (fun k => match (s.remotes.drop k).head? with
        | some x => !(s.remotes.take k).any (fun y => y.pa / 4096 == x.pa / 4096) && !(s.group x.ref.gid).swapped
        | none => false)).map (fun k => Instr.pinnedRemoteService k)

/-- Events of package work. -/
def State.workEvents (s : State) : List Instr :=
  ((List.range 8).filter (fun n => !(s.die n).inReset && !(s.readyQueue n).isEmpty)).map (fun n => Instr.placement n)
    ++ ((List.range s.allReservations.length).filter (fun k => match (s.allReservations.drop k).head? with
        | some (n, r) => decide (r.start + 2 ^ 14 ≤ (s.die n).cycle)
        | none => false)).map (fun k => Instr.reservationLapse k)
    ++ s.units.flatMap (fun u =>
        evt (u.groups == 0 && !s.unitWaits u.uid) (.unitCompletion u.uid)
          ++ evt (u.record.budget != 0 && decide (u.record.budget < u.cycles) && !u.budgetOut) (.cycleBudget u.uid))
    ++ (s.levels.filter (fun l => l.dyn && l.key.level == 2 && (match l.token with
        | some t => s.quiet l.part l.key t.die t.waiters
        | none => decide (l.count ≤ (s.waitingUnits l.part l.key).length)))).map (fun l => Instr.tokenRound l.part l.key)
    ++ ((List.range s.enqueues.length).filter (fun k => match (s.enqueues.drop k).head? with
        | some e => (match e.block with | some b => s.failedBlock e.part b || s.blockOver e.part Group.vacant b | none => s.queueRoom e.part)
        | none => false)).map (fun k => Instr.enqueueAreaWaitEnd k)
    ++ ((List.range s.hbarWaiting.length).filter (fun k => match (s.hbarWaiting.drop k).head? with
        | some (gid, level, id, _) => !(s.group gid).swapped && s.slotFor gid level id
        | none => false)).map (fun k => Instr.hbarSlotAdmit k)
    ++ ((List.range s.jobWaiting.length).filter (fun j => match (s.jobWaiting.drop j).head? with
        | some m => s.coordinator.any (fun x => x.job == m.job && x.id == m.id) || decide ((s.coordinator.filter (fun x => x.job == m.job)).length < 16)
        | none => false)).map (fun j => Instr.hbarSlotAdmit (s.hbarWaiting.length + j))
    ++ s.jobMessages.head?.toList.map Instr.jobBarrierMessage
    ++ ((List.range 8).filter (fun n => match (s.die n).commits with | r :: _ => !s.commitWaits r | [] => false)).map (fun n => Instr.commit n)

/-- Events of packets, base dies and host lines. -/
def State.packetEvents (s : State) : List Instr :=
  ((List.range s.clearPackets.length).filter (fun k => match (s.clearPackets.drop k).head? with
      | some p => p.heldBy.isNone
      | none => false)).map (fun k => if ((s.clearPackets.drop k).head?.bind (fun p => p.label)).isSome then Instr.labelArrival k else Instr.subscription k)
    ++ (s.kept.filter (fun k => k.packet.dst == s.package && !(s.inflowOf s.package).has k.packet.seq)).map (fun k => Instr.packetArrival k.packet)
    ++ (s.parkedPackets.filter (fun x => match x.1.payload with
        | .write part _ _ _ | .signal part _ _ | .read part _ _ _ _ _ => (s.part? part).isNone || s.failedBlock part x.2 || s.blockOver part Group.vacant x.2
        | _ => true)).map (fun x => Instr.packetArrival x.1)
    ++ (s.kept.filter (fun k => k.path.isSome && decide (k.since + 200000 ≤ s.nanos))).map (fun k => Instr.packetRetransmit k.packet.dst k.packet.seq)
    ++ (s.bases.zipIdx).flatMap (fun b => (b.1.flights.filter b.1.firstOfLine).map (fun f =>
        if f.kind = 1 then Instr.rdr b.2 f.q.port f.q.tag else Instr.wack b.2 f.q.port f.q.tag))
    ++ (List.range s.backInvalidates.length).map (fun k => Instr.backInvalidateResponse k)

/-- The slices that wait at a cancel point with a cancel or a budget trap pending: they take it while they wait, before the wait can end (R146). -/
def State.cancelEvents (s : State) (g : Group) : List Instr :=
  (g.slices.zipIdx).flatMap (fun x =>
    let r : SliceRef := ⟨g.gid, x.2⟩
    evt (s.cancelAtWait r).isSome (.cancelTaken r))

/-- The internal events that may happen next; before the boot ROM has run, the boot alone (R419); the ends of lease windows and then cancels taken at a wait before all else (R146, R183). -/
def State.candidates (s : State) : List Instr :=
  if s.bootstat = 0 then [.controlDieReset (Config.bootOutcome (2 * s.fresh))]
  else
    let running := s.groups.filter (fun g => !g.swapped)
    let cores := (running.map Group.coreRef).eraseDups
    let windows := (cores.filter (fun c => decide ((s.core c).window < (s.core c).clock / 4096))).map Instr.leaseWindowEnd
    let cancels := running.flatMap s.cancelEvents
    if !windows.isEmpty then windows else
    if !cancels.isEmpty then cancels else
    running.flatMap (fun g => (List.range g.slices.length).flatMap (fun i => s.sliceEvents g ⟨g.gid, i⟩) ++ s.groupEvents g)
      ++ cores.flatMap (fun c => s.gangEvents c ++ s.engineEvents c) ++ s.pageEvents ++ s.workEvents ++ s.packetEvents

/-- The event that happens next: the schedule's choice among several (R12). -/
def State.choose (s : State) (c : List Instr) : Option Instr :=
  match c with
  | [] => none
  | [e] => some e
  | _ => (c.drop (Config.choice s.fresh % c.length)).head?

end Sys2Proof.Machine
end

