-- ==== Sys2Proof/Machine/Step.lean ====
section
/-! DEFINITION. One step of the device: an event from outside, else the instruction of the subgang chosen to issue, else an internal event; and an instruction placed where the next step fetches. -/

namespace Sys2Proof.Machine

/-- The end of a step that began in `s` and answered a next state: the shadows of slices that have been taken from their paths go with them (R199, R200). -/
def afterStep (s : State) : Outcome → Outcome
  | .next t => .next (t.followFrom s).settle
  | .fault r => .fault r
  | .refused r => .refused r

/-- The end of a step in which a subgang issued: the pipe's choice is spent. -/
def afterIssue (s : State) : Outcome → Outcome
  | .next t => .next ({ t with issuer := none }.followFrom s).settle
  | .fault r => .fault r
  | .refused r => .refused r

/-- The lanes of a slice at an instruction. -/
def effAt (s : State) (who : Issuer) (i : Instr) (idx : Nat) : Mask :=
  match issueFields i with
  | some (op, wide, p, w) => effOf (s.slice ⟨who.gid, idx⟩) (Grp.of op wide p w (s.issueAddr who))
  | none => (s.slice ⟨who.gid, idx⟩).active

/-- The state that an outcome leaves, or another where there is none. -/
def Outcome.orElse (s : State) : Outcome → State
  | .next t => t
  | _ => s

/-- The primaries of a launch with shadow execution leave the group that they have issued to their shadows; a trap is compared before it is taken (R197, R199). -/
def leaveTrail (s : State) (who : Issuer) (i : Instr) : Outcome → Outcome
  | .next t => .next (s.trapsCompared who (effAt s who i) (fun x => Outcome.orElse x (exec i x)) (s.trailIssue who i t))
  | .fault r => .fault r
  | .refused r => .refused r

/-- A fetch that cannot be served; a trap that it brings is compared first (R199). -/
def leaveFetch (s : State) (who : Issuer) (t : State) : Outcome :=
  .next (s.trapsCompared who (fun i => (s.slice ⟨who.gid, i⟩).active) (fun x => (x.fetchInstr ⟨who.gid, who.gang, 0⟩).1) t)

/-- One step of the device: a read of the host answered, an event from outside, an instruction issued, or an internal event. -/
def step (s : State) : Host.Outcome State Fault Refusal :=
  match s.asks, s.agenda with
  | x :: rest, _ => .next ({ s with asks := rest }.serveRead x)
  | [], e :: rest => afterStep s (exec e { s with agenda := rest })
  | [], [] =>
    match s.issuer with
    | some who =>
      if who.shadows then afterIssue s (.next (s.trailStep exec who))
      else
        match s.fetchInstr who with
        | (t, some i) => afterIssue s (leaveTrail t who i (exec i t))
        | (t, none) => afterIssue s (leaveFetch s who t)
    | none =>
      match s.choose s.candidates with
      | some e => afterStep s (exec e s)
      | none => afterStep s (.next s)

/-- Partition 0 as a program placed from outside runs in: die 0, no tables. -/
def Partition.forProgram : Partition :=
  { num := 0, dies := 1, resident := true, leaving := false, ptroot := 0, tableNext := 0, tableEnd := 0, walked := [], mapped := [], routines := Bank.all 16 none, thrashN := 4,
    thrashW := 1000, thrashT := 10000, queueCap := 1024, faults := [], nextSeq := 0, ending := false, errorLog := [], levelLog := [],
    directory := [], peers := Bank.all 256 ⟨false, 0, 0, 0⟩, lctl := [], savedCls := [], savedChp := [], savedCores := [], savedClear := [] }

/-- The address of a program placed from outside. -/
def programBase : Nat := 0x10000

/-- A group of one slice at the program's address. -/
def Group.forProgram (gid : Nat) : Group :=
  { gid := gid, uid := 0, part := 0, die := 0, core := 0, index := 0, regs := 128, pages := 0, gangSize := 1,
    slices := [Slice.start 128 (dword programBase)], gangs := [⟨0, 0, 0, 0, 0, 0, true, 0, [], none, false⟩], scr := Memory.blank,
    backing := Memory.blank, pageState := [], absent := [], unpins := [], queues := Bank.all 16 Queue.closed,
    gsat := false, gsyncGen := 0, shadow := false, shadows := [], trail := [], swapped := false }

/-- The instruction whose bits are `w`, numbered as the opcode table numbers them, placed where the next step fetches: a group of one slice issues next, at an address that its core's TLB maps. -/
def State.withFetchWord (s : State) (nbits w : Nat) : State :=
  let gid := s.nextGid
  { s with
    mem := s.mem.setBytes programBase ((tableWords nbits w).flatMap wordBytes)
    groups := s.groups ++ [Group.forProgram gid]
    nextGid := gid + 1
    partitions := (s.partitions.filter (fun p => p.num != 0)) ++ [Partition.forProgram]
    dies := s.dies.modify 0 (fun d =>
      { d with
        inReset := false
        cores := d.cores.modify 0 (fun k =>
          { k with tlb := [⟨0, 0, 0, 7, ⟨true, true, true, true⟩, true, false, false, false⟩] }) })
    agenda := []
    asks := []
    issuer := some ⟨gid, 0, 0⟩ }

end Sys2Proof.Machine
end

