-- ==== Sys2Proof/Machine/Grauk.lean ====
section
/-! DEFINITION. The assembler and disassembler grauk, from the parts of a source line on: prefixes and form that a line is given, directives, the kernel table, and the linear sweep of an image (R59 to R66, R177, R178). How a line is spelt in characters is left out (log 21). -/

namespace Sys2Proof.Machine

/-! ### Source lines (R60 to R63) -/

/-- A floating value as it is written: `digits * 10^exp`, `mag * 2^exp`, or raw bits (R65). -/
inductive Literal where
  | decimal (neg : Bool) (digits : Nat) (exp : Int)
  | dyadic (neg : Bool) (mag : Nat) (exp : Int)
  | raw (bits : Nat)
  deriving DecidableEq, Repr

/-- The value of a literal, exact or carried far enough that one rounding of it is the rounding of the exact value. A 0x integer without `.` or `p` stands for the binary64 pattern it spells where it is one of the values of `.bx4`: R65 gives raw patterns to `.f32` and `.f64` only (DESIGN CHOICE, log 21). -/
def Literal.num : Literal → Num
  | .decimal n d e => if 0 ≤ e then .fin n (d * 10 ^ e.toNat) 0 else (Num.div (.fin n d 0) (.fin false (10 ^ (-e).toNat) 0)).num
  | .dyadic n m e => .fin n m e
  | .raw x => fmtF64.decode x

/-- An operand of a source line: none, a specifier with or without `!`, an integer (R60), or a decimal floating literal `digits * 10^exp` (R95). -/
inductive Arg where
  | absent
  | spec (x : BitVec 8) (bang : Bool)
  | imm (n : Int)
  | lit (neg : Bool) (digits : Nat) (exp : Int)
  deriving DecidableEq, Repr

/-- What a source line writes that its instruction's description puts into an XI prefix: the displacement of a memory operand or of an atomic's address, or the addend of `MLAY`'s b (R152, R243, R313); the strides of a copy with `.2d`, in bytes; the formats of `.cvt=DST.SRC` with its rounding code; or the element count of `CPYG` (R223). -/
inductive Extra where
  | none
  | disp (n : Int)
  | strides (src dst : Nat)
  | convert (dst src rm : Nat)
  | count (n : Nat)
  deriving DecidableEq, Repr

/-- An instruction of a source line: opcode, predicate, `.nf`, the value that its modifiers give the modifier field, the prefixes that its modifiers name in their order, `.wide`, its operands, and what it writes beside them (R60, R61, R63). -/
structure Source where
  op : BitVec 8
  pred : BitVec 3
  neg : Bool
  nf : Bool
  mod : BitVec 14
  prefixes : List Prefix
  wide : Bool
  d : Arg
  a : Arg
  b : Arg
  c : Arg
  extra : Extra
  deriving DecidableEq, Repr

/-- What grauk reports as an error (R61, R65). -/
inductive AsmError where
  /-- an integer that no field or prefix holds -/
  | value
  /-- two modifiers that map to one prefix kind -/
  | repeated
  /-- a modifier on an instruction that does not accept its kind -/
  | notAccepted
  /-- an opcode without an instruction, or words that step 5 of R56 refuses -/
  | traps
  /-- a directive with an argument outside its range -/
  | directive
  deriving DecidableEq, Repr

/-- Whether an integer is an immediate specifier (R60). -/
def shortImm (n : Int) : Bool := decide (-16 ≤ n) && decide (n ≤ 15)

/-- The 32-bit value that an immediate operand stands for: an integer's low bits, a literal's binary32 bits rounded RNE (R51, R95). -/
def Arg.value32 : Arg → Nat
  | .imm n => (n % 2 ^ 32).toNat
  | .lit s d e => (fmtF32.round .rne (Literal.decimal s d e).num).bits
  | _ => 0

/-- The specifier of an operand; an integer that no specifier holds leaves its low five bits to an XI prefix (R47, R51). -/
def Arg.field : Arg → BitVec 8
  | .absent => 0
  | .spec x _ => x
  | .imm n => BitVec.ofNat 8 (0xE0 + (n % 32).toNat)
  | .lit s d e => BitVec.ofNat 8 (0xE0 + (Arg.lit s d e).value32 % 32)

/-- The ET bit of an operand (R60). -/
def Arg.et : Arg → Bool
  | .spec _ e => e
  | _ => false

/-- An operand that needs an XI prefix: an integer that no specifier holds, and every literal (R95). -/
def Arg.long : Arg → Bool
  | .imm n => !shortImm n
  | .lit _ _ _ => true
  | _ => false

/-- The XI-accepting lane arithmetic of R51. -/
def laneXiOp (op : Nat) : Bool :=
  [0x03, 0x04, 0x05, 0x0A, 0x0B, 0x0D, 0x0E, 0x0F, 0x10, 0x20, 0x21, 0x22, 0x24, 0x25, 0x2E].contains op

/-- The instructions with a memory operand (R151). -/
def memoryOp (op : Nat) : Bool := [0x60, 0x61, 0x62, 0x63, 0x64, 0x65, 0x66, 0x69, 0x6B].contains op

/-- The field of operand b: of an omitted index the constant zero, of `JDEC`'s omitted decrement the constant one, and under a constant of `MLAY` that its prefix holds the constant zero (R152, R243, R371). -/
def Source.fieldB (s : Source) : BitVec 8 :=
  let op := s.op.toNat
  match s.b with
  | .absent => if memoryOp op then 0xC0 else if op = 0xD1 then 0xC1 else 0
  | b => if op = 0x90 ∧ b.long then 0xC0 else b.field

/-- The modifier field: the low seven bits of a memory operand's displacement are its highest (R152). -/
def Source.modifiers (s : Source) : BitVec 14 :=
  match s.extra with
  | .disp n => if memoryOp s.op.toNat then BitVec.ofNat 14 (s.mod.toNat % 2 ^ 7 + (n % 2 ^ 7).toNat * 2 ^ 7) else s.mod
  | _ => s.mod

/-- The W-form fields of a source line. -/
def Source.form (s : Source) : WForm :=
  { mod := s.modifiers, nf := s.nf, etc := s.c.et, etb := s.b.et, eta := s.a.et, c := s.c.field, b := s.fieldB, a := s.a.field, d := s.d.field,
    neg := s.neg, pred := s.pred }

/-- The value of the XI prefix that a source line asks for, none where it needs none: of a displacement outside a memory operand's field or of an atomic's that is not 0, of what a copy is given beside its operands, and of a long immediate (R51, R61, R95, R152, R223, R243, R313). -/
def Source.xiValue (s : Source) : Option Nat :=
  let op := s.op.toNat
  match s.extra with
  | .disp n =>
    if memoryOp op then (if -64 ≤ n ∧ n ≤ 63 then none else some ((n / 2 ^ 7) % 2 ^ 27).toNat)
    else if (op = 0xC0 ∨ op = 0xC1) ∧ n = 0 then none
    else some (n % 2 ^ 27).toNat
  | .strides src dst => some (src / 16 + dst / 16 * 2 ^ 14)
  | .convert dst src rm => some (src + dst * 2 ^ 4 + rm * 2 ^ 8)
  | .count n => some n
  | .none =>
    if !s.b.long then none
    else if op = 0x90 then some s.b.value32
    else some (s.b.value32 / 32)

/-- The XI prefix of a source line. -/
def Source.xi (s : Source) : List Prefix := (s.xiValue.map (fun v => ⟨.xi, BitVec.ofNat 27 v⟩)).toList

/-- Whether an instruction has an f32 operand b, so that grauk takes a decimal literal there (R95). -/
def literalOp (op : Nat) (w : WForm) : Bool :=
  [0x20, 0x21, 0x22, 0x23, 0x24, 0x25, 0x26, 0x2E].contains op && decide (WForm.field w 51 50 = 0)

/-- A prefix put into a list that ascends by kind code (R61). -/
def insertPrefix (p : Prefix) : List Prefix → List Prefix
  | [] => [p]
  | q :: qs => if p.kind.code ≤ q.kind.code then p :: q :: qs else q :: insertPrefix p qs

/-- The prefixes of a source line, ascending by kind code (R61). -/
def Source.allPrefixes (s : Source) : List Prefix := (s.prefixes ++ s.xi).foldr insertPrefix []

/-- The compact b field of a specifier: `v0` to `v31`, `s0` to `s15`, or an immediate from -8 to +7 (R43, R63). -/
def compactB (b : BitVec 8) : Option (BitVec 6) :=
  let x := b.toNat
  if x < 0x20 then some (BitVec.ofNat 6 x)
  else if 0x80 ≤ x ∧ x < 0x90 then some (BitVec.ofNat 6 (x - 0x80 + 0x20))
  else if 0xE0 ≤ x ∧ x < 0xE8 then some (BitVec.ofNat 6 (x - 0xE0 + 0x30))
  else if 0xF8 ≤ x then some (BitVec.ofNat 6 (x - 0xF8 + 0x38))
  else none

/-- The C form that R63 lets an instruction have, none where it asks for the W form; a long immediate asks for it. -/
def compactOf (op : Nat) (w : WForm) (long : Bool) : Option CForm :=
  if cCapable op && w.pred == 0 && !w.neg && !w.nf && !w.eta && !w.etb && !w.etc && w.mod == 0 && w.c == 0 && !long then
    (compactB w.b).map (fun b => ⟨b, w.a, w.d⟩)
  else none

/-- The offending bits that an instruction word has by its own bits: those it has both with an XI prefix and without one (R64). -/
def ownOffences (op : Nat) (w : WForm) (wide : Bool) : List Nat :=
  match shapeOf op w ⟨none, none, none, none, none⟩, shapeOf op w ⟨none, none, some 0, none, none⟩ with
  | some sh, some sh' => (instrOffences sh w wide).filter (fun i => (instrOffences sh' w wide).contains i)
  | _, _ => [2]

/-- The shape of an opcode after some prefixes; an unassigned opcode accepts none. -/
def shapeAfter (op : Nat) (w : WForm) (p : List Prefix) : Shape := (shapeOf op w (Prefixes.of p)).getD {}

/-- Whether a long immediate is one that its instruction takes: in range, of lane arithmetic or a constant of `MLAY`; a decimal literal only of an f32 operand (R51, R61, R95, R243). -/
def Source.longOk (s : Source) : Bool :=
  match s.b with
  | .imm n =>
    if s.op = 0x90 then decide (0 ≤ n) && decide (n < (2 : Int) ^ 19)
    else laneXiOp s.op.toNat && decide (-(2 : Int) ^ 31 ≤ n) && decide (n < (2 : Int) ^ 32)
  | .lit _ _ _ => laneXiOp s.op.toNat && literalOp s.op.toNat s.form
  | _ => true

/-- Whether what a line writes beside its operands belongs to its instruction and is in range (R152, R223, R243, R313). -/
def Source.extraOk (s : Source) : Bool :=
  let op := s.op.toNat
  match s.extra with
  | .none => true
  | .disp n =>
    if memoryOp op then decide (-(2 : Int) ^ 33 ≤ n) && decide (n < (2 : Int) ^ 33)
    else if op = 0x90 then !s.b.long && decide (0 ≤ n) && decide (n < (2 : Int) ^ 19)
    else (op == 0xC0 || op == 0xC1) && decide (-(2 : Int) ^ 26 ≤ n) && decide (n < (2 : Int) ^ 26)
  | .strides src dst =>
    ((op == 0x70 && bit s.mod.toNat 11) || (op == 0x72 && bit s.mod.toNat 12)) && src % 16 == 0 && dst % 16 == 0 && decide (src ≤ 262128) && decide (dst ≤ 131056)
  | .convert dst src rm => op == 0x70 && !bit s.mod.toNat 11 && decide (dst < 16) && decide (src < 16) && decide (rm < 8)
  | .count n => op == 0x71 && decide (n < 2 ^ 16)

/-- The words of a source line, or the error that grauk reports, `traps` saying whether its instruction word would trap at step 5 of R56 (R61, R63). -/
def Source.assemble (s : Source) (traps : Bool) : Except AsmError (List Word) :=
  let op := s.op.toNat
  let w := s.form
  let p := s.allPrefixes
  let sh := shapeAfter op w p
  if s.d.long || s.a.long || s.c.long || (s.b.long && !s.longOk) || !s.extraOk then .error .value
  else if (conflictAt p).isSome then .error .repeated
  else if s.prefixes.any (fun x => decide (x.kind = .xi)) || p.any (fun x => !sh.accepts x.kind) then .error .notAccepted
  else if (shapeOf op w (Prefixes.of p)).isNone || p.any (fun x => !(prefixOffences sh x).isEmpty) || traps then .error .traps
  else
    let tail := match (if s.wide then none else compactOf op w s.b.long) with
      | some c => [compactWord s.op c]
      | none => wideWords (wideBits s.op w)
    .ok (p.map prefixWord ++ tail)

/-- Whether the instruction word of a source line traps at step 5 of R56 by its line's doing: with the prefixes that raw lines just before it give its group, and without them. -/
def Source.offends (s : Source) (raw : List Prefix) : Bool :=
  let after (p : List Prefix) : List Nat := instrOffences (shapeAfter s.op.toNat s.form p) s.form true
  !(after (raw ++ s.allPrefixes)).isEmpty && !(after s.allPrefixes).isEmpty

/-- The words of a source line that stands after some raw prefix lines, or the error that grauk reports: it emits no word that traps but through those lines (R61, R63). -/
def Source.emitAfter (s : Source) (raw : List Prefix) : Except AsmError (List Word) := s.assemble (s.offends raw)

/-- The words of a source line with no raw prefix line before it. -/
def Source.emit (s : Source) : Except AsmError (List Word) := s.emitAfter []

/-! ### The disassembler (R64, R177, R178) -/

/-- The comment of a raw prefix line (R178). -/
inductive Note where
  | none | orphan | conflict
  deriving DecidableEq, Repr

/-- A line that the disassembler prints: a raw prefix line, an instruction, a word, or the two words of a W-form instruction it cannot print. -/
inductive Line where
  | pfx (p : Prefix) (note : Note)
  | instr (s : Source)
  | word (x : Word)
  | pair (x y : Word)
  deriving DecidableEq, Repr

/-- The bytes a line stands for, where it is printed by the disassembler. -/
def Line.size : Line → Nat
  | .pfx _ _ => 4
  | .word _ => 4
  | .pair _ _ => 8
  | .instr s => match (if s.wide then none else compactOf s.op.toNat s.form s.b.long) with | some _ => 4 | none => 8

/-- Whether a prefix word is legal by its own bits: no reserved bit, no reserved code (R50, R178). -/
def prefixLegal (p : Prefix) : Bool :=
  let v := p.val.toNat
  match p.kind with
  | .rnd => decide (v < 6)
  | .ovf => decide (v < 4)
  | .xi => true
  | .scp => decide (v < 32) && decide (v % 8 < 6)
  | .spc => decide (v < 5)

/-- The source line of an instruction's fields; `wide` is what `.wide` adds where R63 would give the C form (R64). -/
def sourceOf (op : BitVec 8) (w : WForm) (wide : Bool) : Source :=
  { op := op, pred := w.pred, neg := w.neg, nf := w.nf, mod := w.mod, prefixes := [],
    wide := wide && (compactOf op.toNat w false).isSome, d := .spec w.d false, a := .spec w.a w.eta, b := .spec w.b w.etb, c := .spec w.c w.etc, extra := .none }

/-- The line of a C-form word (R64). -/
def compactLine (x : Word) : Line :=
  let op : BitVec 8 := x.extractLsb' 2 8
  let w := expand (compactFields x)
  if cCapable op.toNat && (ownOffences op.toNat w false).isEmpty then .instr (sourceOf op w false) else .word x

/-- The line of a W-form instruction (R64). -/
def wideLine (x y : Word) : Line :=
  let z := joinWide x y
  let op : BitVec 8 := z.extractLsb' 2 8
  if (ownOffences op.toNat (wideFields z) true).isEmpty then .instr (sourceOf op (wideFields z) true) else .pair x y

/-- The opcode and fields of the instruction that a printed line stands for, also where it is printed as words; none where its opcode has no instruction in that form, which step 3 of R56 judges before a prefix. -/
def Line.fields : Line → Option (BitVec 8 × WForm)
  | .instr s => some (s.op, s.form)
  | .pair x y =>
    let z := joinWide x y
    let op : BitVec 8 := z.extractLsb' 2 8
    if (shapeOf op.toNat (wideFields z) ⟨none, none, none, none, none⟩).isSome then some (op, wideFields z) else none
  | .word x =>
    let op : BitVec 8 := x.extractLsb' 2 8
    if x.extractLsb' 0 2 == 0 && cCapable op.toNat then some (op, expand (compactFields x)) else none
  | .pfx _ _ => none

/-- The lines of a run of prefix words: conflict is the second of a kind or the third word, orphan a kind that the instruction printed after it does not accept (R178). -/
def prefixLines (run : List Word) (next : Option Line) : List Line :=
  let ps := run.map prefixOf
  run.zipIdx.map (fun x =>
    match prefixOf x.1 with
    | none => .word x.1
    | some p =>
      if !prefixLegal p then .word x.1
      else if decide (2 ≤ x.2) || (ps.take x.2).any (fun q => match q with | some q => decide (q.kind = p.kind) | none => false) then .pfx p .conflict
      else
        match next.bind Line.fields with
        | some (op, w) => .pfx p (if (shapeAfter op.toNat w (ps.filterMap id)).accepts p.kind then .none else .orphan)
        | none => .pfx p .none)

/-- The linear sweep, `run` being the prefix words just passed (R177). A W-form word whose second word lies beyond the image is one `.word` line (DEDUCED, log 21). -/
def sweepFrom (run : List Word) : List Word → List Line
  | [] => prefixLines run none
  | x :: rest =>
    match (x.extractLsb' 0 2).toNat with
    | 0 => prefixLines run (some (compactLine x)) ++ compactLine x :: sweepFrom [] rest
    | 1 =>
      match rest with
      | [] => prefixLines run none ++ [.word x]
      | y :: rest' => prefixLines run (some (wideLine x y)) ++ wideLine x y :: sweepFrom [] rest'
    | 2 => sweepFrom (run ++ [x]) rest
    | _ => prefixLines run none ++ .word x :: sweepFrom [] rest

/-- The sweep of an image (R177). -/
def sweep (ws : List Word) : List Line := sweepFrom [] ws

/-- Lines with the offset of each. -/
def offsets : Nat → List Line → List (Nat × Line)
  | _, [] => []
  | o, l :: ls => (o, l) :: offsets (o + l.size) ls

/-- The offsets that an instruction at an offset may transfer to by its own words (R123, R128, R323). -/
def targetsOf (o : Nat) : Line → List Int
  | .instr s =>
    let w := s.form
    let tgt : Int := (o : Int) + 4 * (sext64 22 (w.b.toNat + 2 ^ 8 * w.c.toNat + 2 ^ 16 * WForm.field w 63 58)).toInt
    match s.op.toNat with
    | 0x40 | 0x42 | 0x47 | 0xC6 => [tgt]
    | 0x43 => if WForm.field w 50 50 = 0 then [tgt] else []
    | 0x45 => [(o : Int) + 4 * (sext64 16 (w.d.toNat + 2 ^ 8 * w.a.toNat)).toInt, tgt]
    | _ => []
  | _ => []

/-- A printed line: its offset, whether a generated label stands before it, and the targets named in its comment because they fall inside a W-form instruction (R177). -/
structure Printed where
  off : Nat
  line : Line
  label : Bool
  inside : List Int
  deriving DecidableEq, Repr

/-- What the disassembler prints of an image (R64, R177, R178). -/
def disassemble (ws : List Word) : List Printed :=
  let ls := offsets 0 (sweep ws)
  let targets := ls.flatMap (fun x => targetsOf x.1 x.2)
  ls.map (fun x =>
    { off := x.1, line := x.2, label := targets.any (fun t => decide (t = (x.1 : Int))),
      inside := (targetsOf x.1 x.2).filter (fun t => ls.any (fun y => y.2.size == 8 && decide (t = (y.1 : Int) + 4))) })

/-- The words that a printed line assembles to: an instruction's are judged as the disassembler has judged them, by their own bits, so that printed output assembles back (R62, R64). -/
def Line.assemble : Line → Except AsmError (List Word)
  | .pfx p _ => .ok [prefixWord p]
  | .instr s => s.assemble (!(ownOffences s.op.toNat s.form true).isEmpty)
  | .word x => .ok [x]
  | .pair x y => .ok [x, y]

/-- The words of lines, one after another. -/
def assembleLines : List Line → Except AsmError (List Word)
  | [] => .ok []
  | l :: ls =>
    match l.assemble, assembleLines ls with
    | .ok x, .ok y => .ok (x ++ y)
    | .error e, _ => .error e
    | _, .error e => .error e

/-! ### Directives and the kernel table (R65, R66) -/

/-- The bits of a literal in a format, rounded RNE; a raw pattern that does not fit is an error (R65). -/
def Literal.bits (F : FloatFmt) : Literal → Except AsmError Nat
  | .raw x => if x < 2 ^ F.width then .ok x else .error .directive
  | x => .ok (F.round .rne x.num).bits

/-- A data directive: integers of 1, 2, 4 or 8 bytes, floating values of 4 or 8 bytes, one BX4 block, or padding (R65). -/
inductive Datum where
  | ints (bytes : Nat) (xs : List Int)
  | floats (wide : Bool) (xs : List Literal)
  | bx4 (xs : List Literal)
  | align (n : Nat)
  deriving DecidableEq, Repr

/-- Zero bytes up to the next multiple of `n`. -/
def padding (len n : Nat) : List Byte := List.replicate ((n - len % n) % n) 0

/-- The parts of a list, or its first error. -/
def collect {α : Type} : List (Except AsmError α) → Except AsmError (List α)
  | [] => .ok []
  | .error e :: _ => .error e
  | .ok x :: xs => match collect xs with | .ok ys => .ok (x :: ys) | .error e => .error e

/-- Whether a value fits a width, signed or unsigned (R65). -/
def fitsBytes (n : Nat) (x : Int) : Bool := decide (-(2 : Int) ^ (8 * n - 1) ≤ x) && decide (x < (2 : Int) ^ (8 * n))

/-- The alignment that a directive of the data section gives itself (R65). -/
def Datum.own : Datum → Nat
  | .ints n _ => n
  | .floats w _ => if w then 8 else 4
  | .bx4 _ => 4
  | .align _ => 1

/-- The bytes of a directive in a section that holds `len` bytes; a section of code keeps to whole words (R65). -/
def Datum.bytes (text : Bool) (len : Nat) (x : Datum) : Except AsmError (List Byte) :=
  let pad := if text then [] else padding len x.own
  match x with
  | .ints n xs =>
    if !([1, 2, 4, 8].contains n) || (text && !([4, 8].contains n)) || !xs.all (fitsBytes n) then .error .directive
    else .ok (pad ++ xs.flatMap (fun v => toBytes n (v % (2 : Int) ^ (8 * n)).toNat))
  | .floats w xs =>
    match collect (xs.map (Literal.bits (if w then fmtF64 else fmtF32))) with
    | .ok ys => .ok (pad ++ ys.flatMap (toBytes (if w then 8 else 4)))
    | .error e => .error e
  | .bx4 xs => if xs.length = 16 then .ok (pad ++ toBytes 12 (bxEncode 4 .rne ⟨false, none⟩ (xs.map Literal.num)).bits) else .error .directive
  | .align n =>
    if (List.range 13).any (fun k => 2 ^ k == n) && (!text || decide (4 ≤ n)) then .ok (padding len n) else .error .directive

/-- The data section, from the bytes before (R65). -/
def dataFrom (before : List Byte) : List Datum → Except AsmError (List Byte)
  | [] => .ok before
  | x :: xs => match Datum.bytes false before.length x with | .ok y => dataFrom (before ++ y) xs | .error e => .error e

/-- The data section (R65). -/
def dataSection (xs : List Datum) : Except AsmError (List Byte) := dataFrom [] xs

/-- A statement of a kernel: an instruction, a raw prefix line, or a directive. -/
inductive Statement where
  | instr (s : Source)
  | pfx (p : Prefix)
  | datum (x : Datum)
  deriving DecidableEq, Repr

/-- A kernel: its name, its directives where it has them, and its body (R65). -/
structure Kernel where
  name : List Byte
  regs : Option (Nat × Nat)
  lease : Option Nat
  scratch : Option Nat
  gang : Option Nat
  body : List Statement
  deriving DecidableEq, Repr

/-- The registers that a kernel names: those its operands read or write. -/
def Kernel.names (k : Kernel) : List Nat :=
  k.body.flatMap (fun x =>
    match x with
    | .instr s =>
      let w := s.form
      let sh := shapeAfter s.op.toNat w s.allPrefixes
      [(sh.d, w.d), (sh.a, w.a), (sh.b, w.b), (sh.c, w.c)].flatMap (fun y => y.1.reads y.2.toNat ++ y.1.writes y.2.toNat)
    | _ => [])

/-- The first register of a class that a kernel leaves unnamed, with every later one: one more than the highest named. -/
def beyond (rs : List Nat) (lo hi : Nat) : Nat := ((rs.filter (fun r => decide (lo ≤ r) && decide (r < hi))).map (fun r => r + 1 - lo)).foldl max 0

/-- The registers per lane and the `s` value of a kernel (R66). -/
def Kernel.registers (k : Kernel) : Nat × Nat :=
  match k.regs with
  | some x => x
  | none => (max 8 ((beyond k.names 0 128 + 7) / 8 * 8), beyond k.names 128 192)

/-- Whether a kernel's directives are in range and name every register it uses (R65). -/
def Kernel.sound (k : Kernel) : Bool :=
  let r := k.registers
  decide (8 ≤ r.1) && decide (r.1 ≤ 128) && r.1 % 8 == 0 && (k.regs.isNone || decide (1 ≤ r.2)) && decide (r.2 ≤ 64) &&
    decide (beyond k.names 0 128 ≤ r.1) && decide (beyond k.names 128 192 ≤ r.2) &&
    decide (k.lease.getD 0 ≤ 262144) && decide (k.scratch.getD 0 ≤ 128) && [1, 2, 4, 8].contains (k.gang.getD 1)

/-- The shape doubleword of a kernel table entry: SLICES, COS, SHD and CLB are zero (R66). -/
def Kernel.shape (k : Kernel) : Nat :=
  Nat.log2 (k.gang.getD 1) * 2 ^ 8 + k.registers.1 / 8 * 2 ^ 16 + k.scratch.getD 0 * 2 ^ 24 + (k.lease.getD 0 + 127) / 128 * 2 ^ 32

/-- The bytes of a statement in a code section that holds `before`, after some raw prefix lines. -/
def Statement.bytes (before : List Byte) (raw : List Prefix) : Statement → Except AsmError (List Byte)
  | .instr s => (match s.emitAfter raw with | .ok ws => .ok (ws.flatMap wordBytes) | .error e => .error e)
  | .pfx p => .ok (wordBytes (prefixWord p))
  | .datum d => Datum.bytes true before.length d

/-- The raw prefix lines just before the statement that follows one. -/
def Statement.rawAfter (raw : List Prefix) : Statement → List Prefix
  | .pfx p => raw ++ [p]
  | _ => []

/-- The bytes of a kernel's body in a code section that holds `before`; `raw` are the raw prefix lines just passed. -/
def bodyAfter (raw : List Prefix) (before : List Byte) : List Statement → Except AsmError (List Byte)
  | [] => .ok before
  | x :: xs =>
    match x.bytes before raw with
    | .ok y => bodyAfter (x.rawAfter raw) (before ++ y) xs
    | .error e => .error e

/-- The bytes of a kernel's body in a code section that holds `before`. -/
def bodyFrom (before : List Byte) (body : List Statement) : Except AsmError (List Byte) := bodyAfter [] before body

/-- What grauk's output file carries: the two sections, the kernel table and the string area (R66). -/
structure ObjectFile where
  text : List Byte
  data : List Byte
  table : List (List Byte)
  strings : List Byte
  deriving DecidableEq, Repr

/-- One 32-byte entry of the kernel table (R66). -/
def tableEntry (off shape s name : Nat) : List Byte := toBytes 8 off ++ toBytes 8 shape ++ toBytes 8 s ++ toBytes 8 name

/-- A kernel added to an output file: aligned to 64 bytes, its entry after the others (R65, R66). -/
def ObjectFile.add (o : ObjectFile) (k : Kernel) : Except AsmError ObjectFile :=
  if !k.sound then .error .directive
  else
    let t := o.text ++ padding o.text.length 64
    match bodyFrom t k.body with
    | .error e => .error e
    | .ok t' => .ok { o with
        text := t'
        table := o.table ++ [tableEntry t.length k.shape k.registers.2 o.strings.length]
        strings := o.strings ++ k.name ++ [0] }

/-- Kernels added in source order. -/
def addKernels (o : ObjectFile) : List Kernel → Except AsmError ObjectFile
  | [] => .ok o
  | k :: ks => match o.add k with | .ok o' => addKernels o' ks | .error e => .error e

/-- The output file of kernels and data (R66). -/
def assembleFile (ks : List Kernel) (ds : List Datum) : Except AsmError ObjectFile :=
  match dataSection ds with
  | .error e => .error e
  | .ok d => addKernels ⟨[], d, [], []⟩ ks

/-- The code pointer and the shape that a loader gives a record: the entry's offset relocated, its fields copied, and the loader's own SLICES, COS, SHD and CLB (R66). -/
def loadEntry (base off shape slices cos : Nat) (shd clb : Bool) : Dword × Dword :=
  (dword (base + off), dword (shape + slices + cos * 2 ^ 10 + (if shd then 2 ^ 48 else 0) + (if clb then 2 ^ 49 else 0)))

end Sys2Proof.Machine
end

