-- ==== Sys2Proof/Safety.lean ====
section
/-! DEFINITION. What the model calls a safe run, and the words that statements about one step are made of: when a subgang's instruction group is ready to take effect, what a step changes and what it leaves. -/

namespace Sys2Proof.Machine

/-- The outcome of a step is a next state. -/
def Completes (o : Outcome) : Prop := ∃ t, o = .next t

/-- Every memory of the state is in its canonical form, those of partitions swapped out included. -/
def State.memWf (s : State) : Prop :=
  s.mem.wf = true ∧
  (∀ g ∈ s.groups, g.scr.wf = true ∧ g.backing.wf = true ∧ (∀ sl ∈ g.slices, ∀ i, (sl.store.get i).wf = true) ∧
    ∀ x ∈ g.shadows, ∀ i, (x.slice.store.get i).wf = true) ∧
  (∀ d ∈ s.dies.cells, d.chp.wf = true ∧ ∀ m ∈ d.cls.cells, m.wf = true) ∧
  (∀ p ∈ s.partitions, (∀ x ∈ p.savedChp, x.2.wf = true) ∧ ∀ x ∈ p.savedCls, ∀ m ∈ x.2.cells, m.wf = true)

/-- What the end of a step leaves: a gang knows since when it waits exactly while all of its unended slices wait (R188); a partition being torn down has a unit or a group left (R369); a rewrite of the region table waits for a request of the current generation (R398); no packet between Mints goes on over a link that retrains (R411). -/
def State.settled (s : State) : Prop :=
  (∀ g ∈ s.groups, g.swapped = false → ∀ k, k < g.gangs.length → ((g.gang k).waitSince.isSome = true ↔ g.allWait k = true)) ∧
  (∀ p ∈ s.partitions, p.ending = true → (∃ u ∈ s.units, u.part = p.num) ∨ (∃ g ∈ s.groups, g.part = p.num)) ∧
  (s.rewrite ≠ none → ∃ n x, n < 16 ∧ x ∈ (s.base n).flights ++ (s.base n).stalled ∧ x.q.gen = s.generation) ∧
  (∀ p ∈ s.clearPackets, p.heldBy = none → p.fromDie ≠ p.toDie → s.ucie.getD (pairLink p.fromDie p.toDie) false = false)

/-! ### When a group takes effect -/

/-- Nothing stops a slice at a group, in the order of R56: it does not wait and has no remote load outstanding, some lane is effective, the words are legal, its registers are allocated, no cancel is pending, the instruction may stand in the slice's transaction, every register it reads or writes is full, no earlier group of its slice has something to do first, and it consumes no poison; under shadow execution the pair agrees. -/
abbrev Clear (s : State) (c : Ctx) : Prop :=
  (s.slice c.ref).wait = none ∧ s.awaitsRemote c = false ∧ c.eff ≠ 0 ∧ c.g.illegal c.eff = none ∧ c.g.beyond (s.slice c.ref) c.eff = none ∧ s.pending c.ref c.eff = none ∧
  (c.g.shape.txBad && (s.slice c.ref).tx.isSome) = false ∧ (∀ x ∈ c.g.reads ++ c.g.writes, (s.slice c.ref).emptyIn x c.eff = 0) ∧ s.mustFollow c = false ∧
  (∀ i ∈ c.eff.lanes, (s.slice c.ref).poisonIn c.g.consumes i = none) ∧ s.mismatch c = none

/-- A group that the subgang chosen to issue stands at, and that nothing stops in any of its slices `cs`; an engine it posts to has room. -/
abbrev Ready (s : State) (who : Issuer) (op : Nat) (wide : Bool) (p : List Prefix) (w : WForm) (cs : List Ctx) : Prop :=
  s.issuer = some who ∧ s.contexts who (Grp.of op wide p w (s.issueAddr who)) = cs ∧ cs ≠ [] ∧ (∀ c ∈ cs, Clear s c) ∧
  ((Grp.of op wide p w (s.issueAddr who)).shape.fifo = .none ∨
    cs.length ≤ (s.core (s.group who.gid).coreRef).room (Grp.of op wide p w (s.issueAddr who)).shape.fifo)

/-! ### What a step leaves -/

/-- The whole device but its groups is as it was: memory, dies, cores, the control die. -/
abbrev SameDevice (s t : State) : Prop := { t with groups := s.groups } = s

/-- Nothing changes but in some slices of one group, in that group's GSAT, and in how its gangs divide into subgangs (R132). -/
structure OnlySlices (s t : State) (gid : Nat) (ids : List Nat) : Prop where
  device : SameDevice s t
  others : ∀ k, k ≠ gid → t.group k = s.group k
  group : { t.group gid with slices := (s.group gid).slices, gangs := (s.group gid).gangs, gsat := (s.group gid).gsat } = s.group gid
  count : (t.group gid).slices.length = (s.group gid).slices.length
  gangs : ∀ k, { (t.group gid).gang k with parted := ((s.group gid).gang k).parted } = (s.group gid).gang k
  slices : ∀ i, i ∉ ids → { (t.group gid).slice i with sub := ((s.group gid).slice i).sub } = (s.group gid).slice i

/-- Results of one or two words written to d in the effective lanes. -/
def Slice.put (sl : Slice) (n d : Nat) (eff : Mask) (x : Lanes Dword) : Slice :=
  if n = 2 then sl.setPairs d eff x else sl.setLanes d eff (Lanes.ofFn (fun i => (x.get i).extractLsb' 0 32))

/-- Flags raised in the effective lanes unless NF is set (R28, R96). -/
def Slice.raise (sl : Slice) (c : Ctx) (f : Lanes Flags) : Slice := if c.g.w.nf then sl else sl.orFlags c.eff f

/-- Whether a group's flags saturate in some effective lane, so that it sets GSAT (R28). -/
def saturates (c : Ctx) (f : Lanes Flags) : Bool := !c.g.w.nf && c.eff.lanes.any (fun i => (f.get i).getLsbD 5)

/-- Mask bits written in the effective lanes. -/
def Slice.putMask (sl : Slice) (k : Nat) (eff : Mask) (f : Nat → Bool) : Slice := sl.setMask k ((sl.mask k &&& ~~~eff) ||| (eff &&& Mask.ofFn f))

/-- What a slice is after its region is closed, where the instruction closes it (R149), and its paths are brought together, where it acquires (R332). -/
def Grp.closed (g : Grp) (sl : Slice) : Slice :=
  let sl := if g.shape.closes then { sl with regpc := 0 } else sl
  if g.shape.acquires then { sl with pathStores := [] } else sl

/-- The group takes effect in the slices `cs` of the issuing subgang and in nothing else: each becomes `f` of what it was and stands at `pc`, in some subgang; `sat` says which set GSAT. -/
def Lands (i : Instr) (s : State) (who : Issuer) (cs : List Ctx) (f : Ctx → Slice → Slice) (pc : Ctx → Slice → Dword) (sat : Ctx → Slice → Bool) : Prop :=
  ∃ t, exec i s = .next t ∧ OnlySlices s t who.gid (cs.map (fun c => c.ref.idx)) ∧
    (∀ c ∈ cs, ∃ l, t.slice c.ref = { f c (s.slice c.ref) with pc := pc c (s.slice c.ref), sub := l }) ∧
    (t.group who.gid).gsat = ((s.group who.gid).gsat || cs.any (fun c => sat c (s.slice c.ref)))

/-- No slice sets GSAT. -/
def never (_ : Ctx) (_ : Slice) : Bool := false

/-- The group takes effect in the slices `cs`, which go on after it. -/
def Performs (i : Instr) (s : State) (who : Issuer) (cs : List Ctx) (f : Ctx → Slice → Slice) (sat : Ctx → Slice → Bool) : Prop :=
  Lands i s who cs f (fun c _ => c.g.next) sat

/-- The group writes one result of `n` words in each effective lane of each slice, with the flags it raises, and changes nothing else. -/
def Results (n : Ctx → Nat) (val : Ctx → Slice → Nat → Dword) (flags : Ctx → Slice → Nat → Flags) (i : Instr) (s : State) (who : Issuer) (cs : List Ctx) : Prop :=
  Performs i s who cs (fun c sl => (sl.put (n c) c.g.w.d.toNat c.eff (Lanes.ofFn (val c sl))).raise c (Lanes.ofFn (flags c sl)))
    (fun c sl => saturates c (Lanes.ofFn (flags c sl)))

/-- A result that raises no flag. -/
def quiet (_ : Ctx) (_ : Slice) (_ : Nat) : Flags := 0

/-! ### Instructions and their operands -/

/-- What a W-form instruction does wherever nothing stops it. -/
def EachW (op : Nat) (i : List Prefix → WForm → Instr) (P : Instr → State → Issuer → List Ctx → Prop) : Prop :=
  ∀ s who p w cs, Ready s who op true p w cs → P (i p w) s who cs

/-- What a C-form instruction does wherever nothing stops it: it behaves as its wide form (R44). -/
def EachC (op : Nat) (i : List Prefix → CForm → Instr) (P : Instr → State → Issuer → List Ctx → Prop) : Prop :=
  ∀ s who p w cs, Ready s who op false p (expand w) cs → P (i p w) s who cs

/-- A C-capable instruction in both forms. -/
def EachForm (op : Nat) (iw : List Prefix → WForm → Instr) (ic : List Prefix → CForm → Instr) (P : Instr → State → Issuer → List Ctx → Prop) : Prop :=
  EachW op iw P ∧ EachC op ic P

/-- Words of an operand under ITY, W64 and FTY (R94). -/
def ityN (c : Ctx) : Nat := ityWords (ityOf c)
def w64N (c : Ctx) : Nat := w64 c.g.w
def ftyN (c : Ctx) : Nat := ftyWords (ftyOf c)

/-- Operands a, b and c of `n` words in a lane. -/
def Ctx.a (c : Ctx) (n : Nat) (sl : Slice) (i : Nat) : Dword := sl.operandN n c.g0 c.g.w.a.toNat i
def Ctx.b (c : Ctx) (n : Nat) (sl : Slice) (i : Nat) : Dword := sl.operandB c.g.pfx n c.g0 c.g.w.b.toNat i
def Ctx.c (c : Ctx) (n : Nat) (sl : Slice) (i : Nat) : Dword := sl.operandN n c.g0 c.g.w.c.toNat i

/-- The result of an operation on one or two words. -/
def byWidth (n : Nat) (f32 : Word → Word → Word) (f64 : Dword → Dword → Dword) (a b : Dword) : Dword :=
  if n = 2 then f64 a b else (f32 (a.extractLsb' 0 32) (b.extractLsb' 0 32)).zeroExtend 64

/-- An operation on a and b of `n` words. -/
def onAB (n : Ctx → Nat) (f32 : Word → Word → Word) (f64 : Dword → Dword → Dword) (c : Ctx) (sl : Slice) (i : Nat) : Dword :=
  byWidth (n c) f32 f64 (c.a (n c) sl i) (c.b (n c) sl i)

/-- An operation whose signed and unsigned forms differ, chosen by ITY. -/
def bySign (sg un : Ctx → Slice → Nat → Dword) (c : Ctx) (sl : Slice) (i : Nat) : Dword := if itySigned c then sg c sl i else un c sl i

/-- A shift of a by the 32-bit b. -/
def onShift (f32 : Word → Nat → Word) (f64 : Dword → Nat → Dword) (c : Ctx) (sl : Slice) (i : Nat) : Dword :=
  byWidth (w64N c) (fun x _ => f32 x (c.b 1 sl i).toNat) (fun x _ => f64 x (c.b 1 sl i).toNat) (c.a (w64N c) sl i) 0

/-- The 32-bit value a register operand holds in its low word. -/
def lowWord (x : Dword) : Word := x.extractLsb' 0 32

/-- The integer that an operand of `n` words is read as under ITY (R94, R100). -/
def Ctx.int (c : Ctx) (n : Nat) (x : Dword) : Int :=
  if itySigned c then (if n = 2 then x.toInt else (lowWord x).toInt) else (x.toNat : Int)

/-- The outcome of an ICMP condition (R104). -/
def icmpTable (cond : Nat) (a b : Int) : Bool :=
  match cond with
  | 0 => decide (a = b)
  | 1 => decide (a ≠ b)
  | 2 => decide (a < b)
  | 3 => decide (a ≤ b)
  | 4 => decide (a > b)
  | _ => decide (a ≥ b)

/-- The outcome of an FCMP condition on an ordered pair, where `o` is the order of a and b, and on a pair with a NaN (R104). -/
def fcmpTable (cond : Nat) (nan : Bool) (o : Ordering) : Bool :=
  match cond, nan with
  | 0, false => o == .eq
  | 1, false => o != .eq
  | 2, false => o == .lt
  | 3, false => o == .lt || o == .eq
  | 4, false => o == .gt
  | 5, false => o == .gt || o == .eq
  | 7, false => true
  | 1, true => true
  | 6, true => true
  | _, _ => false

/-- The exact value of an operand under FTY. -/
def Ctx.fa (c : Ctx) (sl : Slice) (i : Nat) : Num := (ftyFmt (ftyOf c)).decode (c.a (ftyN c) sl i).toNat
def Ctx.fb (c : Ctx) (sl : Slice) (i : Nat) : Num := (ftyFmt (ftyOf c)).decode (c.b (ftyN c) sl i).toNat
def Ctx.fc (c : Ctx) (sl : Slice) (i : Nat) : Num := (ftyFmt (ftyOf c)).decode (c.c (ftyN c) sl i).toNat

/-- An exact result under FTY, rounded once and delivered with its flags (R97). -/
def Rounds (v : Ctx → Slice → Nat → Flagged) : Instr → State → Issuer → List Ctx → Prop :=
  Results ftyN (fun c sl i => dword ((ftyFmt (ftyOf c)).round (rmOf c sl) (v c sl i).num).bits)
    (fun c sl i => (v c sl i).flags ||| ((ftyFmt (ftyOf c)).round (rmOf c sl) (v c sl i).num).flags)

/-- The target of a relative transfer: TGT is mod[63:58], the c field and the b field, in words from the group (R123). -/
def Ctx.target (c : Ctx) : Dword := c.g.addr + 4 * (c.g.w.mod.extractLsb' 8 6 ++ c.g.w.c ++ c.g.w.b).signExtend 64

/-- A 64-bit address in the `s` pair that a names. -/
def Ctx.pairA (c : Ctx) (sl : Slice) : Dword := joinWords (sl.reg c.g.w.a.toNat 0) (sl.reg (c.g.w.a.toNat + 1) 0)

/-- The entries of the mask stack, newest first: those on chip, then the spilled ones (R33). -/
def Slice.entries (sl : Slice) : List StackEntry := sl.stack ++ (List.range sl.spilled).reverse.map sl.spilledEntry

/-! ### A subgang of one slice -/

/-- The group of a one-slice subgang leaves the state `u`, with the slice at `pc`. -/
def Leaves (i : Instr) (s : State) (who : Issuer) (c : Ctx) (u : State) (pc : Dword) : Prop :=
  exec i s = .next ((u.modSlice c.ref (fun sl => { sl with pc := pc })).divide who.gid who.gang)

/-- The group of a one-slice subgang takes a trap from the state `u` (R143). -/
def Traps (i : Instr) (s : State) (who : Issuer) (c : Ctx) (u : State) (t : Trap) : Prop :=
  exec i s = .next ((u.takeTrap c.ref c.g.addr t).divide who.gid who.gang)

/-- The group of a one-slice subgang leaves the state `u`, with the slice parked in a wait and a subgang of its own (R133). -/
def Parks (i : Instr) (s : State) (who : Issuer) (c : Ctx) (u : State) (w : Wait) : Prop :=
  exec i s = .next (((u.modSlice c.ref (fun sl => { sl with wait := some w })).modSlice c.ref (fun sl => { sl with sub := loneLabel c.ref.idx })).divide who.gid who.gang)

/-! ### Slices that act one after another -/

/-- The parts of some slices carried out in ascending order, each from the state that the one before left. -/
def Chain (part : Ctx → State → State → Prop) : List Ctx → State → State → Prop
  | [], s, u => u = s
  | c :: cs, s, u => ∃ v, part c s v ∧ Chain part cs v u

/-- The slices `cs` go on after their group, from the state `u` that their parts left. -/
def State.goingOn (u : State) (who : Issuer) (cs : List Ctx) : State :=
  (cs.foldl (fun v c => v.modSlice c.ref (fun sl => { sl with pc := c.g.next })) u).divide who.gid who.gang

/-- Wherever every slice of the subgang can carry out its part, in ascending order, the group takes effect whole: its slices go on after it. -/
def Goes (part : Ctx → State → State → Prop) (i : Instr) (s : State) (who : Issuer) (cs : List Ctx) : Prop :=
  ∀ g u, (∀ c ∈ cs, c.g = g) → Chain part cs (s.closing g cs) u → exec i s = .next (u.goingOn who cs)

/-! ### Memory instructions -/

/-- Places of memory: those that name a lane name one of the four, and the device's registers are none. -/
def Place.real : Place → Prop
  | .lane _ l _ => l < 4
  | .reg _ => False
  | _ => True

/-- The effective lanes of an access, whose address checks pass, reach places: `p` is the place of each lane and `v` the state after their translation. No lane joins a transaction. -/
def Access.Reaches (a : Access) (c : Ctx) (s : State) (v : State) (p : Nat → Place) : Prop :=
  a.check (s.group c.ref.gid) (s.slice c.ref) = none ∧ a.transacts (s.slice c.ref) = false ∧
  (s.noteStale c.ref a).spots c.ref a (a.windowOf (s.slice c.ref)) false a.todo = (v, a.todo.map (fun i => (i, Spot.at_ (p i))))

/-- Values on their way to the destination of an access, for the lanes of the destination that lane `i` serves (R22, R157). -/
def State.owing (s : State) (r : SliceRef) (a : Access) (i : Nat) (ws : List Word) (mark : Option Dword) : State :=
  (a.targets i).foldl (fun s l => s.modSlice r (fun sl => { sl with owed := sl.owed ++ [⟨a.dst, a.regs, l, ws, mark⟩] })) s

/-- The access of a memory instruction under its size code. -/
def Ctx.access (c : Ctx) (op : AccessOp) (returns acquire release once : Bool) (sl : Slice) : Access :=
  let z := sizeOf (WForm.field c.g.w 56 54)
  memAccess op z.1 z.2.1 z.2.2 returns acquire release once 1 c sl

/-- The state with the destination of an access empty in its effective lanes (R22). -/
def State.emptied (s : State) (c : Ctx) (a : Access) : State := s.modSlice c.ref (fun sl => sl.makeEmptyN a.dst a.regs a.eff)

/-- The place of a word: its space, its home and its number there (R164, R169). -/
def Place.word (p : Place) : Space × Nat × Nat := (p.space, p.home, p.off / 8)

/-- The words of some lanes differ. -/
def Apart (is : List Nat) (p : Nat → Place) : Prop := ∀ i ∈ is, ∀ j ∈ is, i ≠ j → (p i).word ≠ (p j).word

/-- No condition on the places. -/
def anywhere (_ : State) (_ : List Nat) (_ : Nat → Place) : Prop := True

/-- One slice's part of a memory instruction that makes its destination empty, where every lane reaches a place, these satisfy `ok`, and `lane` says what is done there. -/
def Gives (ok : State → List Nat → (Nat → Place) → Prop) (a : Ctx → Slice → Access) (lane : Ctx → Access → State → Nat → Place → State) (c : Ctx) (s u : State) : Prop :=
  ∃ v p, (a c (s.slice c.ref)).Reaches c (s.emptied c (a c (s.slice c.ref))) v p ∧ ok v (a c (s.slice c.ref)).todo p ∧
    u = ((a c (s.slice c.ref)).todo.foldl (fun x i => (lane c (a c (s.slice c.ref)) x i (p i)).unparkLane c.ref i) v).finishAccess c.ref (a c (s.slice c.ref))

/-- One slice's part of a memory instruction without a destination. -/
def Puts (ok : State → List Nat → (Nat → Place) → Prop) (a : Ctx → Slice → Access) (lane : Ctx → Access → State → Nat → Place → State) (c : Ctx) (s u : State) : Prop :=
  ∃ v p, (a c (s.slice c.ref)).Reaches c s v p ∧ ok v (a c (s.slice c.ref)).todo p ∧
    u = ((a c (s.slice c.ref)).todo.foldl (fun x i => (lane c (a c (s.slice c.ref)) x i (p i)).unparkLane c.ref i) v).finishAccess c.ref (a c (s.slice c.ref))

/-- The checks of R156 and R314 on `n` bytes in each effective lane, in order: the lanes that fail, the cause and the information. `once` is an access of the lowest lane for all (LDS). -/
def Ctx.addressChecks (c : Ctx) (g : Group) (sl : Slice) (n align : Nat) (once : Bool) : List (Mask × Nat × Nat) :=
  let sp := spaceOf c.g.pfx.space
  let size := match sp with | .glb => 0 | .scr => 4096 * g.pages | .cls => 2 ^ 20 | .chp => 2 ^ 25 | .lane => 2 ^ 8
  let bad (f : Dword → Bool) : Mask :=
    if once then (if f (effAddr c sl (c.eff.lanes.headD 0)) then c.eff else 0) else c.eff &&& Mask.ofFn (fun i => f (effAddr c sl i))
  [(if sp = .glb then 0 else bad (fun ea => decide (size < ea.toNat + n)), 0x0A, c.g.pfx.space),
   (if sp = .glb then bad (fun ea => !(decide (ea.toNat < 2 ^ 56) || decide (2 ^ 64 - 2 ^ 56 ≤ ea.toNat))) else 0, 0x09, 1),
   (if sp = .lane ∧ 0 < sl.spilled then bad (fun ea => decide (0xC0 < ea.toNat + n)) else 0, 0x09, 5),
   (bad (fun ea => decide (ea.toNat % align ≠ 0)), 0x07, align)]

end Sys2Proof.Machine
end

