-- ==== Sys2Proof/WellFormed.lean ====
section
/-! DEFINITION. Which terms of the syntax stand for something: raw groups that really decode to no instruction, and events whose parameters lie in their ranges. -/

namespace Sys2Proof

/-- A raw group is the words of a group that is no instruction: prefix words, then a word of its own length that is reserved, unassigned or not C-capable, or follows a prefix of a reserved kind (R39, R41, R56). -/
def RawGroup.wellFormed (g : RawGroup) : Bool :=
  let k := (g.word.extractLsb' 0 2).toNat
  g.prefixes.all (fun x => x.extractLsb' 0 2 == 2#2) && decide (k ≠ 2) && (g.wide == decide (k = 1)) && (g.wide || g.word.extractLsb' 32 32 == 0#32) &&
    (match prefixesOf g.prefixes with
     | none => true
     | some ps =>
       k == 3 || (k == 1 && (wideInstr (g.word.extractLsb' 2 8) ps (wideFields g.word)).isNone)
         || (k == 0 && (compactInstr (g.word.extractLsb' 2 8) ps (compactFields (g.word.extractLsb' 0 32))).isNone))

/-- A core of the package: eight dies of 96 cores (R37). -/
def CoreRef.wellFormed (c : CoreRef) : Bool := decide (c.die < 8) && decide (c.core < 96)

/-- A region-table entry within its field widths, naming at least one stack when it is device memory (R396). -/
def RegionEntry.wellFormed (e : RegionEntry) : Bool :=
  decide (e.kind < 3) && decide (e.hdie < 8) && decide (e.port < 2) && decide (e.sofs < 2 ^ 24) && decide (e.size < 2 ^ 22) && decide (e.base < 2 ^ 22) &&
    (e.kind != 0 || e.stackMask != 0)

/-- A request to a base die within its field widths, of an aligned line (R400). -/
def BaseRequest.wellFormed (q : BaseRequest) : Bool :=
  decide (q.stack < 16) && decide (q.tag < 8) && decide (q.gen < 256) && decide (q.line < 2 ^ 36) && q.line % 128 == 0

/-- A MAP command: a canonical page-aligned address, a size code, an aligned frame (R379 to R381). -/
def MapCommand.wellFormed (m : MapCommand) : Bool := decide (m.size < 8) && m.va.extractLsb' 0 12 == 0#12 && m.frame % 4096 == 0 && decide (m.frame < 2 ^ 52)

/-- The key of a level: codes 1 to 4 and ids within their widths (R358, R360). -/
def LevelKey.wellFormed (k : LevelKey) : Bool :=
  decide (k.level ≤ 4) && decide (k.job < 256) && decide (k.phase < 256) && decide (k.graph < 65536) && decide (k.launch < 2 ^ 32)

/-- Where an entry under parity may lie (R412). -/
def ParityEntry.wellFormed : ParityEntry → Bool
  | .l1 c line => c.wellFormed && decide (line < 2 ^ 45)
  | .tlb c part vpage => c.wellFormed && decide (part < 8) && decide (vpage < 2 ^ 57)
  | .walk part entry => decide (part < 8) && decide (entry < 2 ^ 52)
  | .panel c start => c.wellFormed && decide (start < 2 ^ 18)
  | .stage c x => c.wellFormed && decide (x < 2)
  | .store c => c.wellFormed

/-- Where an error may strike (R412). -/
def ErrorSite.wellFormed : ErrorSite → Bool
  | .memory pa => decide (pa < 2 ^ 52)
  | .scr _ off => decide (off < 128 * 4096)
  | .cls die cl off => decide (die < 8) && decide (cl < 12) && decide (off < 2 ^ 20)
  | .chp die off => decide (die < 8) && decide (off < 2 ^ 25)
  | .laneStore _ lane off => decide (lane < 4) && decide (off < 256)
  | .register _ spec lane => decide (spec < 192) && decide (lane < 4)
  | .tile c t row col => c.wellFormed && decide (t < 4) && decide (row < 32) && decide (col < 32)
  | .coins c g => c.wellFormed && decide (g < 64)
  | .parity e => e.wellFormed
  | .sliceControl _ => true
  | .coreShared c => c.wellFormed
  | .dieShared d => decide (d < 8)
  | .controlDie => true

/-- Whether a term of the syntax stands for an instruction or an event of the device. -/
def Instr.wellFormed : Instr → Bool
  | .nopC _ _ => true
  | .nop _ _ => true
  | .movC _ _ => true
  | .mov _ _ => true
  | .sel _ _ => true
  | .iaddC _ _ => true
  | .iadd _ _ => true
  | .isubC _ _ => true
  | .isub _ _ => true
  | .imulC _ _ => true
  | .imul _ _ => true
  | .imulh _ _ => true
  | .imad _ _ => true
  | .idiv _ _ => true
  | .irem _ _ => true
  | .iminC _ _ => true
  | .imin _ _ => true
  | .imaxC _ _ => true
  | .imax _ _ => true
  | .iabs _ _ => true
  | .icmp _ _ => true
  | .andC _ _ => true
  | .and _ _ => true
  | .orC _ _ => true
  | .or _ _ => true
  | .xorC _ _ => true
  | .xor _ _ => true
  | .notC _ _ => true
  | .not _ _ => true
  | .shlC _ _ => true
  | .shl _ _ => true
  | .shrC _ _ => true
  | .shr _ _ => true
  | .sarC _ _ => true
  | .sar _ _ => true
  | .rot _ _ => true
  | .bfx _ _ => true
  | .bfi _ _ => true
  | .popc _ _ => true
  | .clz _ _ => true
  | .brev _ _ => true
  | .lea _ _ => true
  | .lxch _ _ => true
  | .poll _ _ => true
  | .gfold _ _ => true
  | .bperm _ _ => true
  | .faddC _ _ => true
  | .fadd _ _ => true
  | .fsubC _ _ => true
  | .fsub _ _ => true
  | .fmulC _ _ => true
  | .fmul _ _ => true
  | .ffma _ _ => true
  | .fminC _ _ => true
  | .fmin _ _ => true
  | .fmaxC _ _ => true
  | .fmax _ _ => true
  | .fdiv _ _ => true
  | .fsqrt _ _ => true
  | .frcp _ _ => true
  | .frsq _ _ => true
  | .fexp2 _ _ => true
  | .flog2 _ _ => true
  | .fsin _ _ => true
  | .fcos _ _ => true
  | .fcmp _ _ => true
  | .fclass _ _ => true
  | .cvt _ _ => true
  | .cvtn _ _ => true
  | .packbx _ _ => true
  | .unpkbx _ _ => true
  | .frnd _ _ => true
  | .fscale _ _ => true
  | .fdot2 _ _ => true
  | .fdot4 _ _ => true
  | .idot4 _ _ => true
  | .rsplit _ _ => true
  | .rnext _ _ => true
  | .runif _ _ => true
  | .iaddx _ _ => true
  | .bra _ _ => true
  | .brx _ _ => true
  | .cbr _ _ => true
  | .call _ _ => true
  | .ret _ _ => true
  | .split _ _ => true
  | .joinC _ _ => true
  | .join _ _ => true
  | .loop _ _ => true
  | .part _ _ => true
  | .regang _ _ => true
  | .elect _ _ => true
  | .exitC _ _ => true
  | .exit _ _ => true
  | .trap _ _ => true
  | .bkpt _ _ => true
  | .srd _ _ => true
  | .swr _ _ => true
  | .setfmt _ _ => true
  | .region _ _ => true
  | .yieldC _ _ => true
  | .yield _ _ => true
  | .lease _ _ => true
  | .leaseq _ _ => true
  | .ld _ _ => true
  | .st _ _ => true
  | .ldw _ _ => true
  | .ldc _ _ => true
  | .stf _ _ => true
  | .feq _ _ => true
  | .feset _ _ => true
  | .bwin _ _ => true
  | .bwrel _ _ => true
  | .pref _ _ => true
  | .fence _ _ => true
  | .lds _ _ => true
  | .cpy _ _ => true
  | .cpyg _ _ => true
  | .cpyr _ _ => true
  | .cseal _ _ => true
  | .cwait _ _ => true
  | .qinit _ _ => true
  | .qpush _ _ => true
  | .qpop _ _ => true
  | .qpeek _ _ => true
  | .binit _ _ => true
  | .bexp _ _ => true
  | .barv _ _ => true
  | .bwait _ _ => true
  | .gsyncC _ _ => true
  | .gsync _ _ => true
  | .sppin _ _ => true
  | .spunp _ _ => true
  | .mcast _ _ => true
  | .hbar _ _ => true
  | .mlay _ _ => true
  | .mldb _ _ => true
  | .mlda _ _ => true
  | .mzero _ _ => true
  | .mma _ _ => true
  | .mmam _ _ => true
  | .mmask _ _ => true
  | .mst _ _ => true
  | .mldc _ _ => true
  | .mtrans _ _ => true
  | .mgather _ _ => true
  | .mbatch _ _ => true
  | .mwait _ _ => true
  | .stc _ _ => true
  | .maccr _ _ => true
  | .mncpl _ _ => true
  | .mnbias _ _ => true
  | .mnclamp _ _ => true
  | .mnfree _ _ => true
  | .mnbeta _ _ => true
  | .mnmode _ _ => true
  | .mnsweep _ _ => true
  | .mnpick _ _ => true
  | .mnread _ _ => true
  | .mnstate _ _ => true
  | .mnwait _ _ => true
  | .mnreset _ _ => true
  | .atom _ _ => true
  | .atomr _ _ => true
  | .atomp _ _ => true
  | .bfins _ _ => true
  | .bffcs _ _ => true
  | .bfpls _ _ => true
  | .txb _ _ => true
  | .txc _ _ => true
  | .txa _ _ => true
  | .atomw _ _ => true
  | .spawn _ _ => true
  | .jdec _ _ => true
  | .jwait _ _ => true
  | .launch _ _ => true
  | .cancel _ _ => true
  | .tdone _ _ => true
  | .twait _ _ => true
  | .prio _ _ => true
  | .puts _ _ => true
  | .getr _ _ => true
  | .sigw _ _ => true
  | .illegalInstructionGroup g => g.wellFormed
  | .loadValueArrival _ _ => true
  | .feReissue _ lane => decide (lane < 4)
  | .retryBudgetExhausted _ => true
  | .faultReplay _ => true
  | .resolve _ _ => true
  | .fail _ _ => true
  | .pageWalk c _ _ => c.wellFormed
  | .windowRetranslation _ k => decide (k < 8)
  | .migrationRequest _ _ => true
  | .hostMigrationRequest _ _ => true
  | .moveComplete _ _ => true
  | .pinExpiry _ _ => true
  | .pinnedRemoteService _ => true
  | .map pt m => decide (pt < 8) && m.wellFormed
  | .unmap _ _ => true
  | .protect _ _ _ => true
  | .regionTableRewrite es => decide (es.length ≤ 1024) && es.all RegionEntry.wellFormed
  | .rd q => q.wellFormed
  | .wr q => q.wellFormed && q.data.length == 128
  | .wrm q => q.wellFormed && q.data.length == 128
  | .rdr sk _ tag => decide (sk < 16) && decide (tag < 8)
  | .wack sk _ tag => decide (sk < 16) && decide (tag < 8)
  | .scrub sk line => decide (sk < 16) && decide (line < 2 ^ 36)
  | .copyLineLands c _ _ => c.wellFormed
  | .copyResume c _ => c.wellFormed
  | .refill _ _ _ => true
  | .unpinWriteback _ _ => true
  | .matrixCommandExecute c => c.wellFormed
  | .mintCommandExecute c => c.wellFormed
  | .mintSweep c => c.wellFormed
  | .mintPickStep c => c.wellFormed
  | .labelArrival _ => true
  | .subscription _ => true
  | .clearingTimeout c => c.wellFormed
  | .hbarSlotAdmit _ => true
  | .reservationLapse _ => true
  | .conflict _ => true
  | .commit die => decide (die < 8)
  | .leaseActivation c => c.wellFormed
  | .issueSelection c pipe => c.wellFormed && decide (pipe < 4)
  | .gangIdle _ _ => true
  | .leaseWindowEnd c => c.wellFormed
  | .hostEnqueue _ _ => true
  | .enqueueAreaWaitEnd _ => true
  | .placement die => decide (die < 8)
  | .groupCompletion _ => true
  | .unitCompletion _ => true
  | .tokenRound pt k => decide (pt < 8) && k.wellFormed
  | .cycleBudget _ => true
  | .cancelTaken _ => true
  | .hostCancel pt k => decide (pt < 8) && k.wellFormed
  | .partitionCreate port c => decide (port < 2) && decide (c.num < 8)
  | .partitionTeardown port pt => decide (port < 2) && decide (pt < 8)
  | .preempt _ => true
  | .resume _ => true
  | .acq ports k => decide (k < 16) && ports.all (fun p => decide (p < 3))
  | .rel port k => decide (k < 16) && decide (port < 3)
  | .portLinkReset port => decide (port < 2)
  | .routineSlotLoad port pt k _ => decide (port < 2) && decide (pt < 8) && decide (k < 16)
  | .thrashParameters _ _ _ _ => true
  | .lctlWrite pt c _ => decide (pt < 8) && c.wellFormed
  | .peerTableWrite pt k e => decide (pt < 8) && decide (k < 256) && decide (e.package < 4096) && decide (e.part < 8)
  | .registerWrite port _ _ => decide (port < 2)
  | .timeRefresh die _ _ => decide (die < 8)
  | .uncorrectableError x => x.wellFormed
  | .correctedError _ _ _ => true
  | .errorCountPoll => true
  | .dieReset die _ => decide (die < 8)
  | .controlDieReset b => b.hostRanges.all RegionEntry.wellFormed
  | .recoveryBoot _ => true
  | .firmwareUpdate _ _ => true
  | .firmwareCommit _ => true
  | .attestationReport _ _ => true
  | .moduleCap _ => true
  | .stepControl die _ _ => decide (die < 8)
  | .baseDieThermal sk _ => decide (sk < 16)
  | .flitReceive k _ => decide (k < 24)
  | .linkRetrain k => decide (k < 24)
  | .linkBringUp k => decide (k < 24)
  | .ucieRetrain k => decide (k < 36)
  | .routeRecompute _ => true
  | .packetRetransmit _ _ => true
  | .packetArrival _ => true
  | .packetAcknowledged _ _ _ => true
  | .jobBarrierMessage _ => true
  | .cxlMemRead _ _ _ => true
  | .cxlMemWrite _ _ _ _ => true
  | .retrainComplete k _ _ => decide (k < 24)
  | .ucieRetrainEnd k => decide (k < 36)
  | .backInvalidateResponse _ => true

end Sys2Proof
end

