-- ==== Sys2Proof/Certificates/Slice0/Obligations.lean ====
section
/-! DEFINITION. The statements for the provers, in the order of the spec's chapters. -/

open Sys2Proof Sys2Proof.Machine

/-! ### Lane arithmetic -/

/-- R98, R99, R414: NOP only advances the PC; MOV and SEL write the bits of the chosen operand, and its poison marks, to d in the effective lanes. -/
def Obligations.MovesCopyBits : Prop :=
  EachForm 0x00 .nop .nopC (fun i s who cs => Performs i s who cs (fun _ sl => sl) never) ∧
  EachForm 0x01 .mov .movC (fun i s who cs => Performs i s who cs (fun c sl => (List.range (w64N c)).foldl (fun x k =>
    x.setLanesP (c.g.w.d.toNat + k) c.eff (Lanes.ofFn (fun i => (c.a (w64N c) sl i).extractLsb' (32 * k) 32))
      (Lanes.ofFn (fun i => carried sl c.g.w.a.toNat k i))) sl) never) ∧
  EachW 0x02 .sel (fun i s who cs => Performs i s who cs (fun c sl =>
    let first (i : Nat) : Bool := (sl.mask (WForm.field c.g.w 53 51)).getLsbD i
    (List.range (w64N c)).foldl (fun x k =>
      x.setLanesP (c.g.w.d.toNat + k) c.eff
        (Lanes.ofFn (fun i => (if first i then c.a (w64N c) sl i else sl.operandN (w64N c) c.g0 c.g.w.b.toNat i).extractLsb' (32 * k) 32))
        (Lanes.ofFn (fun i => carried sl (if first i then c.g.w.a.toNat else c.g.w.b.toNat) k i))) sl) never)

/-- R100 to R103: the integer instructions, modulo 2^w and without flags; a zero divisor in any effective lane of an IDIV or IREM takes trap 0x0D with the lanes that have one, and nothing is written; IADDX adds or subtracts with the carry or borrow in a mask register; LEA forms base plus scaled index. -/
def Obligations.IntegerArithmetic : Prop :=
  EachForm 0x03 .iadd .iaddC (Results ityN (onAB ityN (· + ·) (· + ·)) quiet) ∧
  EachForm 0x04 .isub .isubC (Results ityN (onAB ityN (· - ·) (· - ·)) quiet) ∧
  EachForm 0x05 .imul .imulC (Results ityN (onAB ityN (· * ·) (· * ·)) quiet) ∧
  EachW 0x06 .imulh (Results ityN (bySign
    (onAB ityN (fun x y => (x.signExtend 64 * y.signExtend 64).extractLsb' 32 32) (fun x y => (x.signExtend 128 * y.signExtend 128).extractLsb' 64 64))
    (onAB ityN (fun x y => (x.zeroExtend 64 * y.zeroExtend 64).extractLsb' 32 32) (fun x y => (x.zeroExtend 128 * y.zeroExtend 128).extractLsb' 64 64))) quiet) ∧
  EachW 0x07 .imad (Results ityN (fun c sl i =>
    onAB ityN (fun x y => x * y + lowWord (c.c (ityN c) sl i)) (fun x y => x * y + c.c (ityN c) sl i) c sl i) quiet) ∧
  EachForm 0x0A .imin .iminC (Results ityN (bySign
    (onAB ityN (fun x y => if x.sle y then x else y) (fun x y => if x.sle y then x else y))
    (onAB ityN (fun x y => if x.ule y then x else y) (fun x y => if x.ule y then x else y))) quiet) ∧
  EachForm 0x0B .imax .imaxC (Results ityN (bySign
    (onAB ityN (fun x y => if y.sle x then x else y) (fun x y => if y.sle x then x else y))
    (onAB ityN (fun x y => if y.ule x then x else y) (fun x y => if y.ule x then x else y))) quiet) ∧
  EachW 0x0C .iabs (Results ityN (onAB ityN (fun x _ => if x.slt 0 then -x else x) (fun x _ => if x.slt 0 then -x else x)) quiet) ∧
  EachW 0x08 .idiv (fun i s who cs => (∀ c ∈ cs, ∀ j ∈ c.eff.lanes, c.b (ityN c) (s.slice c.ref) j ≠ 0) →
    Results ityN (bySign (onAB ityN BitVec.sdiv BitVec.sdiv) (onAB ityN (· / ·) (· / ·))) quiet i s who cs) ∧
  EachW 0x09 .irem (fun i s who cs => (∀ c ∈ cs, ∀ j ∈ c.eff.lanes, c.b (ityN c) (s.slice c.ref) j ≠ 0) →
    Results ityN (bySign (onAB ityN BitVec.srem BitVec.srem) (onAB ityN (· % ·) (· % ·))) quiet i s who cs) ∧
  (∀ s who p w c, let zero := c.eff &&& Mask.ofFn (fun i => c.b (ityN c) (s.slice c.ref) i == 0)
    zero ≠ 0 →
    (Ready s who 0x08 true p w [c] → Traps (.idiv p w) s who c s ⟨0x0D, c.g.addr, zero, 0⟩) ∧
    (Ready s who 0x09 true p w [c] → Traps (.irem p w) s who c s ⟨0x0D, c.g.addr, zero, 0⟩)) ∧
  EachW 0x3C .iaddx (fun i s who cs => Performs i s who cs (fun c sl =>
    let k := WForm.field c.g.w 52 50
    let sub := WForm.field c.g.w 53 53 = 1
    let a (i : Nat) : Word := lowWord (c.a 1 sl i)
    let b (i : Nat) : Word := lowWord (c.b 1 sl i)
    let cin (i : Nat) : Nat := if k = 0 ∨ WForm.field c.g.w 54 54 = 1 then 0 else ((sl.mask k).getLsbD i).toNat
    let d (i : Nat) : Word := if sub then a i - b i - word (cin i) else a i + b i + word (cin i)
    (sl.setLanes c.g.w.d.toNat c.eff (Lanes.ofFn d)).putMask k c.eff (fun i =>
      if sub then decide ((a i).toNat < (b i).toNat + cin i) else decide (2 ^ 32 ≤ (a i).toNat + (b i).toNat + cin i))) never) ∧
  EachW 0x1B .lea (Results (fun _ => 2) (fun c sl i =>
    let x := lowWord (c.b 1 sl i)
    c.a 2 sl i + (if WForm.field c.g.w 53 53 = 1 then x.signExtend 64 else x.zeroExtend 64) <<< WForm.field c.g.w 52 50) quiet)

/-- R104: ICMP and FCMP write the outcome of COND, combined under CMB, into m[K] in the effective lanes; FCMP raises NV for a signalling NaN, and for a quiet one under lt, le, gt and ge. -/
def Obligations.ComparisonsWriteMasks : Prop :=
  EachW 0x0D .icmp (fun i s who cs => Performs i s who cs (fun c sl =>
    let k := WForm.field c.g.w 57 55
    sl.putMask k c.eff (fun i => combineBit (WForm.field c.g.w 59 58) ((sl.mask k).getLsbD i)
      (icmpTable (WForm.field c.g.w 54 52) (c.int (ityN c) (c.a (ityN c) sl i)) (c.int (ityN c) (c.b (ityN c) sl i))))) never) ∧
  EachW 0x2E .fcmp (fun i s who cs => Performs i s who cs (fun c sl =>
    let k := WForm.field c.g.w 57 55
    let cond := WForm.field c.g.w 54 52
    let nan (i : Nat) : Bool := (c.fa sl i).isNaN || (c.fb sl i).isNaN
    (sl.putMask k c.eff (fun i => combineBit (WForm.field c.g.w 59 58) ((sl.mask k).getLsbD i) (fcmpTable cond (nan i) ((c.fa sl i).cmp (c.fb sl i))))).raise c
      (Lanes.ofFn (fun i => flagIf (decide (c.fa sl i = .nan true) || decide (c.fb sl i = .nan true) || (nan i && decide (2 ≤ cond ∧ cond ≤ 5))) flagNV))) never)

/-- R105 to R108: logic and shifts on 32 or 64 bits; bit fields under a descriptor, counts of bits, and bit reversal; BPERM builds d byte by byte from the eight bytes of a:b under the selector c, codes 0xA and 0xB reading the byte of d decided before. -/
def Obligations.BitOperations : Prop :=
  EachForm 0x0E .and .andC (Results w64N (onAB w64N (· &&& ·) (· &&& ·)) quiet) ∧
  EachForm 0x0F .or .orC (Results w64N (onAB w64N (· ||| ·) (· ||| ·)) quiet) ∧
  EachForm 0x10 .xor .xorC (Results w64N (onAB w64N (· ^^^ ·) (· ^^^ ·)) quiet) ∧
  EachForm 0x11 .not .notC (Results w64N (onAB w64N (fun x _ => ~~~x) (fun x _ => ~~~x)) quiet) ∧
  EachForm 0x12 .shl .shlC (Results w64N (onShift (fun x n => x <<< n) (fun x n => x <<< n)) quiet) ∧
  EachForm 0x13 .shr .shrC (Results w64N (onShift (fun x n => x >>> n) (fun x n => x >>> n)) quiet) ∧
  EachForm 0x14 .sar .sarC (Results w64N (onShift BitVec.sshiftRight BitVec.sshiftRight) quiet) ∧
  EachW 0x15 .rot (Results w64N (onShift BitVec.rotateLeft BitVec.rotateLeft) quiet) ∧
  (let len (w desc : Nat) : Nat := if w ≤ desc % 2 ^ 8 then 0 else min (desc / 2 ^ 8 % 2 ^ 8) (w - desc % 2 ^ 8)
  EachW 0x16 .bfx (Results w64N (fun c sl i =>
    let w := 32 * w64N c
    let desc := (c.b 1 sl i).toNat
    let n := len w desc
    let f := (c.a (w64N c) sl i).toNat / 2 ^ (desc % 2 ^ 8) % 2 ^ n
    if n = 0 then 0 else if WForm.field c.g.w 51 51 = 1 ∧ 2 ^ (n - 1) ≤ f then dword (f + 2 ^ w - 2 ^ n) else dword f) quiet) ∧
  EachW 0x17 .bfi (Results w64N (fun c sl i =>
    let desc := (c.c 1 sl i).toNat
    let k : Dword := (((1 : Dword) <<< len (32 * w64N c) desc) - 1) <<< (desc % 2 ^ 8)
    (c.a (w64N c) sl i &&& ~~~k) ||| ((c.b (w64N c) sl i <<< (desc % 2 ^ 8)) &&& k)) quiet) ∧
  EachW 0x18 .popc (Results (fun _ => 1) (fun c sl i => dword ((List.range 64).countP (fun j => (c.a (w64N c) sl i).getLsbD j))) quiet) ∧
  EachW 0x19 .clz (Results (fun _ => 1) (fun c sl i =>
    let x := (c.a (w64N c) sl i).toNat
    dword (if x = 0 then 32 * w64N c else 32 * w64N c - 1 - Nat.log2 x)) quiet) ∧
  EachW 0x1A .brev (Results w64N (onAB w64N (fun x _ => x.reverse) (fun x _ => x.reverse)) quiet) ∧
  (EachW 0x1F .bperm (Results (fun _ => 1) (fun c sl i => dword (bytePermute (c.a 1 sl i).toNat (c.b 1 sl i).toNat (c.c 1 sl i).toNat)) quiet) ∧
  ∀ a b sel : Nat, a < 2 ^ 32 → b < 2 ^ 32 → bytePermute a b sel < 2 ^ 32 ∧ ∀ j, j < 4 →
    let code := sel / 2 ^ (4 * j) % 16
    let byte (k : Nat) : Nat := bytePermute a b sel / 2 ^ (8 * k) % 256
    byte j =
      if code < 4 then a / 2 ^ (8 * code) % 256
      else if code < 8 then b / 2 ^ (8 * (code - 4)) % 256
      else if code = 9 then 0xFF
      else if code = 0xA then (if j ≠ 0 ∧ 128 ≤ byte (j - 1) then 0xFF else 0)
      else if code = 0xB then (if j = 0 then 0 else byte (j - 1))
      else 0))

/-- R121, R122: the random-number state steps in the effective lanes, and d takes the new state's high word, the state, or the f32 value of its high 24 bits. -/
def Obligations.RandomNumbers : Prop :=
  let stepped (c : Ctx) (sl : Slice) : Slice := { sl with rng := Lanes.merge c.eff sl.rng (Lanes.ofFn (fun i => rngStep (sl.rng.get i))) }
  EachW 0x39 .rsplit (fun i s who cs => Performs i s who cs (fun c sl =>
    { sl with rng := Lanes.merge c.eff sl.rng (Lanes.ofFn (fun i =>
        mix64 (c.a 2 sl i + 0x9E3779B97F4A7C15 * (dword (512 * (s.group c.ref.gid).index + 4 * c.ref.idx + i) + 1)))) }) never) ∧
  EachW 0x3A .rnext (fun i s who cs => Performs i s who cs (fun c sl =>
    let x (i : Nat) : Dword := (stepped c sl).rng.get i
    if WForm.field c.g.w 50 50 = 1 then (stepped c sl).setPairs c.g.w.d.toNat c.eff (Lanes.ofFn x)
    else (stepped c sl).setLanes c.g.w.d.toNat c.eff (Lanes.ofFn (fun i => (x i).extractLsb' 32 32))) never) ∧
  EachW 0x3B .runif (fun i s who cs => Performs i s who cs (fun c sl =>
    (stepped c sl).setLanes c.g.w.d.toNat c.eff (Lanes.ofFn (fun i =>
      word (fmtF32.round .rne (.fin false (((stepped c sl).rng.get i).toNat / 2 ^ 40) (-24))).bits))) never)

/-- R97, R113: floating-point arithmetic rounds the exact result once. -/
def Obligations.FloatArithmetic : Prop :=
  EachForm 0x20 .fadd .faddC (Rounds (fun c sl i => Machine.Num.add (rmOf c sl) (c.fa sl i) (c.fb sl i))) ∧
  EachForm 0x21 .fsub .fsubC (Rounds (fun c sl i => Machine.Num.add (rmOf c sl) (c.fa sl i) (c.fb sl i).negate)) ∧
  EachForm 0x22 .fmul .fmulC (Rounds (fun c sl i => Machine.Num.mul (c.fa sl i) (c.fb sl i))) ∧
  EachW 0x23 .ffma (Rounds (fun c sl i => Machine.Num.sum (rmOf c sl) [Machine.Num.mul (c.fa sl i) (c.fb sl i), ⟨c.fc sl i, (c.fc sl i).sigFlag⟩])) ∧
  EachW 0x26 .fdiv (Rounds (fun c sl i => Machine.Num.div (c.fa sl i) (c.fb sl i))) ∧
  EachW 0x27 .fsqrt (Rounds (fun c sl i => Machine.Num.sqrt (c.fa sl i))) ∧
  EachW 0x28 .frcp (Rounds (fun c sl i => Machine.Num.div (.fin false 1 0) (c.fa sl i))) ∧
  EachW 0x29 .frsq (Rounds (fun c sl i => Machine.Num.rsqrt (c.fa sl i))) ∧
  EachW 0x34 .frnd (Rounds (fun c sl i => Machine.Num.integral (rmOf c sl) (c.fa sl i))) ∧
  EachW 0x35 .fscale (Rounds (fun c sl i => (c.fa sl i).scale (lowWord (c.b 1 sl i)).toInt)) ∧
  EachW 0x2A .fexp2 (Rounds (fun c sl i => Machine.Num.exp2 (c.fa sl i))) ∧
  EachW 0x2B .flog2 (Rounds (fun c sl i => Machine.Num.log2 (c.fa sl i))) ∧
  EachW 0x2C .fsin (Rounds (fun c sl i => Machine.Num.sinPi (c.fa sl i))) ∧
  EachW 0x2D .fcos (Rounds (fun c sl i => Machine.Num.cosPi (c.fa sl i)))

/-- R115, R116: FMIN and FMAX choose an operand, the other one beside a NaN and the canonical NaN for two, with -0 less than +0; FCLASS sets the bit of the class. -/
def Obligations.FloatSelection : Prop :=
  let bitsOf (c : Ctx) (x : Dword) : Nat := x.toNat % 2 ^ (ftyFmt (ftyOf c)).width
  let chosen (takeB : Machine.Num → Machine.Num → Bool) (c : Ctx) (sl : Slice) (i : Nat) : Dword :=
    if (c.fa sl i).isNaN ∧ (c.fb sl i).isNaN then dword (ftyFmt (ftyOf c)).canonNaN
    else if (c.fa sl i).isNaN then dword (bitsOf c (c.b (ftyN c) sl i))
    else if (c.fb sl i).isNaN then dword (bitsOf c (c.a (ftyN c) sl i))
    else if takeB (c.fa sl i) (c.fb sl i) then dword (bitsOf c (c.b (ftyN c) sl i)) else dword (bitsOf c (c.a (ftyN c) sl i))
  let signalling (c : Ctx) (sl : Slice) (i : Nat) : Flags := flagIf (decide (c.fa sl i = .nan true) || decide (c.fb sl i = .nan true)) flagNV
  let less (x y : Machine.Num) : Bool := x.cmp y == .lt || (x.cmp y == .eq && x.isNeg && !y.isNeg)
  EachForm 0x24 .fmin .fminC (Results ftyN (chosen (fun a b => less b a)) signalling) ∧
  EachForm 0x25 .fmax .fmaxC (Results ftyN (chosen (fun a b => less a b)) signalling) ∧
  EachW 0x2F .fclass (Results (fun _ => 1) (fun c sl i =>
    let small (m : Nat) (e : Int) : Bool := decide ((bitLen m : Int) - 1 + e < 1 - (ftyFmt (ftyOf c)).bias)
    dword (2 ^ (match c.fa sl i with
      | .inf neg => if neg then 0 else 7
      | .nan sig => if sig then 8 else 9
      | .fin neg m e =>
        if m = 0 then (if neg then 3 else 4) else if small m e then (if neg then 2 else 5) else (if neg then 1 else 6)))) quiet)

/-- R114: the special operands of the floating-point instructions and the flags they raise. -/
def Obligations.SpecialOperands : Prop :=
  (∀ n m e n' e', m ≠ 0 → Machine.Num.div (.fin n m e) (.fin n' 0 e') = ⟨.inf (n != n'), flagDZ⟩) ∧
  (∀ n e n' e', Machine.Num.div (.fin n 0 e) (.fin n' 0 e') = ⟨.nan false, flagNV⟩) ∧ (∀ n n', Machine.Num.div (.inf n) (.inf n') = ⟨.nan false, flagNV⟩) ∧
  (∀ e, Machine.Num.sqrt (.fin true 0 e) = ⟨.fin true 0 0, 0⟩) ∧
  (∀ m e, m ≠ 0 → Machine.Num.sqrt (.fin true m e) = ⟨.nan false, flagNV⟩ ∧ Machine.Num.rsqrt (.fin true m e) = ⟨.nan false, flagNV⟩) ∧
  Machine.Num.sqrt (.inf true) = ⟨.nan false, flagNV⟩ ∧ Machine.Num.rsqrt (.inf true) = ⟨.nan false, flagNV⟩ ∧
  (∀ n e, Machine.Num.div (.fin false 1 0) (.fin n 0 e) = ⟨.inf n, flagDZ⟩) ∧ (∀ n, Machine.Num.div (.fin false 1 0) (.inf n) = ⟨.fin n 0 0, 0⟩) ∧
  (∀ n e, Machine.Num.rsqrt (.fin n 0 e) = ⟨.inf n, flagDZ⟩) ∧ Machine.Num.rsqrt (.inf false) = ⟨.fin false 0 0, 0⟩ ∧
  Machine.Num.exp2 (.inf true) = ⟨.fin false 0 0, 0⟩ ∧ Machine.Num.exp2 (.inf false) = ⟨.inf false, 0⟩ ∧
  (∀ n e, Machine.Num.log2 (.fin n 0 e) = ⟨.inf true, flagDZ⟩) ∧ (∀ m e, m ≠ 0 → Machine.Num.log2 (.fin true m e) = ⟨.nan false, flagNV⟩) ∧
  Machine.Num.log2 (.inf true) = ⟨.nan false, flagNV⟩ ∧ Machine.Num.log2 (.inf false) = ⟨.inf false, 0⟩ ∧ Machine.Num.log2 (.fin false 1 0) = ⟨.fin false 0 0, 0⟩ ∧
  (∀ n m e, 0 ≤ e → Machine.Num.sinPi (.fin n m e) = ⟨.fin n 0 0, 0⟩) ∧ (∀ n (m k : Nat), Machine.Num.sinPi (.fin n (m * 2 ^ k) (-(k : Int))) = ⟨.fin n 0 0, 0⟩) ∧
  (∀ n (m k : Nat), Machine.Num.cosPi (.fin n ((2 * m + 1) * 2 ^ k) (-((k : Int) + 1))) = ⟨.fin false 0 0, 0⟩) ∧
  (∀ n, Machine.Num.sinPi (.inf n) = ⟨.nan false, flagNV⟩ ∧ Machine.Num.cosPi (.inf n) = ⟨.nan false, flagNV⟩) ∧
  (∀ (F : FloatFmt) rm n e b, (F.round rm ((Machine.Num.fin n 0 e).scale b).num).bits = (if n then 2 ^ (F.ebits + F.mbits) else 0)) ∧
  (∀ n b, (Machine.Num.inf n).scale b = ⟨.inf n, 0⟩) ∧ (∀ rm n m e, 0 ≤ e → Machine.Num.integral rm (.fin n m e) = ⟨.fin n m e, 0⟩) ∧
  (∀ rm n (m k : Nat), Machine.Num.integral rm (.fin n (m * 2 ^ k) (-(k : Int))) = ⟨.fin n (m * 2 ^ k) (-(k : Int)), 0⟩) ∧
  (∀ rm n, Machine.Num.integral rm (.inf n) = ⟨.inf n, 0⟩)

/-- R120: the dot products sum exactly and round or wrap once. -/
def Obligations.DotProducts : Prop :=
  let half (bf : Bool) (x : Dword) (j : Nat) : Machine.Num := (if bf then fmtBF16 else fmtF16).decode (x.toNat / 2 ^ (16 * j) % 2 ^ 16)
  let exact (k : Nat) (c : Ctx) (sl : Slice) (i : Nat) : Flagged :=
    let bf := WForm.field c.g.w 50 50 == 1
    let add := fmtF32.decode (c.c 1 sl i).toNat
    Machine.Num.sum (rmOf c sl)
      ((List.range k).map (fun j => Machine.Num.mul (half bf (c.a (k / 2) sl i) j) (half bf (c.b (k / 2) sl i) j)) ++ [⟨add, add.sigFlag⟩])
  let rounds (k : Nat) : Instr → State → Issuer → List Ctx → Prop :=
    Results (fun _ => 1) (fun c sl i => dword (fmtF32.round (rmOf c sl) (exact k c sl i).num).bits)
      (fun c sl i => (exact k c sl i).flags ||| (fmtF32.round (rmOf c sl) (exact k c sl i).num).flags)
  let byte (signed : Bool) (x : Dword) (j : Nat) : Int :=
    if signed then (x.extractLsb' (8 * j) 8).toInt else ((x.extractLsb' (8 * j) 8).toNat : Int)
  EachW 0x36 .fdot2 (rounds 2) ∧
  EachW 0x37 .fdot4 (rounds 4) ∧
  EachW 0x38 .idot4 (Results (fun _ => 1) (fun c sl i =>
    let sa := WForm.field c.g.w 50 50 == 1
    let sb := WForm.field c.g.w 51 51 == 1
    let p (j : Nat) : Int := byte sa (c.a 1 sl i) j * byte sb (c.b 1 sl i) j
    (BitVec.ofInt 32 (p 0 + p 1 + p 2 + p 3 + (c.c 1 sl i).toNat)).zeroExtend 64) quiet)

/-- R79, R82, R83, R85, R117, R118, R119: CVT writes the converted a under SRC and DST with its flags; CVTN converts a, or packs two or more elements under PK, or makes a BX block, and with the trapping overflow policy takes trap 0x0C with the lanes that met its case, and writes nothing; PACKBX and UNPKBX convert sixteen registers to and from a block. An element becomes, in an integer format, its value rounded by the mode where that is in range, and else the bound, 0 for a NaN; in an IEEE format, the rounded value, or what the overflow policy names; in a block, a fraction of 2^m - 1 beyond its range, and a NaN makes the whole block one. -/
def Obligations.Conversions : Prop :=
  let element (c : Ctx) (sl : Slice) (src dst : Nat) (x : Dword) : Converted := toCode dst (rmOf c sl) (saturationOf c sl) (decodeCode src x.toNat)
  let block (n : Nat) (x : Nat → Converted) (c : Ctx) (sl : Slice) : Slice :=
    ((List.range n).foldl (fun (y : Slice) k =>
      y.setLanes (c.g.w.d.toNat + k) c.eff (Lanes.ofFn (fun i => word ((x i).bits / 2 ^ (32 * k))))) sl).raise c (Lanes.ofFn (fun i => (x i).flags))
  let sat (x : Nat → Converted) (c : Ctx) : Bool := saturates c (Lanes.ofFn (fun i => (x i).flags))
  let src (c : Ctx) : Nat := WForm.field c.g.w 53 50
  let dst (c : Ctx) : Nat := WForm.field c.g.w 57 54
  let packed (m from_ : Nat) (c : Ctx) (sl : Slice) (i : Nat) : Converted :=
    bxEncode m (rmOf c sl) (saturationOf c sl) ((sl.operandWords c.g.w.a.toNat 16 i).map (fun x => decodeCode from_ x.toNat))
  let narrowed (c : Ctx) (sl : Slice) (i : Nat) : Converted :=
    let x := element c sl (src c) (dst c) (c.a (codeWords (src c)) sl i)
    let y := element c sl (src c) (dst c) (c.b (codeWords (src c)) sl i)
    if WForm.field c.g.w 58 58 = 0 then { x with bits := extendCode (dst c) x.bits }
    else
      { bits := if codeWidth (dst c) = 16 then y.bits * 2 ^ 16 + x.bits else (c.c 1 sl i).toNat % 2 ^ 16 * 2 ^ 16 + (y.bits * 2 ^ 8 + x.bits)
        flags := x.flags ||| y.flags
        met := x.met || y.met }
  let wrapped (w : Nat) (v : Int) : Nat := (v % 2 ^ w).toNat
  EachW 0x30 .cvt (Results (fun c => codeWords (dst c)) (fun c sl i => dword (extendCode (dst c) (element c sl (src c) (dst c) (c.a (codeWords (src c)) sl i)).bits))
    (fun c sl i => (element c sl (src c) (dst c) (c.a (codeWords (src c)) sl i)).flags)) ∧
  EachW 0x31 .cvtn (fun i s who cs =>
    let all (c : Ctx) (sl : Slice) (i : Nat) : Converted := if 12 ≤ dst c then packed (bxBits (dst c)) (src c) c sl i else narrowed c sl i
    let n (c : Ctx) : Nat := if 12 ≤ dst c then bxRegs (dst c - 12) else 1
    let met (c : Ctx) : Mask := c.eff &&& Mask.ofFn (fun i => (all c (s.slice c.ref) i).met)
    ((∀ c ∈ cs, met c = 0) → Performs i s who cs (fun c sl => block (n c) (all c sl) c sl) (fun c sl => sat (all c sl) c)) ∧
    (∀ c, cs = [c] → met c ≠ 0 → Traps i s who c s ⟨0x0C, c.g.addr, met c, word (dst c)⟩)) ∧
  EachW 0x32 .packbx (fun i s who cs =>
    let bx (c : Ctx) : Nat := WForm.field c.g.w 53 52
    let all (c : Ctx) (sl : Slice) (i : Nat) : Converted := packed (bxBits (12 + bx c)) (bxSource (WForm.field c.g.w 51 50)) c sl i
    Performs i s who cs (fun c sl => block (bxRegs (bx c)) (all c sl) c sl) (fun c sl => sat (all c sl) c)) ∧
  EachW 0x33 .unpkbx (fun i s who cs =>
    let bx (c : Ctx) : Nat := WForm.field c.g.w 53 52
    let el (c : Ctx) (sl : Slice) (i j : Nat) : Converted :=
      toCode (bxSource (WForm.field c.g.w 51 50)) .rne ⟨modeB sl.fmt, none⟩
        (bxElement (bxBits (12 + bx c)) (wordsNum (sl.operandWords c.g.w.a.toNat (bxRegs (bx c)) i)) j)
    let flags (c : Ctx) (sl : Slice) (i : Nat) : Flags := ((List.range 16).map (fun j => (el c sl i j).flags)).foldl (· ||| ·) 0
    Performs i s who cs (fun c sl =>
      ((List.range 16).foldl (fun (y : Slice) k => y.setLanes (c.g.w.d.toNat + k) c.eff (Lanes.ofFn (fun i => word (el c sl i k).bits))) sl).raise c
        (Lanes.ofFn (flags c sl))) (fun c sl => saturates c (Lanes.ofFn (flags c sl)))) ∧
  (∀ (dst : Nat) (rm : Rounding) (x : Saturation) (v : Machine.Num), dst ≤ 7 →
    let w : Nat := [8, 16, 32, 64].getD (dst % 4) 0
    let low : Int := if dst ≤ 3 then -(2 ^ (w - 1)) else 0
    let high : Int := if dst ≤ 3 then 2 ^ (w - 1) - 1 else 2 ^ w - 1
    let bound (neg : Bool) : Converted := ⟨wrapped w (if neg then low else high), if x.modeB then 0 else flagSAT ||| flagNX, false⟩
    (∀ q, v = .nan q → toCode dst rm x v = ⟨0, if x.modeB then 0 else flagNV, false⟩) ∧
    (∀ neg, v = .inf neg → toCode dst rm x v = bound neg) ∧
    (∀ neg m e, v = .fin neg m e → let r := roundUnit rm neg m e 0
      let i : Int := if neg then -r.1 else r.1
      (low ≤ i → i ≤ high → toCode dst rm x v = ⟨wrapped w i, if r.2 then flagNX else 0, false⟩) ∧
      ((i < low ∨ high < i) → toCode dst rm x v = bound neg))) ∧
  (∀ (rm : Rounding) (neg : Bool) (m : Nat) (e : Int),
    (0 ≤ e → roundUnit rm neg m e 0 = (m * 2 ^ e.toNat, false)) ∧
    (e < 0 → let d := 2 ^ (-e).toNat
      roundUnit rm neg m e 0 = (m / d + (match rm with
        | .rne => if d < 2 * (m % d) ∨ (2 * (m % d) = d ∧ m / d % 2 = 1) then 1 else 0
        | .rna => if d ≤ 2 * (m % d) then 1 else 0
        | .rtz => 0
        | .rdn => if neg = true ∧ m % d ≠ 0 then 1 else 0
        | .rup => if neg = false ∧ m % d ≠ 0 then 1 else 0), m % d != 0))) ∧
  (∀ (dst : Nat) (F : FloatFmt) (rm : Rounding) (b : Bool) (v : Machine.Num), (dst, F) ∈ [(8, fmtF16), (9, fmtBF16), (10, fmtF32), (11, fmtF64)] →
    let r := F.round rm v
    toCode dst rm ⟨b, none⟩ v = ⟨r.bits, (match v with | .nan true => flagNV | _ => 0) ||| r.flags, false⟩ ∧
    (r.overflow = false → ∀ p, toCode dst rm ⟨b, some p⟩ v = toCode dst rm ⟨b, none⟩ v) ∧
    (r.overflow = true → ∃ neg m e, v = .fin neg m e ∧
      toCode dst rm ⟨b, some 0⟩ v = ⟨F.maxBits neg, flagOF ||| flagNX, false⟩ ∧ toCode dst rm ⟨b, some 1⟩ v = ⟨F.infBits neg, flagOF ||| flagNX, false⟩ ∧
      toCode dst rm ⟨b, some 2⟩ v = ⟨F.canonNaN, flagNV, false⟩ ∧ (toCode dst rm ⟨b, some 3⟩ v).met = true)) ∧
  (∀ (m : Nat) (rm : Rounding) (x : Saturation) (vs : List Machine.Num), m ∈ [2, 4, 7] → vs.length = 16 →
    let y := bxEncode m rm x vs
    let far (v : Machine.Num) : Bool := match v with | .inf _ => true | v => !v.isNaN && !v.absLtPow 127
    let neg (i : Nat) : Nat := if (vs.getD i (.fin false 0 0)).isNeg then 1 else 0
    (vs.any Machine.Num.isNaN = true → y = ⟨255, if x.policy = none ∧ x.modeB = true then 0 else if (.nan true) ∈ vs then flagNV else 0, false⟩) ∧
    (vs.any Machine.Num.isNaN = false → vs.any far = true → x.policy = some 1 → y = ⟨255, flagOF ||| flagNX, false⟩) ∧
    (vs.any Machine.Num.isNaN = false → vs.any far = true → x.policy = some 2 → y = ⟨255, flagNV, false⟩) ∧
    (vs.any Machine.Num.isNaN = false → vs.any far = true → x.policy = some 3 → y.met = true) ∧
    (vs.any Machine.Num.isNaN = false → (vs.any far = false ∨ x.policy = none ∨ x.policy = some 0) →
      y.met = false ∧ y.bits % 2 ^ 8 ≤ 254 ∧ y.bits < 2 ^ (16 + 16 * (m + 1)) ∧
      ∀ i, i < 16 → let f := y.bits / 2 ^ (16 + i * (m + 1)) % 2 ^ (m + 1)
        f / 2 ^ m = neg i ∧ (far (vs.getD i (.fin false 0 0)) = true → f % 2 ^ m = 2 ^ m - 1)))

/-- R109 to R112: LXCH reads a of the lane that MODE names, or its fill value where that lane is not present; POLL and GFOLD write one result to an `s` register of every participating slice. -/
def Obligations.GangOperations : Prop :=
  EachW 0x1C .lxch (fun i s who cs => Performs i s who cs (fun c sl =>
    let n := if WForm.field c.g.w 55 55 = 1 then 2 else 1
    let k := WForm.field c.g.w 54 52
    let lane (i : Nat) : Nat := c.g0 + i
    let b (i : Nat) : Nat := (c.b 1 sl i).toNat
    let g4 := 4 * (s.group c.ref.gid).gangSize
    let src (i : Nat) : Nat :=
      match WForm.field c.g.w 51 50 with
      | 0 => b i
      | 1 => (lane i + b i) % g4
      | 2 => lane i ^^^ b i
      | _ => g4 - 1 - lane i
    let at_ (i : Nat) : Option (Nat × Ctx × Nat) := (presentLanes cs).find? (fun l => l.1 == src i)
    let x (i : Nat) : Dword := match at_ i with | some l => l.2.1.a n (s.slice l.2.1.ref) l.2.2 | none => c.c n sl i
    let y := sl.put n c.g.w.d.toNat c.eff (Lanes.ofFn x)
    if k = 0 then y else y.putMask k c.eff (fun i => (at_ i).isSome)) never) ∧
  EachW 0x1D .poll (fun i s who cs => Performs i s who cs (fun c sl =>
    let xs : List (Nat × Dword) := (presentLanes cs).map (fun l => (l.1, l.2.1.a 1 (s.slice l.2.1.ref) l.2.2))
    let mask (f : Nat × Dword → Bool) : Nat := ((xs.filter f).map (fun x => 2 ^ x.1)).sum
    let r : Nat :=
      match WForm.field c.g.w 51 50 with
      | 0 => mask (fun x => x.2 != 0)
      | 1 => xs.countP (fun x => x.2 != 0)
      | 2 => match xs.find? (fun x => x.2 != 0) with | some x => x.1 | none => 0xFFFFFFFF
      | _ => mask (fun x => some x.2 == xs.head?.map Prod.snd)
    sl.setLanes c.g.w.d.toNat c.eff (Lanes.all (word r))) never) ∧
  EachW 0x1E .gfold (fun i s who cs =>
    let xs (n : Nat) : List (Nat × Nat) := (presentLanes cs).map (fun l => (l.1, (l.2.1.a n (s.slice l.2.1.ref) l.2.2).toNat))
    let op (c : Ctx) : Nat := WForm.field c.g.w 53 50
    let ty (c : Ctx) : Nat := WForm.field c.g.w 55 54
    let n (c : Ctx) : Nat := if 6 ≤ op c then ftyWords (ty c) else ityWords (ty c)
    let r (c : Ctx) : Nat × Flags := foldTree (foldOp (op c) (ty c)) 5 ((List.range 32).map (fun l => ((xs (n c)).find? (fun x => x.1 == l)).map Prod.snd))
    Performs i s who cs (fun c sl => (sl.put (n c) c.g.w.d.toNat c.eff (Lanes.all (dword (r c).1))).raise c (Lanes.all (r c).2)) never)

/-! ### Slice control -/

/-- R123, R125, R126, R127: BRA, BRX, CALL and RET move the whole slice to their target; CALL writes A + 8 to d, and `ret.x` clears XCAUSE[31]; a misaligned target takes trap 0x07 and nothing else happens. CBR tests eff AND m[K] of its slice, or with GANG = 1 of every slice of the subgang; LOOP decrements its counter and transfers unless that leaves 0. That XMASK of the misaligned-target trap holds the effective lanes is the model's reading, not R125's words (log 71). -/
def Obligations.TransfersOfControl : Prop :=
  EachW 0x40 .bra (fun i s who cs => Lands i s who cs (fun _ sl => sl) (fun c _ => c.target) never) ∧
  EachW 0x41 .brx (fun i s who cs =>
    ((∀ c ∈ cs, (c.pairA (s.slice c.ref)).extractLsb' 0 2 = 0) → Lands i s who cs (fun _ sl => sl) (fun c sl => c.pairA sl) never) ∧
    (∀ c, cs = [c] → (c.pairA (s.slice c.ref)).extractLsb' 0 2 ≠ 0 → Traps i s who c s ⟨0x07, c.pairA (s.slice c.ref), c.eff, 0⟩)) ∧
  EachW 0x43 .call (fun i s who cs =>
    let tgt (c : Ctx) (sl : Slice) : Dword := if WForm.field c.g.w 50 50 = 1 then c.pairA sl else c.target
    ((∀ c ∈ cs, (tgt c (s.slice c.ref)).extractLsb' 0 2 = 0) →
      Lands i s who cs (fun c sl => { sl with regpc := 0 }.setPairs c.g.w.d.toNat c.eff (Lanes.all (c.g.addr + 8))) tgt never) ∧
    (∀ c, cs = [c] → (tgt c (s.slice c.ref)).extractLsb' 0 2 ≠ 0 → Traps i s who c (s.closeRegion c.ref) ⟨0x07, tgt c (s.slice c.ref), c.eff, 0⟩)) ∧
  EachW 0x44 .ret (fun i s who cs =>
    let x (c : Ctx) : Bool := WForm.field c.g.w 50 50 == 1
    let tgt (c : Ctx) (sl : Slice) : Dword := if x c then sl.trap.xpc else c.pairA sl
    ((∀ c ∈ cs, (tgt c (s.slice c.ref)).extractLsb' 0 2 = 0) →
      Lands i s who cs (fun c sl =>
        if x c then { sl with regpc := 0, trap := { sl.trap with xcause := sl.trap.xcause &&& 0x7FFFFFFF } } else { sl with regpc := 0 }) tgt never) ∧
    (∀ c, cs = [c] → (tgt c (s.slice c.ref)).extractLsb' 0 2 ≠ 0 → Traps i s who c (s.closeRegion c.ref) ⟨0x07, tgt c (s.slice c.ref), c.eff, 0⟩)) ∧
  (EachW 0x42 .cbr (fun i s who cs =>
    let m (c : Ctx) : Mask := c.eff &&& (s.slice c.ref).mask (WForm.field c.g.w 55 53)
    let group (c : Ctx) : List Ctx := if WForm.field c.g.w 52 52 = 1 then cs else [c]
    let taken (c : Ctx) : Bool :=
      match WForm.field c.g.w 51 50 with
      | 0 => (group c).any (fun x => m x != 0)
      | 1 => (group c).all (fun x => m x == x.eff)
      | _ => (group c).all (fun x => m x == 0)
    Lands i s who cs (fun _ sl => sl) (fun c _ => if taken c then c.target else c.g.addr + 8) never) ∧
  EachW 0x47 .loop (fun i s who cs =>
    let n (c : Ctx) (sl : Slice) : Word := sl.reg c.g.w.a.toNat 0 - 1
    Lands i s who cs (fun c sl => sl.setLane c.g.w.a.toNat 0 (n c sl) none) (fun c sl => if n c sl ≠ 0 then c.target else c.g.addr + 8) never))

/-- R128, R129, R33: SPLIT pushes the reconvergence entry and, when both paths have lanes, the entry of path B; JOIN pops an entry and takes its PC, mask and FMT; a stack that is too full, or empty, traps. A push puts an entry before the others and keeps them, whether or not one is spilled, and a pop takes it off; the k-th spilled entry stands at offset 0xFC - 4k of the lane stores. That XMASK of the two traps of the mask stack holds the effective lanes is the model's reading, not the rules' words (log 71). -/
def Obligations.SplitAndJoin : Prop :=
  EachW 0x45 .split (fun i s who cs =>
    let a (c : Ctx) (sl : Slice) : Mask := sl.active &&& sl.mask (WForm.field c.g.w 52 50)
    let b (c : Ctx) (sl : Slice) : Mask := sl.active &&& ~~~(sl.mask (WForm.field c.g.w 52 50))
    let other (c : Ctx) : Dword := c.g.addr + 4 * (c.g.w.a ++ c.g.w.d).signExtend 64
    let n (c : Ctx) (sl : Slice) : Nat := if a c sl ≠ 0 ∧ b c sl ≠ 0 then 2 else 1
    ((∀ c ∈ cs, (s.slice c.ref).depth + n c (s.slice c.ref) ≤ 48) →
      Lands i s who cs (fun c sl =>
        let x := { sl with regpc := 0 }.push ⟨c.target, sl.active, sl.fmt⟩
        let x := if a c sl ≠ 0 ∧ b c sl ≠ 0 then x.push ⟨other c, b c sl, sl.fmt⟩ else x
        { x with active := if a c sl ≠ 0 then a c sl else b c sl })
        (fun c sl => if a c sl ≠ 0 then c.g.addr + 8 else other c) never) ∧
    (∀ c, cs = [c] → 48 < (s.slice c.ref).depth + n c (s.slice c.ref) → Traps i s who c (s.closeRegion c.ref) ⟨0x0A, 0, c.eff, 1⟩)) ∧
  EachForm 0x46 .join .joinC (fun i s who cs => (∀ c ∈ cs, ∀ t, (s.slice c.ref).tx = some t → t.depth < (s.slice c.ref).depth) →
    ((∀ c ∈ cs, ((s.slice c.ref).pop).isSome) →
      Lands i s who cs (fun _ sl => match { sl with regpc := 0 }.pop with | some (e, x) => { x with active := e.mask, fmt := e.fmt } | none => sl)
        (fun _ sl => match sl.pop with | some (e, _) => e.pc | none => 0) never) ∧
    (∀ c, cs = [c] → (s.slice c.ref).pop = none → Traps i s who c (s.closeRegion c.ref) ⟨0x0A, 0, c.eff, 2⟩)) ∧
  ((∀ (sl : Slice) (e : StackEntry), sl.depth < 48 → (sl.spilled ≠ 0 → sl.stack.length = 32) → sl.stack.length ≤ 32 → (∀ x ∈ sl.stack, sext64 57 (x.pc.toNat % 2 ^ 57) = x.pc ∧ x.mask &&& sl.retired = 0) →
    (∀ i, i < 4 → (sl.store.get i).wf = true) →
    (sl.push e).entries = e :: sl.entries ∧ (sl.push e).depth = sl.depth + 1 ∧ ∃ x, (sl.push e).pop = some (e, x) ∧ x.entries = sl.entries ∧ x.depth = sl.depth) ∧
  (∀ (sl : Slice) (k : Nat) (e : StackEntry), k < 16 → (∀ i, i < 4 → (sl.store.get i).wf = true) →
    ((sl.spill k e).store.get 0).num (0xFC - 4 * k) 4 = e.pc.toNat % 2 ^ 32 ∧ ((sl.spill k e).store.get 1).num (0xFC - 4 * k) 4 = e.pc.toNat / 2 ^ 32 % 2 ^ 25 ∧
    ((sl.spill k e).store.get 2).num (0xFC - 4 * k) 4 = e.fmt.toNat ∧ ((sl.spill k e).store.get 3).num (0xFC - 4 * k) 4 = e.mask.toNat))

/-- R131: EXIT takes its lanes out of the active mask and of every entry; a slice without lanes goes on at the newest entry that has some, and ends where none has. R144: TRAP and BKPT take causes 0x0E and 0x0F with their code. -/
def Obligations.ExitAndSoftwareTraps : Prop :=
  EachForm 0x4B .exit .exitC (fun i s who cs =>
    let x (c : Ctx) (sl : Slice) : Slice := { sl with regpc := 0 }.dropLanes c.eff
    let left (c : Ctx) (sl : Slice) : Mask := sl.active &&& ~~~c.eff
    Lands i s who cs (fun c sl =>
      if left c sl ≠ 0 then { x c sl with active := left c sl }
      else match popLive 49 (x c sl) with
        | some (e, y) => { y with active := e.mask, fmt := e.fmt }
        | none => (x c sl).finish)
      (fun c sl =>
        if left c sl ≠ 0 then c.g.next
        else match popLive 49 (x c sl) with
          | some (e, _) => e.pc
          | none => sl.pc) never) ∧
  EachW 0x4C .trap (fun i s who cs => ∀ c, cs = [c] → Traps i s who c (s.closeRegion c.ref) ⟨0x0E, 0, c.eff, c.g.w.mod.zeroExtend 32⟩) ∧
  EachW 0x4D .bkpt (fun i s who cs => ∀ c, cs = [c] → Traps i s who c (s.closeRegion c.ref) ⟨0x0F, 0, c.eff, c.g.w.mod.zeroExtend 32⟩)

/-- R134, R135, R136, R132, R133: PART leaves every slice in a subgang of its own; REGANG completes at once in an unparted gang or a gang of one slice, and else waits; when every unexited slice of the gang waits at it, the gang goes on whole after it where all wait at one address, and else every one of them takes trap 0x1E at its own REGANG and stands alone; ELECT names the lowest lane of its slice, or of the subgang with GANG = 1. Dividing a gang leaves two of its unended slices together exactly when they were together and stand at one address, or were together and one of the slices with them waits where a wait keeps the subgang. -/
def Obligations.PartRegangElect : Prop :=
  EachW 0x48 .part (fun i s who cs => Performs i s who cs (fun _ sl => { sl with regpc := 0 }) never ∧
    ∀ t, exec i s = .next t → ∀ c ∈ cs, ∀ d ∈ cs, c.ref ≠ d.ref → (t.slice c.ref).sub ≠ (t.slice d.ref).sub) ∧
  EachW 0x49 .regang (fun i s who cs =>
    let g := s.group who.gid
    let atOnce : Bool := g.gangSize == 1 || !(g.gang who.gang).parted
    Lands i s who cs (fun c sl => if atOnce then { sl with regpc := 0, pathStores := [] } else { sl with regpc := 0, pathStores := [], wait := some (.regang c.eff) })
      (fun c sl => if atOnce then c.g.next else sl.pc) never) ∧
  EachW 0x4A .elect (fun i s who cs => ∀ c0 rest, cs = c0 :: rest →
    let low (m : Mask) : Nat := if m.getLsbD 0 then 0 else if m.getLsbD 1 then 1 else if m.getLsbD 2 then 2 else 3
    let gang : Bool := WForm.field c0.g.w 53 53 == 1
    let l (c : Ctx) : Nat := if gang then c0.g0 + low c0.eff else low c.eff
    Performs i s who cs (fun c sl =>
      (sl.setMask (WForm.field c.g.w 52 50) (if gang && c.ref != c0.ref then 0 else Mask.one (l c % 4))).setLanes c.g.w.d.toNat c.eff (Lanes.all (word (l c)))) never) ∧
  (∀ (g : Group) (k i j : Nat), i ∈ g.unended k → j ∈ g.unended k →
    let mates : List Nat := (g.unended k).filter (fun x => (g.slice x).sub == (g.slice i).sub)
    let kept : Bool := mates.any (fun x => match (g.slice x).wait with | some w => w.together | none => false)
    (((g.divide k).slice i).sub = ((g.divide k).slice j).sub ↔
      (g.slice i).sub = (g.slice j).sub ∧ (kept = true ∨ (g.slice i).pc = (g.slice j).pc))) ∧
  (∀ (s : State) (gid k first : Nat) (rest : List Nat) (eff : Nat → Mask), (s.group? gid).isSome → k < (s.group gid).gangs.length →
    (s.group gid).unended k = first :: rest → (∀ i ∈ first :: rest, ((s.group gid).slice i).wait = some (.regang (eff i))) →
    let at_ (i : Nat) : Dword := ((s.group gid).slice i).pc
    ((∀ i ∈ rest, at_ i = at_ first) → OnlySlices s (s.tryRegang gid k) gid (first :: rest) ∧ (((s.tryRegang gid k).group gid).gang k).parted = false ∧
      ∀ i ∈ first :: rest, ((s.tryRegang gid k).group gid).slice i = { (s.group gid).slice i with wait := none, pc := at_ first + 8, sub := first }) ∧
    ((∃ i ∈ rest, at_ i ≠ at_ first) → (∀ i ∈ first :: rest, ((s.group gid).slice i).tx = none) → (s.group gid).shadow = false →
      let here : Nat := (((first :: rest).filter (fun i => at_ i == at_ first)).map (fun i => 2 ^ (i - k * (s.group gid).gangSize))).sum
      ∀ i ∈ first :: rest, let x := ((s.tryRegang gid k).group gid).slice i
        x.trap.xpc = at_ i ∧ x.trap.xcause.toNat % 256 = 0x1E ∧ x.trap.xaddr = at_ first ∧ x.trap.xmask = (eff i).zeroExtend 32 ∧ x.trap.xinfo = word here ∧
        (∀ e, x.wait ≠ some (.regang e)) ∧ ((s.group gid).slices.length ≤ 128 → ∀ j ∈ first :: rest, j ≠ i → (((s.tryRegang gid k).group gid).slice j).sub ≠ x.sub)))

/-- R143, R200: taking a trap outside a transaction, where no shadow disagrees about it, writes the record; a slice in its handler, a cause that is never delivered, or no handler address cancels the unit with the cause and ends the slice; else the slice goes on at the handler address with HND set. A shadow mismatch restarts an open region once, as soon as no register is owed a value, and else cancels the unit with cause 0x19 and its kind in XINFO. That a poisoned handler address is used as it stands, consuming nothing, is the model's choice: no rule speaks of it (log 82); the lanes in XMASK of a mismatch are its reading (log 71). -/
def Obligations.TrapDelivery : Prop :=
  (∀ (s : State) (r : SliceRef) (a : Dword) (eff : Mask) (kind : Nat) (addr : Dword), r.idx < (s.group r.gid).slices.length → (s.slice r).tx = none →
    let u := s.takeMismatch r a eff kind addr
    let sl := s.slice r
    ((sl.regpc ≠ 0 ∧ sl.regpc.getLsbD 0 = false) →
      u.slice r = { sl with regpc := sl.regpc ||| 1, pc := sl.regpc &&& ~~~3, wait := if sl.owed = [] ∧ (∀ x ∈ sl.v, x.full = 15) ∧ (∀ x ∈ sl.s.cells, x.full = true) then none else some .restartDrain }) ∧
    (¬(sl.regpc ≠ 0 ∧ sl.regpc.getLsbD 0 = false) →
      (u.slice r).trap = ⟨a, (sl.trap.xcause &&& 0x80000000) ||| 0x19, addr, eff.zeroExtend 32, word kind⟩ ∧ (u.slice r).ended = true ∧
      ∀ x, s.unit? (s.group r.gid).uid = some x → ∃ y, u.unit? (s.group r.gid).uid = some y ∧ y.cancelled = some (x.cancelled.getD 0x19))) ∧
  ∀ (s : State) (r : SliceRef) (a : Dword) (t : Trap), r.idx < (s.group r.gid).slices.length → (s.slice r).tx = none → t.cause < 0x20 → s.trapMismatch r = none →
    let u := s.takeTrap r a t
    let never : Bool := t.cause == 0x19 || t.cause == 0x1A || t.cause == 0x1B
    let frame := (s.recordOf (s.group r.gid).uid).frame
    let cancelled : Prop := (u.slice r).ended = true ∧
      ∀ x, s.unit? (s.group r.gid).uid = some x → ∃ y, u.unit? (s.group r.gid).uid = some y ∧ y.cancelled = some (x.cancelled.getD t.cause)
    (u.slice r).trap.xpc = a ∧ (u.slice r).trap.xaddr = t.addr ∧ (u.slice r).trap.xmask = t.lanes.zeroExtend 32 ∧ (u.slice r).trap.xinfo = t.info ∧
    ((never = true ∨ (s.slice r).trap.xcause.getLsbD 31 = true) →
      (u.slice r).trap.xcause = ((s.slice r).trap.xcause &&& 0x80000000) ||| word t.cause ∧ cancelled) ∧
    (never = false → (s.slice r).trap.xcause.getLsbD 31 = false →
      let v := s.modSlice r (fun sl => { sl.record t a true with regpc := 0, wait := none })
      (u.slice r).trap.xcause = 0x80000000 ||| word t.cause ∧ (frame = 0 → cancelled) ∧
      (frame ≠ 0 → match (v.readGlb r frame 8 needRead 0).2 with
        | .inl (bs, _) =>
          let h := dword (fromBytes bs)
          if h = 0 ∨ h.extractLsb' 0 2 ≠ 0 then cancelled
          else u.slice r = { s.slice r with trap := (u.slice r).trap, regpc := 0, wait := none, pc := h }
        | .inr (_, .fault seq) => (u.slice r).wait = some (.handler (.fault seq) t.cause)
        | .inr (_, .migrate p n) => (u.slice r).wait = some (.handler (.migration p n) t.cause)
        | .inr _ => cancelled))

/-- R37, R38, R138, R405: SRD writes the special register of its index, of one word or two, and a read of TIME latches TOFS and TRATE of the die. -/
def Obligations.SpecialRegisterReads : Prop :=
  EachW 0x4E .srd (fun i s who cs => Performs i s who cs (fun c sl =>
    let d := s.die (s.group c.ref.gid).die
    let y : Slice := if WForm.field c.g.w 55 50 = 0x19 then { sl with latch := some (d.tofs, d.trate) } else sl
    let n := if [0x09, 0x0A, 0x0B, 0x18, 0x19, 0x1A, 0x1B, 0x20, 0x22, 0x2C].contains (WForm.field c.g.w 55 50) then 2 else 1
    y.put n c.g.w.d.toNat c.eff (Lanes.ofFn (fun i => srValue s c.ref i (WForm.field c.g.w 55 50)))) never) ∧
  (∀ (s : State) (r : SliceRef) (i : Nat),
    let g := s.group r.gid
    let sl := s.slice r
    srValue s r i 0x00 = dword i ∧ srValue s r i 0x01 = dword r.idx ∧
    srValue s r i 0x02 = dword (g.gangSize * 2 ^ 16 + r.idx / g.gangSize * 2 ^ 8 + r.idx % g.gangSize) ∧ srValue s r i 0x03 = dword g.index ∧
    srValue s r i 0x04 = dword g.core ∧ srValue s r i 0x05 = dword (g.core / 8) ∧ srValue s r i 0x06 = dword g.die ∧ srValue s r i 0x07 = dword g.part ∧
    (∀ u, s.unit? g.uid = some u → srValue s r i 0x08 = dword u.unitId) ∧
    srValue s r i 0x09 = (s.recordOf g.uid).frame ∧ srValue s r i 0x0A = (s.recordOf g.uid).completion ∧ srValue s r i 0x0B = (s.recordOf g.uid).arg ∧
    srValue s r i 0x10 = (sl.xf.get i).zeroExtend 64 ||| (if g.gsat then 0x100 else 0) ∧ srValue s r i 0x11 = sl.fmt.zeroExtend 64 ∧
    srValue s r i 0x12 = ((sl.rng.get i).extractLsb' 0 32).zeroExtend 64 ∧ srValue s r i 0x13 = ((sl.rng.get i).extractLsb' 32 32).zeroExtend 64 ∧
    srValue s r i 0x14 = dword (g.gang (r.idx / g.gangSize)).declared ∧
    srValue s r i 0x15 = dword (min 2048 ((s.core g.coreRef).owned (g.gang (r.idx / g.gangSize)).slot + (g.gang (r.idx / g.gangSize)).lost)) ∧ srValue s r i 0x16 = dword (g.gang (r.idx / g.gangSize)).victims ∧
    srValue s r i 0x18 = dword (s.core g.coreRef).clock ∧ srValue s r i 0x19 = (s.die g.die).time ∧
    (sl.latch = none → srValue s r i 0x1A = (s.die g.die).tofs ∧ srValue s r i 0x1B = (s.die g.die).trate) ∧
    (∀ x, sl.latch = some x → srValue s r i 0x1A = x.1 ∧ srValue s r i 0x1B = x.2) ∧
    srValue s r i 0x20 = sl.trap.xpc ∧ srValue s r i 0x21 = sl.trap.xcause.zeroExtend 64 ∧ srValue s r i 0x22 = sl.trap.xaddr ∧
    srValue s r i 0x23 = sl.trap.xmask.zeroExtend 64 ∧ srValue s r i 0x24 = sl.trap.xinfo.zeroExtend 64 ∧ srValue s r i 0x28 = sl.txstat.zeroExtend 64 ∧
    srValue s r i 0x29 = (s.core g.coreRef).matrix.confl.zeroExtend 64 ∧ srValue s r i 0x2A = (s.core g.coreRef).mint.stat.zeroExtend 64 ∧
    srValue s r i 0x2B = (word (sl.retry.used % 2 ^ 11 * 2 ^ 21 + sl.retry.cexp * 2 ^ 16 + sl.retry.wlim)).zeroExtend 64 ∧ srValue s r i 0x2C = sl.regpc)

/-- R28, R30, R38, R138, R139, R142, R147, R149, R170: SETFMT writes the fields of FMT whose write bit is set, and REGION sets REGPC to A + 8; SWR closes an open region and writes the special register of its index: lane registers in the effective lanes, others from the highest effective lane; a read-only register takes trap 0x09, and a reserved value trap 0x02. That XMASK of the traps of SWR holds the effective lanes is the model's reading, not the rules' words (log 71). -/
def Obligations.SpecialRegisterWrites : Prop :=
  EachW 0x4F .swr (fun i s who cs =>
    let n (c : Ctx) : Nat := WForm.field c.g.w 55 50
    let x (c : Ctx) (sl : Slice) (i : Nat) : Dword := sl.operandN (srWords (n c)) c.g0 c.g.w.a.toNat i
    let top (m : Mask) : Nat := if m.getLsbD 3 then 3 else if m.getLsbD 2 then 2 else if m.getLsbD 1 then 1 else 0
    let v (c : Ctx) (sl : Slice) : Dword := x c sl (top c.eff)
    let lo (c : Ctx) (sl : Slice) : Word := lowWord (v c sl)
    let bad (c : Ctx) (sl : Slice) : Bool :=
      (n c == 0x11 && decide (5 ≤ (lo c sl).toNat % 8)) || (n c == 0x2B && decide ((lo c sl).toNat / 2 ^ 16 % 2 ^ 5 < 8))
    let writable (c : Ctx) : Bool := [0x10, 0x11, 0x12, 0x13, 0x20, 0x21, 0x22, 0x23, 0x24, 0x2B].contains (n c)
    ((∀ c ∈ cs, writable c = true ∧ n c ≠ 0x10 ∧ bad c (s.slice c.ref) = false) →
      Performs i s who cs (fun c sl0 =>
        let sl : Slice := { sl0 with regpc := 0 }
        match n c with
        | 0x11 => { sl with fmt := (lo c sl).extractLsb' 0 10 }
        | 0x12 => { sl with rng := Lanes.merge c.eff sl.rng (Lanes.ofFn (fun i => (sl.rng.get i).extractLsb' 32 32 ++ lowWord (x c sl i))) }
        | 0x13 => { sl with rng := Lanes.merge c.eff sl.rng (Lanes.ofFn (fun i => lowWord (x c sl i) ++ (sl.rng.get i).extractLsb' 0 32)) }
        | 0x20 => { sl with trap := { sl.trap with xpc := v c sl } }
        | 0x21 => { sl with trap := { sl.trap with xcause := lo c sl &&& 0x800000FF } }
        | 0x22 => { sl with trap := { sl.trap with xaddr := v c sl } }
        | 0x23 => { sl with trap := { sl.trap with xmask := lo c sl &&& 0xF } }
        | 0x24 => { sl with trap := { sl.trap with xinfo := lo c sl } }
        | _ => { sl with retry := { sl.retry with cexp := (lo c sl).toNat / 2 ^ 16 % 2 ^ 5, wlim := (lo c sl).toNat % 2 ^ 11 } }) never) ∧
    ((∀ c ∈ cs, n c = 0x10) → ∃ t, exec i s = .next t ∧ OnlySlices s t who.gid (cs.map (fun c => c.ref.idx)) ∧
      (∀ c ∈ cs, ∃ l, t.slice c.ref =
        { s.slice c.ref with
          regpc := 0
          xf := Lanes.merge c.eff (s.slice c.ref).xf (Lanes.ofFn (fun i => (x c (s.slice c.ref) i).extractLsb' 0 6))
          pc := c.g.next
          sub := l }) ∧
      (t.group who.gid).gsat = ((s.group who.gid).gsat && !cs.any (fun c => c.eff.lanes.any (fun i => (x c (s.slice c.ref) i).getLsbD 8)))) ∧
    (∀ c, cs = [c] → writable c = false → Traps i s who c s ⟨0x09, c.g.addr, c.eff, 12⟩) ∧
    (∀ c, cs = [c] → writable c = true → bad c (s.slice c.ref) = true → Traps i s who c (s.closeRegion c.ref) ⟨0x02, c.g.addr, c.eff, 0xC0⟩)) ∧
  EachW 0x50 .setfmt (fun i s who cs => Performs i s who cs (fun c sl =>
    let f := WForm.field c.g.w
    { sl with
      fmt := (if f 62 62 = 1 then BitVec.ofNat 6 (f 59 54) else sl.fmt.extractLsb' 4 6) ++
        ((if f 61 61 = 1 then BitVec.ofNat 1 (f 53 53) else sl.fmt.extractLsb' 3 1) ++
          (if f 60 60 = 1 then BitVec.ofNat 3 (f 52 50) else sl.fmt.extractLsb' 0 3)) }) never) ∧
  EachW 0x51 .region (fun i s who cs => Performs i s who cs (fun c sl => { sl with regpc := (c.g.addr + 8) &&& ~~~1 }) never)

/-- R140, R180, R187 to R189, R183, R194, R195, R197: YIELD ends the run of its gang's pipe, whose subgang is spent; gangs are taken oldest first; a gang whose slices have waited for 512 cycles goes dormant; dormant gangs that the procedure of R187 names become active; at the end of a window LOST halves, holds count down, and too many lost-locality events demote the youngest active gang but the oldest; a pipe goes on with its run until it has issued 16 groups, and else takes the first ready subgang that is not spent. A shadow that goes through a group changes nothing but shadows, unless it finds something different, consumes poison or is taken from its path. -/
def Obligations.GangsTakeTurns : Prop :=
  let inOrder (s : State) (at_ : CoreRef) (pipe : Nat) : List Issuer := (s.subgangsOn at_ pipe).filter s.ready
  EachForm 0x52 .yield .yieldC (fun i s who cs => ∀ c, cs = [c] →
    let g := s.group who.gid
    let pipe (k : Core) : Pipe := k.pipes.getD (g.gang who.gang).pipe Pipe.idle
    ∃ t, exec i s = .next t ∧ { t with groups := s.groups, dies := s.dies } = s ∧
      (∃ l, t.slice c.ref = { s.slice c.ref with regpc := 0, pc := c.g.next, sub := l }) ∧
      (∀ k, k ≠ g.coreRef → t.core k = s.core k) ∧ { t.core g.coreRef with pipes := (s.core g.coreRef).pipes } = s.core g.coreRef ∧
      (g.die < 8 → g.core < 96 → (g.gang who.gang).pipe < 4 →
        pipe (t.core g.coreRef) = match (pipe (s.core g.coreRef)).run with
          | some r => { run := none, issued := 0, spent := r :: (pipe (s.core g.coreRef)).spent }
          | none => pipe (s.core g.coreRef))) ∧
  (∀ (s : State) (at_ : CoreRef), (s.gangsOf at_).Pairwise (fun x y => x.gang.age ≤ y.gang.age)) ∧
  (∀ (s : State) (g k : Nat),
    let x := (s.group g).gang k
    let due : Prop := x.active = true ∧ ∃ t, x.waitSince = some t ∧ t + 512 ≤ (s.core (s.group g).coreRef).clock
    (¬due → exec (.gangIdle g k) s = .next s) ∧
    (due → ∃ t, exec (.gangIdle g k) s = .next t ∧ SameDevice s t ∧ (t.group g).gang k = { x with active := false } ∧ (∀ j, j ≠ g → t.group j = s.group j) ∧
      (∀ j, j ≠ k → (t.group g).gang j = (s.group g).gang j) ∧ { t.group g with gangs := (s.group g).gangs } = s.group g)) ∧
  (∀ (s : State) (at_ : CoreRef), ∃ t, exec (.leaseActivation at_) s = .next t ∧ SameDevice s t ∧ ∀ g k, k < (s.group g).gangs.length →
    (t.group g).gang k =
      if (s.toActivate at_).any (fun x => x.gid == g && x.k == k) then { (s.group g).gang k with active := true } else (s.group g).gang k) ∧
  (∀ (s : State) (at_ : CoreRef), at_.die < 8 → at_.core < 96 →
    let k := s.core at_
    let gs := s.gangsOf at_
    let victim := ((gs.drop 1).filter (fun x => x.gang.active)).getLast?
    (k.clock / 4096 ≤ k.window → exec (.leaseWindowEnd at_) s = .next s) ∧
    (k.window < k.clock / 4096 → ∃ t, exec (.leaseWindowEnd at_) s = .next t ∧ { t with groups := s.groups, dies := s.dies } = s ∧
      t.core at_ = { k with windowLost := 0, window := k.window + 1 } ∧ (∀ c, c ≠ at_ → t.core c = s.core c) ∧
      ∀ g j, j < (s.group g).gangs.length →
        let x := (s.group g).gang j
        let y : Gang := if (s.group g).coreRef = at_ ∧ (s.group g).swapped = false ∧ (s.group g).unended j ≠ [] then { x with lost := x.lost / 2, heldWindows := x.heldWindows - 1 } else x
        (t.group g).gang j =
          if k.lthresh ≠ 0 ∧ k.lthresh < k.windowLost ∧ victim.any (fun v => v.gid == g && v.k == j) = true then { y with active := false, heldWindows := 1 } else y)) ∧
  (∀ (s : State) (at_ : CoreRef) (p : Nat), at_.die < 8 → at_.core < 96 → p < 4 →
    let pipe := (s.core at_).pipes.getD p Pipe.idle
    let ready := inOrder s at_ p
    let goesOn (w : Issuer) : Prop := pipe.run = some (w.gid, w.gang, w.sub) ∧ pipe.issued < 16
    let spent := pipe.run.toList ++ pipe.spent
    let fresh_ := ready.filter (fun w => !spent.contains (w.gid, w.gang, w.sub))
    ∃ t, exec (.issueSelection at_ p) s = .next t ∧ { t with dies := s.dies, issuer := s.issuer } = s ∧ (∀ c, c ≠ at_ → t.core c = s.core c) ∧
      { t.core at_ with pipes := (s.core at_).pipes } = s.core at_ ∧ (∀ q, q ≠ p → (t.core at_).pipes.getD q Pipe.idle = (s.core at_).pipes.getD q Pipe.idle) ∧
      (∀ w ∈ ready, goesOn w → t.issuer = some w ∧ (t.core at_).pipes.getD p Pipe.idle = { pipe with issued := pipe.issued + 1 }) ∧
      ((∀ w ∈ ready, ¬goesOn w) →
        (∀ w rest, fresh_ = w :: rest →
          t.issuer = some w ∧ (t.core at_).pipes.getD p Pipe.idle = { run := some (w.gid, w.gang, w.sub), issued := 1, spent := spent }) ∧
        (∀ w rest, fresh_ = [] → ready = w :: rest →
          t.issuer = some w ∧ (t.core at_).pipes.getD p Pipe.idle = { run := some (w.gid, w.gang, w.sub), issued := 1, spent := [] }) ∧
        (ready = [] → t.issuer = s.issuer))) ∧
  (∀ (run : Instr → State → Outcome) (s : State) (who : Issuer) (n : Nat) (x : Trailing),
    (s.group who.gid).nextTrailing who.gang (who.sub - 2000) = some (n, x) → x.members.Nodup →
    let quiet (t : State) (i : Nat) : Prop :=
      let was := (s.shadowOf ⟨who.gid, i⟩).slice
      let now := (t.group who.gid).slice i
      (now.regpc.getLsbD 0 = true → was.regpc.getLsbD 0 = true) ∧ { was with pc := x.addr }.diverted now = false ∧ now.ended = false
    (x.own = false ∧ x.queued = false ∨ x.own = true ∧ ∃ t, run x.instr (s.asShadows who.gid x.gang x.members x.addr) = .next t ∧ ∀ i ∈ x.members, quiet t i) →
    let t := s.trailStep run who
    SameDevice s t ∧ (∀ k, k ≠ who.gid → t.group k = s.group k) ∧
    { t.group who.gid with shadows := (s.group who.gid).shadows, trail := (s.group who.gid).trail } = s.group who.gid)

/-- R192, R193: LEASE declares the lease of its gang, and with REQ the gang is dormant, not held, and the subgang waits at A + 8; a value above 2,048 takes trap 0x1D; LEASEQ writes one sampled value to d. That LEASEQ and LEASE take their operand from the lowest lane of the lowest participating slice is the model's reading (log 85). -/
def Obligations.Leases : Prop :=
  EachW 0x53 .lease (fun i s who cs => ∀ c0 rest, cs = c0 :: rest → (∀ c ∈ cs, (s.slice c.ref).tx = none) →
    let req : Bool := WForm.field c0.g.w 63 63 == 1
    let n := if WForm.field c0.g.w 50 50 = 1 then WForm.field c0.g.w 62 51 else ((s.slice c0.ref).operand c0.g0 c0.g.w.a.toNat (lowestLane c0.eff)).toNat
    let me := (s.group who.gid).gang who.gang
    (n ≤ 2048 → who.gang < (s.group who.gid).gangs.length → ∃ t, exec i s = .next t ∧ SameDevice s t ∧ (∀ k, k ≠ who.gid → t.group k = s.group k) ∧
      (∃ b, (t.group who.gid).gang who.gang =
        if req then { me with declared := n, active := false, heldWindows := 0, parted := b } else { me with declared := n, parted := b }) ∧
      (∀ k, k ≠ who.gang → (t.group who.gid).gang k = (s.group who.gid).gang k) ∧
      (∀ c ∈ cs, ∃ l, t.slice c.ref = { s.slice c.ref with wait := if req then some .leaseReq else none, pc := c.g.next, sub := l }) ∧
      (∀ k, k ∉ cs.map (fun c => c.ref.idx) → { (t.group who.gid).slice k with sub := ((s.group who.gid).slice k).sub } = (s.group who.gid).slice k)) ∧
    (2048 < n → rest = [] → Traps i s who c0 s ⟨0x1D, 0, c0.eff, word n⟩)) ∧
  EachW 0x54 .leaseq (fun i s who cs => ∀ c0 rest, cs = c0 :: rest →
    let k := s.core (s.group who.gid).coreRef
    let gs := s.gangsOf (s.group who.gid).coreRef
    let me := (s.group who.gid).gang who.gang
    let total (xs : List GangAt) : Nat := ((xs.filter (fun x => x.gang.active)).map (fun x => effectiveLease k x.gang)).foldl (· + ·) 0
    let a := ((s.slice c0.ref).operand c0.g0 c0.g.w.a.toNat (lowestLane c0.eff)).toNat
    let v : Word :=
      match WForm.field c0.g.w 51 50 with
      | 0 => BitVec.ofInt 32 ((2048 * k.lfact / 1000 : Nat) - (total gs : Int))
      | 1 => word (max 8 (max me.declared (min 2048 (k.owned me.slot + me.lost))))
      | 2 => word (gs.length * 2 ^ 16 + (gs.filter (fun x => x.gang.active)).length)
      | _ => if total (gs.filter (fun x => !(x.gid == who.gid && x.k == who.gang))) + max 8 (max a (min 2048 (k.owned me.slot + me.lost))) ≤ 2048 * k.lfact / 1000
        then 1 else 0
    Performs i s who cs (fun c sl => sl.setLanes c.g.w.d.toNat c.eff (Lanes.all v)) never)

/-! ### Slice memory -/

/-- R22, R157: LD and LDS make their destination empty in the effective lanes and the values found at the lanes' places come to it; LDS makes one access for all of its lanes. A byte is found as it stands, or, on path B of a SPLIT, as it stood before a store of path A (R130), which of them being open; JOIN ends that, and so does an acquire. How a slice keeps what its paths have stored, and which of the older values are possible, is the model's choice (log 92); so are the events that deliver a value (log 6). -/
def Obligations.LoadsFillDestinations : Prop :=
  let load (c : Ctx) (a : Access) (x : State) (i : Nat) (p : Place) : State := ((match p with | .glb pa => x.loadTouch c.ref a.hint pa | _ => x).loadSeen c.ref p a.size).owing c.ref a i (a.words (x.loadBytes c.ref p a.size)) (x.markAt a i p)
  EachW 0x60 .ld (Goes (Gives anywhere (fun c sl => c.access .load true (c.g.pfx.order 0 == 1) false false sl) load)) ∧
  EachW 0x6B .lds (Goes (Gives anywhere (fun c sl => c.access .load true (c.g.pfx.order 0 == 1) false true sl) load)) ∧
  (∀ (sl : Slice) (cut : Nat) (space : Space) (home pa : Nat) (now : List Byte), (sl.sees cut space home pa now).length = now.length ∧
    ∀ k, k < now.length → (sl.sees cut space home pa now)[k]? = now[k]? ∨
      ∃ x ∈ sl.pathStores, x.low ∈ x.paths ∧ x.space = space ∧ x.home = home ∧ x.addr = pa + k ∧ (sl.sees cut space home pa now)[k]? = some x.was) ∧
  (∀ (sl : Slice) e x, sl.pop = some (e, x) → ∀ y ∈ x.pathStores, y.low ≤ x.depth ∧ ∃ k ∈ y.paths, k ≤ y.low) ∧
  (∀ (g : Grp) (sl : Slice), g.shape.acquires = true → (g.closed sl).pathStores = []) ∧
  (∀ (s : State) (r : SliceRef) (k : Nat) (o : Owed), (s.slice r).owed[k]? = some o → ∃ t, exec (.loadValueArrival r k) s = .next t ∧ SameDevice s t ∧
    (∀ q, q ≠ r → t.slice q = s.slice q) ∧ (t.slice r).owed = (s.slice r).owed.eraseIdx k ∧
    { t.slice r with v := (s.slice r).v, s := (s.slice r).s, owed := (s.slice r).owed } = s.slice r ∧
    (∀ x i, x < 192 → i < 4 → ((∀ j, j < o.regs → x ≠ o.dst + j) ∨ (x < 128 ∧ o.lane < 4 ∧ i ≠ o.lane)) →
      (t.slice r).reg x i = (s.slice r).reg x i ∧ (t.slice r).emptyIn x (Mask.one i) = (s.slice r).emptyIn x (Mask.one i)) ∧
    (o.lane < 4 → o.words.length = o.regs → o.dst + o.regs ≤ (if o.dst < 128 then min 128 (s.slice r).v.length else 192) → ∀ j, j < o.regs →
      some ((t.slice r).reg (o.dst + j) o.lane) = o.words[j]? ∧ (t.slice r).emptyIn (o.dst + j) (Mask.one o.lane) = 0 ∧
      (t.slice r).poisonOf (o.dst + j) o.lane = o.poison))

/-- R157, R158, R130: ST writes the low bytes of c at the place of each effective lane, a byte that several lanes write taking that of the highest; every other byte of every space is as it was after translation. On path B of a SPLIT a store that is no release may come before a store of path A, whose byte then stays; how a slice keeps those stores, and which of them it overtakes, is the model's choice (log 92). -/
def Obligations.StoresWriteBytes : Prop :=
  let acc (c : Ctx) (sl : Slice) : Access := c.access .store false false (c.g.pfx.order 0 == 2) false sl
  let store (c : Ctx) (a : Access) (x : State) (i : Nat) (p : Place) : State :=
    let y := ((x.storeNoted c.ref p a.size).toHome c.ref .store p).writePlace (some c.ref) p (x.storeLeaves c.ref a p (toBytes a.size (a.c.get i).toNat)) (a.poison.get i).isSome
    match p with | .glb pa => y.l1Store (y.group c.ref.gid).coreRef (some ((y.group c.ref.gid).slotOf c.ref.idx)) pa | _ => y
  EachW 0x61 .st (Goes (Puts anywhere acc store)) ∧
  EachW 0x61 .st (fun i s _ cs => ∀ c v p t, cs = [c] →
    let s0 := s.closing c.g [c]
    let a := acc c (s0.slice c.ref)
    a.Reaches c s0 v p → (s.group c.ref.gid).die < 8 → (s.group c.ref.gid).core < 96 → exec i s = .next t →
    (∀ q : Place, q.real → (∀ j ∈ c.eff.lanes, ∀ k, k < a.size → q ≠ (p j).plus k) → t.readPlace q 1 = v.readPlace q 1) ∧
    ((∀ x ∈ (s.slice c.ref).pathStores, x.low ∉ x.paths) ∨ a.release = true →
      ∀ j ∈ c.eff.lanes, (p j).real → ∀ k, k < a.size → (∀ h ∈ c.eff.lanes, j < h → ∀ n, n < a.size → (p h).plus n ≠ (p j).plus k) →
      t.readPlace ((p j).plus k) 1 = [(dataOf (s.slice c.ref) c.g0 c.g.w.c.toNat a.regs j).extractLsb' (8 * k) 8])) ∧
  (∀ (sl : Slice) (cut : Nat) (space : Space) (home pa : Nat) (now data : List Byte), now.length = data.length → let y := sl.overtaken cut space home pa now data
    y.length = data.length ∧ ∀ k, k < data.length → y[k]? = data[k]? ∨
      (∃ x ∈ sl.pathStores, x.low ∈ x.paths ∧ x.space = space ∧ x.home = home ∧ x.addr = pa + k) ∧ y[k]? = now[k]?)

/-- R164, R165: the full/empty forms act on the whole word of each lane, in ascending order: LDW and LDC where it is full, STF where it is empty, FEQ and FESET always; a lane whose word is not as the form needs it parks, and so does the higher of two LDC or STF lanes on one word. -/
def Obligations.FullEmptyForms : Prop :=
  let ldw (c : Ctx) (sl : Slice) : Access := c.access .ldw true true false false sl
  let ldc (c : Ctx) (sl : Slice) : Access := c.access .ldc true true false false sl
  let stf (c : Ctx) (sl : Slice) : Access := c.access .stf false false true false sl
  let feq (c : Ctx) (sl : Slice) : Access := memAccess .feq 8 1 false true false false false 1 c sl
  let feset (c : Ctx) (sl : Slice) : Access := memAccess .feset 8 1 false false false false false 1 c sl
  let full (v : State) (is : List Nat) (p : Nat → Place) : Prop := ∀ i ∈ is, v.fullPlace (p i) = true
  let wrote (c : Ctx) (a : Access) (x : State) (i : Nat) (p : Place) : State :=
    (x.toHome c.ref .stf p).writePlace (some c.ref) p (toBytes a.size (a.c.get i).toNat) (a.poison.get i).isSome
  EachW 0x62 .ldw (Goes (Gives full ldw (fun c a x i p => (x.toHome c.ref .ldw p).owing c.ref a i (a.words (x.readPlace p a.size)) (x.markAt a i p)))) ∧
  EachW 0x63 .ldc (Goes (Gives (fun v is p => full v is p ∧ Apart is p) ldc (fun c a x i p =>
    ((x.toHome c.ref .ldc p).setFullPlace (some c.ref) p false).owing c.ref a i (a.words (x.readPlace p a.size)) (x.markAt a i p)))) ∧
  EachW 0x64 .stf (Goes (Puts (fun v is p => (∀ i ∈ is, v.fullPlace (p i) = false) ∧ Apart is p) stf (fun c a x i p => (wrote c a x i p).setFullPlace (some c.ref) p true))) ∧
  EachW 0x65 .feq (Goes (Gives anywhere feq (fun c a x i p => (x.toHome c.ref .feq p).owing c.ref a i [if x.fullPlace p then 1 else 0] (x.markAt a i p)))) ∧
  EachW 0x66 .feset (Goes (Puts anywhere feset (fun c a x i p =>
    (x.toHome c.ref .feset p).setFullPlace (some c.ref) p ((a.c.get i).extractLsb' 0 32 != 0)))) ∧
  (∀ s who pfx w c v p j,
    (∀ (a : Access), (Ready s who 0x62 true pfx w [c] → a = ldw c (s.slice c.ref) → a.todo = [j] → a.Reaches c (s.emptied c a) v p → v.fullPlace (p j) = false →
      Parks (.ldw pfx w) s who c ((v.toHome c.ref .ldw (p j)).parkLane c.ref j (p j) true false) (.access (a.setLane j .parked))) ∧
    (Ready s who 0x63 true pfx w [c] → a = ldc c (s.slice c.ref) → a.todo = [j] → a.Reaches c (s.emptied c a) v p → v.fullPlace (p j) = false →
      Parks (.ldc pfx w) s who c ((v.toHome c.ref .ldc (p j)).parkLane c.ref j (p j) true true) (.access (a.setLane j .parked))) ∧
    (Ready s who 0x64 true pfx w [c] → a = stf c (s.slice c.ref) → a.todo = [j] → a.Reaches c (s.closeRegion c.ref) v p → v.fullPlace (p j) = true →
      Parks (.stf pfx w) s who c ((v.toHome c.ref .stf (p j)).parkLane c.ref j (p j) false true) (.access (a.setLane j .parked)))) ∧
    ∀ i, i ∈ c.eff.lanes → j ∈ c.eff.lanes → i < j → (p i).word = (p j).word →
      (Ready s who 0x63 true pfx w [c] → (ldc c (s.slice c.ref)).Reaches c (s.emptied c (ldc c (s.slice c.ref))) v p →
        ∃ t b, exec (.ldc pfx w) s = .next t ∧ (t.slice c.ref).wait = some (.access b) ∧ b.lanes.get j = .parked) ∧
      (Ready s who 0x64 true pfx w [c] → (stf c (s.slice c.ref)).Reaches c (s.closeRegion c.ref) v p →
        ∃ t b, exec (.stf pfx w) s = .next t ∧ (t.slice c.ref).wait = some (.access b) ∧ b.lanes.get j = .parked))

/-- R155, R156: the address checks run before any lane accesses memory; the first that some lane fails traps with every lane that fails it and the address of the lowest. -/
def Obligations.AddressChecks : Prop :=
  let first (c : Ctx) (s : State) (n align : Nat) (once : Bool) : Option Trap :=
    ((c.addressChecks (s.group c.ref.gid) (s.slice c.ref) n align once).find? (fun x => x.1 != 0)).map (fun x =>
      ⟨x.2.1, effAddr c (s.slice c.ref) ((if once then c.eff else x.1).lanes.headD 0), x.1, word x.2.2⟩)
  let size (c : Ctx) : Nat := (Machine.sizeOf (WForm.field c.g.w 56 54)).1
  let each (op : Nat) (i : List Prefix → WForm → Instr) (n align : Ctx → Nat) (once : Bool) : Prop :=
    EachW op i (fun i s who cs => ∀ c t, cs = [c] → first c s (n c) (align c) once = some t → Traps i s who c (s.closing c.g [c]) t)
  each 0x60 .ld size size false ∧ each 0x61 .st size size false ∧ each 0x6B .lds size size true ∧
  each 0x62 .ldw size size false ∧ each 0x63 .ldc size size false ∧ each 0x64 .stf size size false ∧
  each 0x65 .feq (fun _ => 8) (fun _ => 8) false ∧ each 0x66 .feset (fun _ => 8) (fun _ => 8) false ∧
  each 0x69 .pref (fun _ => 1) (fun _ => 1) false

/-- R162, R163: BWIN translates the address in its register pair and fills a window with it, and BWREL empties one window or all; a window serves an access that lies in it and is not stale, with the window's own permissions; a stale window that has been used is translated again, and a failure leaves it stale. That XMASK of BWIN's traps holds the effective lanes is the model's reading, not the rules' words (log 71). -/
def Obligations.WindowsTranslate : Prop :=
  let window (va : Dword) (pa : Nat) (t : TlbEntry) : Window :=
    { vbase := va, frame := pa, limit := t.vpage + pageBytes t.size - va.toNat % 2 ^ 57, read := t.perm.r, write := t.perm.w, host := t.host,
      fe := t.perm.fe, stale := false, used := false }
  let unit (s : State) (g : Group) : Nat := match s.unit? g.uid with | some u => u.unitId | none => 0
  let reach (c : Ctx) (s : State) : State × Reach :=
    s.reach (s.group c.ref.gid).coreRef (s.group c.ref.gid).part (unit s (s.group c.ref.gid)) (c.pairA (s.slice c.ref)) needRead 0 false
  EachW 0x67 .bwin (Goes (fun c s u => canonical (c.pairA (s.slice c.ref)) = true ∧ ∃ v pa t, reach c s = (v, .ok pa t) ∧
    u = v.modSlice c.ref (fun sl =>
      let w := window (c.pairA (s.slice c.ref)) pa t
      let y : Slice := { sl with w := sl.w.set (WForm.field c.g.w 52 50) (some w) }
      if WForm.field c.g.w 53 53 = 1 then y.setLanes c.g.w.d.toNat c.eff (Lanes.all (word w.limit)) else y))) ∧
  EachW 0x67 .bwin (fun i s who cs => ∀ c, cs = [c] →
    let va := c.pairA (s.slice c.ref)
    (canonical va = false → Traps i s who c s ⟨0x09, va, c.eff, 1⟩) ∧
    (canonical va = true →
      (∀ v code, reach c s = (v, .denied code) → Traps i s who c v ⟨0x09, va, c.eff, word code⟩) ∧
      (∀ v seq, reach c s = (v, .fault seq) → Parks i s who c v (.replay (.fault seq) ⟨0x08, va, c.eff, word (16 * c.eff.toNat)⟩)) ∧
      (∀ v, reach c s = (v, .unresolvable) → Traps i s who c v ⟨0x08, va, c.eff, word (16 * c.eff.toNat)⟩))) ∧
  EachW 0x68 .bwrel (fun i s who cs => Performs i s who cs (fun c sl =>
    { sl with w := if WForm.field c.g.w 53 53 = 1 then Bank.all 8 none else sl.w.set (WForm.field c.g.w 52 50) none }) never) ∧
  (∀ (s : State) r lane ea n (x : Window) need kind atHome, x.stale = false → (ea - x.vbase).toNat + n ≤ x.limit → x.limit < 2 ^ 63 →
    let miss := need.missing ⟨x.read, x.write, false, x.fe⟩
    let pa := x.frame + (ea - x.vbase).toNat
    (∀ code, miss = some code → s.spot r lane .glb ea n (some x) need kind atHome = (s, .denied code)) ∧
    (miss = none → (x.host && (atHome || need.fe)) = false → s.physKind pa ≠ .registers →
      s.spot r lane .glb ea n (some x) need kind atHome = (s, .at_ (.glb pa)))) ∧
  (∀ (s : State) r lane ea n (x : Window) need kind atHome,
    (x.stale = true ∨ x.limit < (ea - x.vbase).toNat + n) → s.spot r lane .glb ea n (some x) need kind atHome = s.spot r lane .glb ea n none need kind atHome) ∧
  (∀ (s : State) (r : SliceRef) (k : Nat) (x : Window), (s.slice r).w.getD k none = some x →
    let g := s.group r.gid
    let put (v : State) (y : Window) : State := v.modSlice r (fun sl => { sl with w := sl.w.set k (some y) })
    ((x.stale && x.used) = false → exec (.windowRetranslation r k) s = .next s) ∧
    ((x.stale && x.used) = true → ∀ v t pa, s.translate g.coreRef g.part x.vbase.toNat false = (v, .ok t pa) →
      v.mustMigrate t (x.vbase.toNat % 2 ^ 57) = false → exec (.windowRetranslation r k) s = .next (put v (window x.vbase pa t))) ∧
    ((x.stale && x.used) = true → ∀ v e, s.translate g.coreRef g.part x.vbase.toNat false = (v, e) → (∀ t pa, e ≠ .ok t pa) →
      exec (.windowRetranslation r k) s = .next (put v { x with used := false })))

/-- R175, R176, R462: PREF changes no register, flag, full/empty bit or byte of its slices and parks nothing; FENCE marks the lines of its core's L1 stale where it acquires at cluster scope or wider, and a release at system scope waits for the lines that the device has asked back from the host. That a release at system scope waits for those lines is the model's reading of R461, and a back-invalidate its own event (logs 5, 48); a FENCE of any order also ends what a path of a SPLIT may still find older (log 92). -/
def Obligations.PrefetchAndFence : Prop :=
  EachW 0x69 .pref (fun i s _ cs => ∀ c, cs = [c] →
    (c.addressChecks (s.group c.ref.gid) (s.slice c.ref) 1 1 false).all (fun x => x.1 == 0) = true →
    ∃ t, exec i s = .next t ∧ (∃ l y, t.slice c.ref = { s.slice c.ref with pc := c.g.next, w := y, sub := l }) ∧
      (∀ q, q ≠ c.ref → { t.slice q with sub := (s.slice q).sub } = s.slice q) ∧
      (spaceOf c.g.pfx.space ≠ .glb → ∀ q, t.memAt q = s.memAt q) ∧
      (∀ q, q.space ≠ .glb → t.memAt q = s.memAt q) ∧ t.mem.empties = s.mem.empties ∧ t.mem.poison = s.mem.poison) ∧
  EachW 0x6A .fence (Goes (fun c s u =>
    let scope := c.g.pfx.scope 4
    let order := c.g.pfx.order 3
    ¬ (2 ≤ order ∧ 5 ≤ scope ∧ s.backInvalidates ≠ []) ∧
    u = if order % 2 = 1 ∧ 2 ≤ scope then
        s.modCore (s.group c.ref.gid).coreRef (fun k => { k with l1 := k.l1.map (fun x => { x with stale := true }) })
      else s)) ∧
  EachW 0x6A .fence (fun i s who cs => ∀ c, cs = [c] → 2 ≤ c.g.pfx.order 3 → 5 ≤ c.g.pfx.scope 4 → s.backInvalidates ≠ [] →
    exec i s = .next (((s.closing c.g [c]).modSlice c.ref (fun sl =>
      { sl with wait := some (.release s.backInvalidates (c.g.pfx.order 3 % 2 == 1) c.g.next) })).divide who.gid who.gang))

/-- R171, R467: a lane that meets a page fault parks its slice with what remains to be done; lanes that no answer can resolve trap once the translated lanes are performed; a lane that a permission stops traps with its code; and a parked instruction is replayed with the operands it had. That the layout of R467 serves an access of one lane too, and that a denied lane comes before one whose fault has failed, is the model's reading (log 18), and a failed fault's trap waits for the shadow of its slice to reach the instruction (log 14). -/
def Obligations.FaultingLanes : Prop :=
  let each (op : Nat) (i : List Prefix → WForm → Instr) (acc : Ctx → Slice → Access) (kind : Nat) : Prop :=
    EachW op i (fun i s who cs => ∀ c, cs = [c] →
      let s0 := s.closing c.g [c]
      let a := acc c (s.slice c.ref)
      let s1 := if a.returns then s0.emptied c a else s0
      a.check (s.group c.ref.gid) (s.slice c.ref) = none → a.transacts (s.slice c.ref) = false → ∀ v j,
      (∀ seq, a.todo = [j] → (s1.noteStale c.ref a).spots c.ref a (a.windowOf (s.slice c.ref)) false [j] = (v, [(j, .fault seq)]) →
        Parks i s who c v (.access (a.setLane j (.faulted seq)))) ∧
      (∀ code, a.todo = [j] → (s1.noteStale c.ref a).spots c.ref a (a.windowOf (s.slice c.ref)) false [j] = (v, [(j, .denied code)]) →
        Traps i s who c (v.dropAccess c.ref a) ⟨0x09, a.ea.get j, c.eff, word (code + 16 * 2 ^ j)⟩) ∧
      (∀ xs, (s1.noteStale c.ref a).spots c.ref a (a.windowOf (s.slice c.ref)) false a.todo = (v, xs) →
        (∀ x ∈ xs, match x.2 with | .denied _ => False | _ => True) → j ∈ a.todo → (j, .unresolvable) ∈ xs →
        (∀ k, (k, .unresolvable) ∈ xs → j ≤ k) →
        let y := xs.foldl (State.placeLane c.ref) (v, a)
        Traps i s who c (y.1.dropAccess c.ref y.2) ⟨0x08, a.ea.get j, y.2.left, word (kind + 16 * (unresolvableLanes xs).toNat)⟩))
  each 0x60 .ld (fun c sl => c.access .load true (c.g.pfx.order 0 == 1) false false sl) 0 ∧
  each 0x61 .st (fun c sl => c.access .store false false (c.g.pfx.order 0 == 2) false sl) 1 ∧
  each 0x62 .ldw (fun c sl => c.access .ldw true true false false sl) 2 ∧
  each 0x63 .ldc (fun c sl => c.access .ldc true true false false sl) 2 ∧
  each 0x64 .stf (fun c sl => c.access .stf false false true false sl) 2 ∧
  each 0x65 .feq (memAccess .feq 8 1 false true false false false 1) 2 ∧
  each 0x66 .feset (memAccess .feset 8 1 false false false false false 1) 2 ∧
  (∀ (s : State) (r : SliceRef) (a : Access) (j seq : Nat), (s.slice r).wait = some (.access a) → j < 4 → a.lanes.get j = .faulted seq →
    (∀ i, i < 4 → i ≠ j → a.lanes.get i = .off ∨ a.lanes.get i = .done) →
    let g := s.group r.gid
    (g.swapped = true ∨ s.faultAnswer g.part seq = none → exec (.faultReplay r) s = .next s) ∧
    (g.swapped = false → g.behind r.idx = false → s.faultAnswer g.part seq = some false → exec (.faultReplay r) s =
      .next ((((s.dropAccess r a).modSlice r (fun sl => { sl with wait := none })).takeTrap r a.addr
        ⟨0x08, a.ea.get j, a.left, word (a.op.kind + 16 * 2 ^ j)⟩).divide r.gid (r.idx / g.gangSize))) ∧
    (g.swapped = false → s.faultAnswer g.part seq = some true → a.transacts (s.slice r) = false → a.op = .store → ∀ v p,
      (s.noteStale r a).spots r a (a.windowOf (s.slice r)) false [j] = (v, [(j, .at_ p)]) →
      ∃ t, exec (.faultReplay r) s = .next t ∧ (t.slice r).wait = none ∧ (t.slice r).pc = a.next ∧
        (∀ q, t.memAt q = (v.writePlace (some r) p (v.storeLeaves r a p (a.storeBytes v.mem j p)) (a.poison.get j).isSome).memAt q)))

/-- R166, R169, R170: a change of a word's bit wakes entries of its park list in order (in cluster memory and the chip scratchpad, which are a resident partition's own, those of that partition): on full, every LDW entry before the first LDC and that LDC; on empty, the first STF; every entry keeps its place. A woken lane that finds its word as it needs it is performed, and the slice goes on when none is left; one that does not has lost a race and keeps its parking time, and spends a unit where a change of its word had woken it and not a shootdown alone; the slice traps when the race limit or the cycle limit is reached, with the lanes not performed. That the trap waits for the shadow of its slice to reach the instruction is the model's (log 14); which entry goes first is in log 52. -/
def Obligations.WaitsOnWords : Prop :=
  (∀ (s : State) (space : Space) (home word : Nat) (full : Bool) (n : Nat) (e : ParkEntry), s.parks[n]? = some e →
    let away (e : ParkEntry) : Bool := (e.space == .cls || e.space == .chp) && (s.group e.ref.gid).swapped
    let waits (e : ParkEntry) : Bool := e.space == space && e.home == home && e.word == word && !away e && !e.woken && e.wantsFull == full
    (s.wake space home word full).parks[n]? =
      some { e with woken := e.woken || (waits e && !(List.range n).any (fun m => match s.parks[m]? with | some f => waits f && (!full || f.takes) | none => false)) }) ∧
  let code (op : AccessOp) : Nat := match op with | .ldw => 1 | .ldc => 2 | _ => 3
  let out (s : State) (r : SliceRef) (a : Access) (cycles : Bool) : State :=
    ((((s.withdraw r).modSlice r (fun sl => sl.abandon a)).modSlice r (fun sl => { sl with wait := none })).takeTrap r a.addr
      ⟨0x06, dword ((a.lowest a.left).toNat / 8 * 8), a.left, word ((if cycles then 1 else 0) + 2 * code a.op)⟩).divide r.gid (r.idx / (s.group r.gid).gangSize)
  (∀ (s : State) (r : SliceRef) (a : Access) (j : Nat) (v : State) (p : Place), (s.slice r).wait = some (.access a) → j < 4 → a.lanes.get j = .woken →
    (∀ i, i < 4 → i ≠ j → a.lanes.get i = .off ∨ a.lanes.get i = .done) → a.transacts (s.slice r) = false →
    (s.noteStale r a).spots r a (a.windowOf (s.slice r)) false [j] = (v, [(j, .at_ p)]) →
    let on (x : State) : State :=
      (((x.unparkLane r j).finishAccess r a).modSlice r (fun sl => { sl with wait := none, pc := a.next })).divide r.gid (r.idx / (s.group r.gid).gangSize)
    (a.op = .ldw → v.fullPlace p = true → ∃ t, exec (.feReissue r j) s = .next t ∧ t = on ((v.toHome r .ldw p).owing r a j (a.words (v.readPlace p a.size)) (v.markAt a j p))) ∧
    (a.op = .ldc → v.fullPlace p = true → ∃ t, exec (.feReissue r j) s = .next t ∧
      t = on (((v.toHome r .ldc p).setFullPlace (some r) p false).owing r a j (a.words (v.readPlace p a.size)) (v.markAt a j p))) ∧
    (a.op = .stf → v.fullPlace p = false → ∃ t, exec (.feReissue r j) s = .next t ∧
      t = on (((v.toHome r .stf p).writePlace (some r) p (toBytes a.size (a.c.get j).toNat) (a.poison.get j).isSome).setFullPlace (some r) p true)) ∧
    ((a.op = .ldw ∨ a.op = .ldc) ∧ v.fullPlace p = false ∨ a.op = .stf ∧ v.fullPlace p = true → ∀ e, v.parkEntry? r j = some e →
      let spent := if e.woken = true ∧ e.free = false then 1 else 0
      (s.slice r).retry.wlim = 0 ∨ (s.slice r).retry.used + spent < (s.slice r).retry.wlim →
      ∃ t, exec (.feReissue r j) s = .next t ∧ (t.slice r).retry.used = (s.slice r).retry.used + spent ∧
        (t.slice r).wait = some (.access (a.setLane j .parked)) ∧ t.parks.map (fun e => e.stamp) = v.parks.map (fun e => e.stamp))) ∧
  (∀ (s : State) (r : SliceRef) (a : Access), (s.slice r).wait = some (.access a) → (a.op = .ldw ∨ a.op = .ldc ∨ a.op = .stf) →
    let x := (s.slice r).retry
    ((s.group r.gid).behind r.idx = false → x.wlim ≠ 0 → x.wlim ≤ x.used → exec (.retryBudgetExhausted r) s = .next (out s r a false)) ∧
    ((s.group r.gid).behind r.idx = false → (x.wlim = 0 ∨ x.used < x.wlim) → 2 ^ x.cexp ≤ x.cycles → exec (.retryBudgetExhausted r) s = .next (out s r a true)) ∧
    ((x.wlim = 0 ∨ x.used < x.wlim) → x.cycles < 2 ^ x.cexp → exec (.retryBudgetExhausted r) s = .next s))

/-! ### What a group's slices share on their core -/

/-- R207, R209: SPPIN starts the refill of unpinned pages and with WAIT waits until all are pinned; SPUNP begins the unpin of pinned pages; a range beyond the group's pages takes trap 0x0A; a refilled line holds what the backing page kept, and the page with all its lines is pinned, or being unpinned where a pre-emption had put an unpin off, and an unpinned page leaves the array once every earlier copy into it has landed. XMASK of the range traps holds the effective lanes by the model's reading (log 71); how an unpin that a pre-emption put off is taken up, and the bytes that return with a refill, are its reading too (logs 69, 91). -/
def Obligations.ScratchpadPages : Prop :=
  let a (c : Ctx) (s : State) : Nat := uni c s c.g.w.a.toNat
  let b (c : Ctx) (s : State) : Nat := uni c s c.g.w.b.toNat
  let paged (s : State) (gid a b : Nat) (f : Nat → PageState → PageState) : State :=
    s.modGroup gid (fun g => { g with pageState := g.pageState.mapIdx (fun p x => if a ≤ p ∧ p < a + b then f p x else x) })
  let pin (p : Nat) (x : PageState) : PageState := if x = .unpinned then .refilling (32 * p) else x
  let waits (c : Ctx) (s : State) : Bool := decide (WForm.field c.g.w 50 50 = 1) && (List.range (b c s)).any (fun k => (s.group c.ref.gid).pageState.getD (a c s + k) .pinned != .pinned)
  EachW 0x7E .sppin (Goes (fun c s u => b c s = 0 ∧ u = s ∨
    a c s + b c s ≤ (s.group c.ref.gid).pages ∧ waits c s = false ∧ u = paged s c.ref.gid (a c s) (b c s) pin)) ∧
  EachW 0x7F .spunp (Goes (fun c s u => b c s = 0 ∧ u = s ∨ a c s + b c s ≤ (s.group c.ref.gid).pages ∧
    u = paged s c.ref.gid (a c s) (b c s) (fun _ x => if x = .pinned then .unpinning (WForm.field c.g.w 50 50 == 1) s.nextCopy else x))) ∧
  EachW 0x7E .sppin (fun i s who cs => ∀ c, cs = [c] → b c s ≠ 0 →
    (a c s + b c s ≤ (s.group c.ref.gid).pages → waits c s = true → s.pending c.ref c.eff = none →
      Parks i s who c (paged s c.ref.gid (a c s) (b c s) pin) (.sppin (a c s) (b c s) c.eff c.g.next)) ∧
    ((s.group c.ref.gid).pages < a c s + b c s → Traps i s who c s ⟨0x0A, dword (4096 * a c s), c.eff, 1⟩)) ∧
  EachW 0x7F .spunp (fun i s who cs => ∀ c, cs = [c] → b c s ≠ 0 → (s.group c.ref.gid).pages < a c s + b c s →
    Traps i s who c s ⟨0x0A, dword (4096 * a c s), c.eff, 1⟩) ∧
  (∀ (s : State) (gid page line : Nat), (s.group? gid).isSome → (s.group gid).nextRefill page = some line → ∃ t, exec (.refill gid page line) s = .next t ∧
    SameDevice s t ∧ (∀ k, k ≠ gid → t.group k = s.group k) ∧ (t.group gid).absent = (s.group gid).absent.filter (fun l => l != line) ∧
    (∀ o, (t.group gid).scr.byte o = (if o / 128 = line then (s.group gid).backing else (s.group gid).scr).byte o ∧
      (t.group gid).scr.full o = (if o / 128 = line then (s.group gid).backing else (s.group gid).scr).full o) ∧
    (t.group gid).pageState = if (t.group gid).absent.any (fun l => l / 32 == page) then (s.group gid).pageState
      else (s.group gid).pageState.set page (match (s.group gid).unpins.find? (fun x => x.1 == page) with | some x => .unpinning x.2.1 x.2.2 | none => .pinned)) ∧
  (∀ (s : State) (gid page before : Nat) (drop : Bool), (s.group? gid).isSome → (s.group gid).pageState.getD page .pinned = .unpinning drop before →
    ((s.dieCopies (s.group gid).die).any (fun c => decide (c.id < before) && c.owesPage gid page) = true → exec (.unpinWriteback gid page) s = .next s) ∧
    ((s.dieCopies (s.group gid).die).any (fun c => decide (c.id < before) && c.owesPage gid page) = false → ∃ t, exec (.unpinWriteback gid page) s = .next t ∧
      (∀ l, (t.group gid).absent.contains l = ((s.group gid).absent.contains l || l / 32 == page)) ∧
      (∀ o, (t.group gid).backing.byte o = (if o / 4096 = page then (if drop then 0 else (s.group gid).scr.byte o) else (s.group gid).backing.byte o) ∧
        (t.group gid).backing.full o = (if o / 4096 = page then (if drop then true else (s.group gid).scr.full o) else (s.group gid).backing.full o))))

/-- R211 to R215: QINIT opens a queue; QPUSH spends an allowance of its gang and writes an entry at the tail; QPOP makes its destination empty and takes the head entry, whose producer gets its allowance back; QPEEK reads the head without taking it; each waits where it must, for an entry, an allowance or an absent line, and traps on misuse with its code; QINIT takes the reserved-field trap for bits 31 to 25 of its configuration, misuse 6 for a base or length that is misaligned, trap 0x0A for a ring beyond the scratchpad, misuse 3 for a configuration that cannot be and misuse 4 for a queue that is not empty. That XMASK of these traps holds the effective lanes is the model's reading (log 71); so are the poison that a popped value carries (log 34), the order of QINIT's checks where its ring has no entry (log 96), and that QPEEK waits for an absent line (log 98). -/
def Obligations.Queues : Prop :=
  let n (c : Ctx) : Nat := WForm.field c.g.w 53 50
  let w64 (c : Ctx) : Bool := WForm.field c.g.w 54 54 == 1
  let q (c : Ctx) (s : State) : Queue := (s.group c.ref.gid).queue (n c)
  let gang (c : Ctx) (s : State) : Nat := c.ref.idx / (s.group c.ref.gid).gangSize
  let misuse (c : Ctx) (code : Nat) : Trap := ⟨0x10, 0, c.eff, word (n c * 256 + code)⟩
  let held (c : Ctx) (s : State) (i : Nat) : Bool := ((q c s).lines i).all (fun l => !s.lineAbsent (s.group c.ref.gid) l)
  let open_ (c : Ctx) (s : State) : Bool := (q c s).valid && (q c s).wide == w64 c
  let data (c : Ctx) (s : State) : List Word := (List.range 4).flatMap (fun i =>
    let x := if c.eff.getLsbD i then c.a (if w64 c then 2 else 1) (s.slice c.ref) i else 0
    if w64 c then [lowWord x, x.extractLsb' 32 32] else [lowWord x])
  let marks (c : Ctx) (s : State) : List (Option Dword) :=
    (List.range 4).map (fun i => if c.eff.getLsbD i then (s.slice c.ref).poisonIn (c.g.shape.a.reads c.g.w.a.toNat) i else none)
  let lanes (c : Ctx) : List Nat := if specIsS c.g.w.d.toNat then c.eff.lanes.getLast?.toList else c.eff.lanes
  let emptied (c : Ctx) (s : State) : State := s.modSlice c.ref (fun sl => sl.makeEmptyN c.g.w.d.toNat (if w64 c then 2 else 1) c.eff)
  EachW 0x75 .qinit (Goes (fun c s u =>
    let base := uni c s c.g.w.a.toNat
    let cfg := uni c s c.g.w.b.toNat
    let len := uni c s c.g.w.c.toNat
    let nprod := cfg / 2 ^ 16 % 2 ^ 8
    let allow := cfg % 2 ^ 8
    let wide := cfg / 2 ^ 24 % 2 == 1
    let entry := if wide then 32 else 16
    cfg < 2 ^ 25 ∧ base % 16 = 0 ∧ len % entry = 0 ∧ base + len ≤ 4096 * (s.group c.ref.gid).pages ∧ nprod ≠ 0 ∧ allow ≠ 0 ∧ len / entry ≠ 0 ∧
    nprod * allow ≤ len / entry ∧ cfg / 2 ^ 8 % 2 ^ 8 + nprod ≤ (s.group c.ref.gid).gangs.length ∧
    ((q c s).valid = true → (q c s).count = 0 ∧ (q c s).pushers = [] ∧ (q c s).poppers = []) ∧
    u = s.modQueue c.ref.gid (n c) (fun _ =>
      { Queue.closed with
        valid := true
        base := base
        cap := len / entry
        wide := wide
        plo := cfg / 2 ^ 8 % 2 ^ 8
        nprod := nprod
        allowance := List.replicate nprod allow }))) ∧
  EachW 0x75 .qinit (fun i s who cs => ∀ c, cs = [c] →
    let base := uni c s c.g.w.a.toNat
    let cfg := uni c s c.g.w.b.toNat
    let len := uni c s c.g.w.c.toNat
    let nprod := cfg / 2 ^ 16 % 2 ^ 8
    let allow := cfg % 2 ^ 8
    let entry := if cfg / 2 ^ 24 % 2 = 1 then 32 else 16
    let aligned : Prop := base % 16 = 0 ∧ len % entry = 0
    let inside : Prop := base + len ≤ 4096 * (s.group c.ref.gid).pages
    let possible : Prop := nprod ≠ 0 ∧ allow ≠ 0 ∧ len / entry ≠ 0 ∧ nprod * allow ≤ len / entry ∧ cfg / 2 ^ 8 % 2 ^ 8 + nprod ≤ (s.group c.ref.gid).gangs.length
    (2 ^ 25 ≤ cfg → Traps i s who c s ⟨0x02, c.g.addr, c.eff, 0xC0⟩) ∧
    (cfg < 2 ^ 25 → ¬aligned → Traps i s who c s (misuse c 6)) ∧
    (cfg < 2 ^ 25 → aligned → ¬inside → Traps i s who c s ⟨0x0A, dword (max base (4096 * (s.group c.ref.gid).pages)), c.eff, 1⟩) ∧
    (cfg < 2 ^ 25 → aligned → inside → ¬possible → Traps i s who c s (misuse c 3)) ∧
    (cfg < 2 ^ 25 → aligned → inside → possible → (q c s).valid = true → ((q c s).count ≠ 0 ∨ (q c s).pushers ≠ [] ∨ (q c s).poppers ≠ []) →
      Traps i s who c s (misuse c 4))) ∧
  EachW 0x76 .qpush (Goes (fun c s u => open_ c s = true ∧ (q c s).plo ≤ gang c s ∧ gang c s < (q c s).plo + (q c s).nprod ∧
    (q c s).allowance.getD (gang c s - (q c s).plo) 0 ≠ 0 ∧ held c s (q c s).tail = true ∧
    u = (s.modGroup c.ref.gid (fun g =>
        { g with scr := g.scr.storeUnits ((q c s).base + (q c s).tail * (q c s).entry) (entryUnits (q c s).wide (data c s) (marks c s)) })).modQueue c.ref.gid (n c)
      (fun x =>
        { x with
          allowance := x.allowance.modify (gang c s - x.plo) (fun k => k - 1)
          tail := (x.tail + 1) % x.cap
          count := x.count + 1
          tags := x.tags ++ [gang c s] }))) ∧
  EachW 0x76 .qpush (fun i s who cs => ∀ c, cs = [c] → let s0 := s.closing c.g [c]
    ((q c s).valid = false → Traps i s who c s (misuse c 1)) ∧ ((q c s).valid = true → (q c s).wide ≠ w64 c → Traps i s who c s (misuse c 5)) ∧
    (open_ c s = true → (gang c s < (q c s).plo ∨ (q c s).plo + (q c s).nprod ≤ gang c s) → Traps i s who c s (misuse c 2)) ∧
    (open_ c s = true → (q c s).plo ≤ gang c s → gang c s < (q c s).plo + (q c s).nprod → (q c s).allowance.getD (gang c s - (q c s).plo) 0 = 0 →
      Parks i s who c (s0.modQueue c.ref.gid (n c) (fun x => { x with pushers := x.pushers ++ [c.ref.idx] })) (.qpush (n c) (data c s) (marks c s) c.eff c.g.next)) ∧
    (open_ c s = true → (q c s).plo ≤ gang c s → gang c s < (q c s).plo + (q c s).nprod → (q c s).allowance.getD (gang c s - (q c s).plo) 0 ≠ 0 →
      ∀ v l, s0.absentAmong c.ref.gid ((q c s).lines (q c s).tail) = (v, some l) →
      Parks i s who c (v.modQueue c.ref.gid (n c) (fun x => { x with pushers := x.pushers ++ [c.ref.idx] })) (.qpush (n c) (data c s) (marks c s) c.eff c.g.next))) ∧
  EachW 0x77 .qpop (Goes (fun c s u => open_ c s = true ∧ (q c s).poppers = [] ∧ (q c s).count ≠ 0 ∧ held c s (q c s).head = true ∧
    u = ((emptied c s).modSlice c.ref (fun sl => { sl with owed := sl.owed ++ (lanes c).map (fun i =>
          let x := (s.group c.ref.gid).entryLane (q c s) (q c s).head i
          ⟨c.g.w.d.toNat, if w64 c then 2 else 1, i, x.1, x.2⟩) })).modQueue c.ref.gid (n c) (fun x =>
      { x with
        head := (x.head + 1) % x.cap
        count := x.count - 1
        tags := x.tags.drop 1
        allowance := x.allowance.modify (x.tags.headD 0 - x.plo) (fun k => k + 1) }))) ∧
  EachW 0x77 .qpop (fun i s who cs => ∀ c, cs = [c] →
    ((q c s).valid = false → Traps i s who c s (misuse c 1)) ∧ ((q c s).valid = true → (q c s).wide ≠ w64 c → Traps i s who c s (misuse c 5)) ∧
    (open_ c s = true → ((q c s).poppers ≠ [] ∨ (q c s).count = 0) →
      Parks i s who c ((emptied c (s.closing c.g [c])).modQueue c.ref.gid (n c) (fun x => { x with poppers := x.poppers ++ [c.ref.idx] }))
        (.qpop (n c) c.g.w.d.toNat (if w64 c then 2 else 1) c.eff c.g.next)) ∧
    (open_ c s = true → (q c s).poppers = [] → (q c s).count ≠ 0 →
      ∀ v l, (emptied c (s.closing c.g [c])).absentAmong c.ref.gid ((q c s).lines (q c s).head) = (v, some l) →
      Parks i s who c (v.modQueue c.ref.gid (n c) (fun x => { x with poppers := x.poppers ++ [c.ref.idx] }))
        (.qpop (n c) c.g.w.d.toNat (if w64 c then 2 else 1) c.eff c.g.next))) ∧
  EachW 0x78 .qpeek (fun i s who cs =>
    ((∀ c ∈ cs, open_ c s = true ∧ (q c s).count ≠ 0 ∧ held c s (q c s).head = true) → Performs i s who cs (fun c sl =>
      let x (i : Nat) : List Word × Option Dword := (s.group c.ref.gid).entryLane (q c s) (q c s).head i
      ((List.range (if w64 c then 2 else 1)).foldl (fun (y : Slice) j =>
        y.setLanesP (c.g.w.d.toNat + j) c.eff (Lanes.ofFn (fun i => (x i).1.getD j 0)) (Lanes.ofFn (fun i => (x i).2))) { sl with pathStores := [] }).setMask (WForm.field c.g.w 57 55) c.eff) never) ∧
    ((∀ c ∈ cs, open_ c s = true ∧ (q c s).count = 0) → Performs i s who cs (fun c sl => { sl with pathStores := [] }.setMask (WForm.field c.g.w 57 55) 0) never) ∧
    (∀ c v l, cs = [c] → open_ c s = true → (q c s).count ≠ 0 → (s.closing c.g [c]).absentAmong c.ref.gid ((q c s).lines (q c s).head) = (v, some l) →
      Parks i s who c v (.replay (.presence l) ⟨0x08, 0, 0, 0⟩)) ∧
    (∀ c, cs = [c] → ((q c s).valid = false → Traps i s who c s (misuse c 1)) ∧ ((q c s).valid = true → (q c s).wide ≠ w64 c → Traps i s who c s (misuse c 5))))

/-- R216, R217: what an arrival and a posting do to a barrier object: misuse sets MIS and counts nothing, a count goes to the slot of its tag, and the current phase completes when its bytes have come, then the next one if it is complete as well. -/
def Obligations.BarrierObjects : Prop :=
  ∀ (o : BarrierObject) (t n : Nat), t < 4 →
    let ph := o.header / 2 ^ 62 % 4
    let mis := o.header / 2 ^ 60 % 2 = 1
    let late : Prop := 2 ≤ (t + 4 - ph) % 4
    let slot (o : BarrierObject) (k : Nat) : Nat := if k % 2 = 0 then o.slot0 else o.slot1
    let put (o : BarrierObject) (k x : Nat) : BarrierObject := if k % 2 = 0 then ⟨o.header, x, o.slot1⟩ else ⟨o.header, o.slot0, x⟩
    let posted (x : Nat) : Prop := x / 2 ^ 63 % 2 = 1
    let expected (x : Nat) : Nat := x / 2 ^ 32 % 2 ^ 31
    let arrived (x : Nat) : Nat := x % 2 ^ 32
    let full (x : Nat) : Prop := posted x ∧ arrived x = expected x
    let at_ (o : BarrierObject) (k : Nat) : BarrierObject := ⟨o.header % 2 ^ 62 + k % 4 * 2 ^ 62, o.slot0, o.slot1⟩
    let wrong (o : BarrierObject) : BarrierObject := ⟨o.header + 2 ^ 60, o.slot0, o.slot1⟩
    let settles (y : BarrierObject) (r : BarrierObject × List Nat) : Prop :=
      (¬ full (slot y ph) → r = (y, [])) ∧
      (full (slot y ph) → ¬ full (slot y (ph + 1)) → r = (at_ (put y ph 0) (ph + 1), [ph])) ∧
      (full (slot y ph) → full (slot y (ph + 1)) → r = (at_ (put (put y ph 0) (ph + 1) 0) (ph + 2), [ph, (ph + 1) % 4]))
    let x := slot o t
    (mis → o.arrive t n = (o, []) ∧ o.post t n = .inl 1) ∧
    (¬ mis → late → o.arrive t n = (wrong o, []) ∧ o.post t n = .inl 2) ∧
    (¬ mis → ¬ late →
      (2 ^ 32 ≤ arrived x + n → o.arrive t n = (wrong o, [])) ∧
      (arrived x + n < 2 ^ 32 → posted x → expected x < arrived x + n → o.arrive t n = (wrong (put o t (x + n)), [])) ∧
      (arrived x + n < 2 ^ 32 → (¬ posted x ∨ arrived x + n ≤ expected x) → settles (put o t (x + n)) (o.arrive t n)) ∧
      (posted x → o.post t n = .inl 3) ∧ (¬ posted x → 2 ^ 31 ≤ n → o.post t n = .inl 4) ∧ (¬ posted x → n < 2 ^ 31 → n < arrived x → o.post t n = .inl 9) ∧
      (¬ posted x → n < 2 ^ 31 → arrived x ≤ n → ∃ r, o.post t n = .inr r ∧ settles (put o t (arrived x + n * 2 ^ 32 + 2 ^ 63)) r))

/-- R216, R218, R219: BINIT resets the object, BEXP posts an expectation, BARV arrives, and BWAIT completes for a phase that is over, waits for the current and the next one, and traps on misuse and poison; an address outside the scratchpad or misaligned traps. What a wait two phases ahead and an arrival at a misused object do is the model's reading (log 31), and so is that XMASK of these traps holds the effective lanes (log 71). -/
def Obligations.BarrierInstructions : Prop :=
  let a (c : Ctx) (s : State) : Nat := uni c s c.g.w.a.toNat
  let tag (c : Ctx) : Nat := WForm.field c.g.w 51 50
  let obj (c : Ctx) (s : State) : BarrierObject := (s.group c.ref.gid).barrierAt (a c s)
  let there (c : Ctx) (s : State) : Bool :=
    decide (a c s + 24 ≤ 4096 * (s.group c.ref.gid).pages) && a c s % 8 == 0 && (barrierLines (a c s)).all (fun l => !s.lineAbsent (s.group c.ref.gid) l)
  let bad (c : Ctx) (s : State) : Option CopyReport := oldestReport ((s.slice c.ref).copies.reports.filter (fun x => x.bad && x.barrier == some (a c s)))
  let each (op : Nat) (i : List Prefix → WForm → Instr) : Prop := EachW op i (fun i s who cs => ∀ c, cs = [c] →
    (4096 * (s.group c.ref.gid).pages < a c s + 24 → Traps i s who c (s.closing c.g [c]) ⟨0x0A, dword (a c s), c.eff, 1⟩) ∧
    (a c s + 24 ≤ 4096 * (s.group c.ref.gid).pages → a c s % 8 ≠ 0 → Traps i s who c (s.closing c.g [c]) ⟨0x07, dword (a c s), c.eff, 8⟩))
  each 0x79 .binit ∧ each 0x7A .bexp ∧ each 0x7B .barv ∧ each 0x7C .bwait ∧
  EachW 0x79 .binit (Goes (fun c s u => there c s = true ∧ u = s.initBarrier c.ref.gid (a c s))) ∧
  EachW 0x7A .bexp (Goes (fun c s u => there c s = true ∧ ∃ r, (obj c s).post (tag c) (uni c s c.g.w.b.toNat) = .inr r ∧ u = s.setBarrier c.ref.gid (a c s) r.1 r.2)) ∧
  EachW 0x7B .barv (Goes (fun c s u => there c s = true ∧
    let r := (obj c s).arrive (tag c) (uni c s c.g.w.b.toNat)
    ((obj c s).mis = true ∨ r.1.mis = false) ∧ u = s.setBarrier c.ref.gid (a c s) r.1 r.2)) ∧
  EachW 0x7C .bwait (Goes (fun c s u => there c s = true ∧ bad c s = none ∧ (obj c s).mis = false ∧ (obj c s).pois = false ∧ (obj c s).delta (tag c) = 3 ∧
    u = s.deliverFlags c.ref (fun x => x.barrier == some (a c s) && x.phase == tag c && x.age == 1))) ∧
  EachW 0x7A .bexp (fun i s who cs => ∀ c code, cs = [c] → there c s = true → (obj c s).post (tag c) (uni c s c.g.w.b.toNat) = .inl code →
    Traps i s who c s ⟨0x11, dword (a c s), c.eff, word code⟩) ∧
  EachW 0x7B .barv (fun i s who cs => ∀ c, cs = [c] → there c s = true → (obj c s).mis = false →
    let r := (obj c s).arrive (tag c) (uni c s c.g.w.b.toNat)
    r.1.mis = true → Traps i s who c ((s.closing c.g [c]).setBarrier c.ref.gid (a c s) r.1 r.2) ⟨0x11, dword (a c s), c.eff, 1⟩) ∧
  EachW 0x7C .bwait (fun i s who cs => ∀ c, cs = [c] → there c s = true → let s0 := s.closing c.g [c]
    (∀ x, bad c s = some x → Traps i s who c (s0.deliverReport c.ref x) (x.trap true c.eff)) ∧
    (bad c s = none → (obj c s).mis = true → Traps i s who c s0 ⟨0x11, dword (a c s), c.eff, 1⟩) ∧
    (bad c s = none → (obj c s).mis = false → (obj c s).pois = true → Traps i s who c s0 ⟨0x12, dword (a c s), c.eff, 12⟩) ∧
    (bad c s = none → (obj c s).mis = false → (obj c s).pois = false →
      ((obj c s).delta (tag c) = 2 → Traps i s who c s0 ⟨0x11, dword (a c s), c.eff, 5⟩) ∧
      ((obj c s).delta (tag c) < 2 → Parks i s who c s0 (.bwait (a c s) (tag c) c.eff c.g.next))))

/-- R222 to R224, R226, R228 to R230: a copy that passes its checks joins the slice's current batch in the engine of its core, unless it moves no byte; the first check that fails traps; CSEAL seals the current batch under its number, and CWAIT goes on once few enough sealed batches are unfinished, delivering the oldest fault of a finished one. The order of a copy's checks over all its extents is the model's reading (log 27), XADDR of a converting copy whose elements do not fill words is a free value (log 75), which reports a wait covers is its reading (log 32), and so is that XMASK of the traps holds the effective lanes (log 71). -/
def Obligations.CopiesAreIssued : Prop :=
  let f (c : Ctx) (hi lo : Nat) : Nat := WForm.field c.g.w hi lo
  let xi (c : Ctx) : Nat := c.g.pfx.xi.getD 0
  let dst (c : Ctx) (s : State) : Dword := joinWords ((s.slice c.ref).reg c.g.w.d.toNat 0) ((s.slice c.ref).reg (c.g.w.d.toNat + 1) 0)
  let src (c : Ctx) (s : State) : Dword := c.pairA (s.slice c.ref)
  let b (c : Ctx) (s : State) : Nat := uni c s c.g.w.b.toNat
  let bar (c : Ctx) (s : State) (on tag : Nat) : Option (Nat × Nat) := if on = 1 then some (uni c s c.g.w.c.toNat, tag) else none
  let barX (x : Option (Nat × Nat)) : List Extent := match x with | some y => [⟨.scr, [y.1], 24, 8⟩] | none => []
  let shape (c : Ctx) (s : State) (two : Bool) : CopyShape :=
    if two then ⟨b c s % 2 ^ 16, b c s / 2 ^ 16 % 2 ^ 16, xi c / 2 ^ 14 % 2 ^ 13 * 16, xi c % 2 ^ 14 * 16⟩ else ⟨b c s, if b c s = 0 then 0 else 1, 0, 0⟩
  let base (c : Ctx) (s : State) (k : CopyKind) : Copy := Copy.posted c s k
  let posts (c : Ctx) (s : State) (k : Copy) : State :=
    let s1 := { s with nextCopy := s.nextCopy + 1 }
    let s2 := if k.acquire then s1.acquire (s.group c.ref.gid).coreRef k.scope else s1
    if k.rows * k.rowLen = 0 then s2 else s2.modCore (s.group c.ref.gid).coreRef (fun x => { x with copies := x.copies ++ [k] })
  let cvt (c : Ctx) : Option (Nat × Nat × Nat) := if f c 61 61 = 1 ∨ c.g.pfx.xi.isNone then none else some (xi c % 2 ^ 4, xi c / 2 ^ 4 % 2 ^ 4, xi c / 2 ^ 8 % 2 ^ 3)
  let dlen (c : Ctx) (s : State) : Nat :=
    match cvt c with | some x => (shape c s (f c 61 61 == 1)).len / codeBytes x.1 * codeBytes x.2.1 | none => (shape c s (f c 61 61 == 1)).len
  let align (c : Ctx) (code : (Nat × Nat × Nat) → Nat) : Nat := max (if f c 57 56 = 0 then 1 else 8) (match cvt c with | some x => codeBytes (code x) | none => 1)
  let side (sp : Space) (base stride rows len al : Nat) : Extent := if rows = 0 then ⟨sp, [base], 0, al⟩ else ⟨sp, (List.range rows).map (fun r => base + r * stride), len, al⟩
  let cpyCheck (c : Ctx) (s : State) : Option Trap :=
    let sh := shape c s (f c 61 61 == 1)
    match copyChecks (s.group c.ref.gid) c.eff ([side (spaceOf (f c 52 50)) (dst c s).toNat sh.ds sh.rows (dlen c s) (align c (fun x => x.2.1)),
      side (spaceOf (f c 55 53)) (src c s).toNat sh.ss sh.rows sh.len (align c (fun x => x.1))] ++ barX (bar c s (f c 58 58) (f c 60 59))) sh.len (align c (fun x => x.1)) with
    | some t => some t
    | none => match cvt c with
      | some x => if f c 57 56 ≠ 0 ∧ (codeBytes x.1 % 8 ≠ 0 ∨ codeBytes x.2.1 % 8 ≠ 0) then some ⟨0x07, s.unstated c.ref.idx, c.eff, 8⟩ else none
      | none => none
  let cpyrSize (c : Ctx) : Nat := if f c 58 56 = 2 ∨ f c 58 56 = 3 ∨ f c 58 56 = 5 then 8 else 4
  let cpyrCheck (c : Ctx) (s : State) : Option Trap :=
    let sh := shape c s (f c 62 62 == 1)
    copyChecks (s.group c.ref.gid) c.eff ([side .glb (dst c s).toNat sh.ds sh.rows sh.len (cpyrSize c),
      side (spaceOf (f c 52 50)) (src c s).toNat sh.ss sh.rows sh.len (cpyrSize c)] ++ barX (bar c s (f c 59 59) (f c 61 60))) sh.len (cpyrSize c)
  let e (c : Ctx) : Nat := [8, 16, 64, 128].getD (f c 62 61) 8
  let count (c : Ctx) : Nat := xi c % 2 ^ 16
  let listed (c : Ctx) (s : State) : List Nat :=
    if b c s + 4 * count c ≤ 4096 * (s.group c.ref.gid).pages then
      (List.range (count c)).map (fun k => (src c s).toNat + (s.group c.ref.gid).scr.num (b c s + 4 * k) 4 * e c) else []
  let cpygCheck (c : Ctx) (s : State) : Option Trap :=
    copyChecks (s.group c.ref.gid) c.eff ([side (spaceOf (f c 52 50)) (dst c s).toNat (e c) (count c) (e c) (e c), ⟨spaceOf (f c 55 53), listed c s, e c, 1⟩,
      ⟨spaceOf (f c 55 53), [(src c s).toNat], 0, e c⟩, ⟨.scr, [b c s], 4 * count c, 4⟩]
      ++ barX (bar c s (f c 58 58) (f c 60 59))) 0 0
  EachW 0x70 .cpy (Goes (fun c s u => cpyCheck c s = none ∧
    let sh := shape c s (f c 61 61 == 1)
    u = posts c s { base c s .cpy with
      dsp := spaceOf (f c 52 50)
      ssp := spaceOf (f c 55 53)
      dst := dst c s
      src := src c s
      rowLen := dlen c s
      rows := sh.rows
      dstStride := sh.ds
      srcStride := sh.ss
      cvt := (cvt c).map (fun x => (x.1, x.2.1, if x.2.2 = 5 then (s.slice c.ref).fmt.toNat % 8 else x.2.2))
      fe := f c 57 56
      barrier := bar c s (f c 58 58) (f c 60 59) })) ∧
  let listThere (c : Ctx) (s : State) : Prop := b c s + 4 * count c ≤ 4096 * (s.group c.ref.gid).pages →
    (scrLines (b c s) (4 * count c)).all (fun l => !s.lineAbsent (s.group c.ref.gid) l) = true
  EachW 0x71 .cpyg (Goes (fun c s u => listThere c s ∧ cpygCheck c s = none ∧
    u = posts c s { base c s .cpyg with
      dsp := spaceOf (f c 52 50)
      ssp := spaceOf (f c 55 53)
      dst := dst c s
      src := src c s
      rowLen := e c
      rows := count c
      dstStride := e c
      index := b c s
      fe := f c 57 56
      barrier := bar c s (f c 58 58) (f c 60 59) })) ∧
  EachW 0x72 .cpyr (Goes (fun c s u => cpyrCheck c s = none ∧
    let sh := shape c s (f c 62 62 == 1)
    u = posts c s { base c s (.cpyr (f c 55 53) (f c 58 56)) with
      ssp := spaceOf (f c 52 50)
      dst := dst c s
      src := src c s
      rowLen := sh.len
      rows := sh.rows
      dstStride := sh.ds
      srcStride := sh.ss
      barrier := bar c s (f c 59 59) (f c 61 60) })) ∧
  EachW 0x70 .cpy (fun i s who cs => ∀ c t, cs = [c] → cpyCheck c s = some t → Traps i s who c (s.closing c.g [c]) t) ∧
  EachW 0x71 .cpyg (fun i s who cs => ∀ c t, cs = [c] → listThere c s → cpygCheck c s = some t → Traps i s who c (s.closing c.g [c]) t) ∧
  EachW 0x72 .cpyr (fun i s who cs => ∀ c t, cs = [c] → cpyrCheck c s = some t → Traps i s who c (s.closing c.g [c]) t) ∧
  (let open_ (c : Ctx) (s : State) : List Nat := (s.slice c.ref).copies.sealed_.filter (fun n =>
      (s.core (s.group c.ref.gid).coreRef).copies.any (fun x => x.gid == c.ref.gid && x.idx == c.ref.idx && x.batch == n))
    let covers (c : Ctx) (s : State) (x : CopyReport) : Bool := (s.slice c.ref).copies.sealed_.contains x.batch && !(open_ c s).contains x.batch
    let bad (c : Ctx) (s : State) : Option CopyReport := oldestReport ((s.slice c.ref).copies.reports.filter (fun x => covers c s x && x.bad))
    EachW 0x73 .cseal (Goes (fun c s u => (open_ c s).length < 15 ∧
      u = s.modSlice c.ref (fun sl =>
        let y : Slice := { sl with copies := { sl.copies with current := sl.copies.current + 1, sealed_ := sl.copies.sealed_ ++ [sl.copies.current] } }
        if c.g.w.d = 0 then y else y.setLanes c.g.w.d.toNat c.eff (Lanes.all (word sl.copies.current))))) ∧
    EachW 0x73 .cseal (fun i s who cs => ∀ c, cs = [c] → 15 ≤ (open_ c s).length →
      Parks i s who c s (.cseal (if c.g.w.d = 0 then none else some c.g.w.d.toNat) c.eff c.g.next)) ∧
    EachW 0x74 .cwait (Goes (fun c s u => (open_ c s).length ≤ f c 53 50 ∧ bad c s = none ∧
      u = (s.deliverFlags c.ref (covers c s)).modSlice c.ref (fun sl =>
        { sl with copies := { sl.copies with sealed_ := sl.copies.sealed_.filter (fun n => (open_ c s).contains n) } }))) ∧
    EachW 0x74 .cwait (fun i s who cs => ∀ c, cs = [c] → let s0 := s.closing c.g [c]
      (f c 53 50 < (open_ c s).length → Parks i s who c s0 (.cwait (f c 53 50) c.eff c.g.next)) ∧
      ((open_ c s).length ≤ f c 53 50 → ∀ x, bad c s = some x → Traps i s who c (s0.deliverReport c.ref x) (x.trap false c.eff))))

/-- R206, R217, R224, R225, R226, R227, R231, R232: a piece of a copy whose places can be had lands whole there and nowhere else, carries the full/empty bits as its form says, is counted, and arrives at the copy's barrier; the last piece ends the copy. The bytes that land are the source's (CPY), those of the source that the index list names (CPYG), each element combined with the one that stands there (CPYR), or each element converted, with its flags (CPY with a conversion). A page fault stops the copy where it is; a stopped copy goes on when its wait is over, and ends with a report to its issuer and its barrier poisoned when its fault has failed. That a piece reads its source and writes its destination in one step is the model's choice (log 6). -/
def Obligations.CopiesLand : Prop :=
  let counted (c : Copy) (x : Place) : Prop := ∃ b k, c.barrier = some b ∧ k < 24 ∧ x = .scr c.gid (b.1 + k)
  let reads (c : Copy) : Need := ⟨true, false, false, c.fe == 1⟩
  let lands (s : State) (at_ : CoreRef) (c : Copy) (p row off n : Nat) : Prop :=
    (s.core at_).copies.find? (fun x => x.id == c.id) = some c ∧ c.block = none ∧ c.landed.contains p = false ∧ c.piece p = some (row, off, n) ∧
    (c.release && decide (5 ≤ c.scope)) = false ∧
    ((c.pieceLines (s.group c.gid) row off n).1.all (fun l => !s.copyMustWait c c.gid l true)) = true ∧
    ((c.pieceLines (s.group c.gid) row off n).2.all (fun l => !s.copyMustWait c c.gid l false)) = true
  let had (s : State) (sps : List (Place × Nat)) : List Byte := sps.flatMap (fun x => s.readPlace x.1 x.2)
  let element (bs : List Byte) (e j : Nat) : Nat := fromBytes ((bs.drop (e * j)).take e)
  let moves (s : State) (at_ : CoreRef) (p row off n : Nat) (c : Copy) (src len : Nat) (need : Need)
      (byte : List Byte → List Byte → Nat → Byte) (flags : List Byte → Flags) : Prop :=
    at_.die < 8 → at_.core < 96 → lands s at_ c p row off n → c.dsp ≠ .lane →
    ∀ v w sps q, s.sidePlaces c c.ssp src len (reads c) 0 = (v, .inl sps) →
      v.sidePlaces c c.dsp (c.dst.toNat + row * c.dstStride + off) n need 1 = (w, .inl [(q, n)]) →
      q.real → (∀ die cl o, q = .cls die cl o → die < 8 ∧ cl < 12) → (∀ die o, q = .chp die o → die < 8) →
      (∀ gid o, q = .scr gid o → (s.group? gid).isSome) → (∀ k, k < n → ¬counted c (q.plus k)) →
      ∃ t, exec (.copyLineLands at_ c.id p) s = .next t ∧
        (∀ k, k < n → t.readPlace (q.plus k) 1 = [byte (w.readPlace q n) (had w sps) k]) ∧
        (∀ x : Place, x.real → (∀ k, k < n → x ≠ q.plus k) → ¬counted c x → t.readPlace x 1 = w.readPlace x 1) ∧
        (c.fe = 0 → ∀ x : Place, x.real → t.fullPlace x = w.fullPlace x) ∧
        (c.fe = 1 → ∀ k, k < n / 8 → k < (w.bitsAt sps).length → t.fullPlace (q.plus (8 * k)) = (w.bitsAt sps).getD k true) ∧
        (c.fe = 2 → ∀ k, k < n / 8 → t.fullPlace (q.plus (8 * k)) = true) ∧
        (∀ b, c.barrier = some b → b.1 % 8 = 0 → (s.group? c.gid).isSome → (t.group c.gid).barrierAt b.1 = (((w.group c.gid).barrierAt b.1).arrive b.2 n).1) ∧
        (let c' : Copy := { c with landed := c.landed ++ [p], flags := c.flags ||| flags (had w sps) }
         (t.core at_).copies = (if c'.landedAt 0 = c.rows * c.rowLen then (s.core at_).copies.filter (fun x => x.id != c.id)
           else (s.core at_).copies.map (fun x => if x.id = c.id then c' else x)) ∧
         (c'.landedAt 0 = c.rows * c.rowLen → c'.flags ≠ 0 → c.nf = false → c.barrier = none → c.idx < (w.group c.gid).slices.length →
           (t.slice ⟨c.gid, c.idx⟩).copies.reports = (w.slice ⟨c.gid, c.idx⟩).copies.reports ++ [c'.report none false c'.flags]))
  let writes (c : Copy) : Need := ⟨false, true, false, c.fe != 0⟩
  let update (op ty o v : Nat) : Nat :=
    let F := if ty = 5 then fmtF64 else fmtF32
    let w := if ty = 2 ∨ ty = 3 then 64 else 32
    let O := BitVec.ofNat w o
    let V := BitVec.ofNat w v
    let less : Bool := if ty = 0 ∨ ty = 2 then V.slt O else V.ult O
    let choose (second : Bool) : Nat := if (F.decode o).isNaN then (if (F.decode v).isNaN then F.canonNaN else v) else if (F.decode v).isNaN then o else if second then v else o
    if 4 ≤ ty then
      match op with
      | 0 => (F.round .rne (Machine.Num.add .rne (F.decode o) (F.decode v)).num).bits
      | 1 => choose ((F.decode v).ltSigned (F.decode o))
      | _ => choose ((F.decode o).ltSigned (F.decode v))
    else
      match op with
      | 0 => (O + V).toNat
      | 1 => if less then v else o
      | 2 => if less then o else v
      | 3 => (O &&& V).toNat
      | _ => (O ||| V).toNat
  (∀ (s : State) (at_ : CoreRef) (p row off n : Nat) (c : Copy), c.kind = .cpy → c.cvt = none →
    moves s at_ p row off n c (c.src.toNat + row * c.srcStride + off) n (writes c) (fun _ bs k => bs.getD k 0) (fun _ => 0)) ∧
  (∀ (s : State) (at_ : CoreRef) (p row off n : Nat) (c : Copy), c.kind = .cpyg → c.cvt = none →
    moves s at_ p row off n c (c.src.toNat + (s.group c.gid).scr.num (c.index + 4 * row) 4 * c.rowLen + off) n (writes c) (fun _ bs k => bs.getD k 0) (fun _ => 0)) ∧
  (∀ (s : State) (at_ : CoreRef) (p row off n : Nat) (c : Copy) (op ty : Nat), c.kind = .cpyr op ty → c.cvt = none → ty < 6 → op < (if ty < 4 then 5 else 3) →
    let e := if ty = 2 ∨ ty = 3 ∨ ty = 5 then 8 else 4
    n % e = 0 →
    moves s at_ p row off n c (c.src.toNat + row * c.srcStride + off) n ⟨true, true, false, false⟩
      (fun old bs k => (toBytes e (update op ty (element old e (k / e)) (element bs e (k / e)))).getD (k % e) 0) (fun _ => 0)) ∧
  (∀ (s : State) (at_ : CoreRef) (p row off n : Nat) (c : Copy) (src dst rm : Nat), c.kind = .cpy → c.cvt = some (src, dst, rm) → n % codeBytes dst = 0 →
    let ss := codeBytes src
    let ds := codeBytes dst
    let made (bs : List Byte) (j : Nat) : Converted := toCode dst (Rounding.ofCode rm) ⟨c.satB, none⟩ (decodeCode src (element bs ss j))
    moves s at_ p row off n c (c.src.toNat + row * c.srcStride + off / ds * ss) (n / ds * ss) (writes c)
      (fun _ bs k => (toBytes ds (made bs (k / ds)).bits).getD (k % ds) 0) (fun bs => ((List.range (n / ds)).map (fun j => (made bs j).flags)).foldr (· ||| ·) 0)) ∧
  (∀ (s : State) (at_ : CoreRef) (p row off n : Nat) (c : Copy), c.kind = .cpy → c.cvt = none → lands s at_ c p row off n → ∀ v a seq,
    s.sidePlaces c c.ssp (c.src.toNat + row * c.srcStride + off) n (reads c) 0 = (v, .inr (a, .fault seq)) →
    exec (.copyLineLands at_ c.id p) s = .next (v.modCore at_ (fun k => { k with copies := k.copies.map (fun x =>
      if x.id = c.id then { x with block := some (.fault seq), fault := some (a, 0) } else x) }))) ∧
  (∀ (s : State) (at_ : CoreRef) (id : Nat) (c : Copy) (b : Block), (s.core at_).copies.find? (fun x => x.id == id) = some c → c.block = some b →
    (s.failedBlock c.part b = false → s.blockOver c.part (s.group c.gid) b = false → exec (.copyResume at_ id) s = .next s) ∧
    (s.failedBlock c.part b = false → s.blockOver c.part (s.group c.gid) b = true → exec (.copyResume at_ id) s =
      .next (s.modCore at_ (fun k => { k with copies := k.copies.map (fun x => if x.id = id then { x with block := none } else x) }))) ∧
    (s.failedBlock c.part b = true → ∃ t, exec (.copyResume at_ id) s = .next t ∧ (at_.die < 8 → at_.core < 96 → (t.core at_).copies = (s.core at_).copies.filter (fun x => x.id != id)) ∧
      (c.idx < (s.group c.gid).slices.length → (t.slice ⟨c.gid, c.idx⟩).copies.reports = (s.slice ⟨c.gid, c.idx⟩).copies.reports ++ [c.report (some (c.fault.getD (0, 0))) false (if c.nf then 0 else c.flags)]) ∧
      (∀ x, c.barrier = some x → x.1 % 8 = 0 → (s.group? c.gid).isSome → (t.group c.gid).barrierAt x.1 = ((s.group c.gid).barrierAt x.1).setPois)))

/-- R298 to R300: MCAST is refused whole for a core outside the issuer's cluster, traps on its first failing check, and else joins the engine as one copy; its destinations are accepted in ascending order where a sibling runs and dropped where none does, an accepted one is given the issuer's bytes piece by piece, and when all are resolved the status doubleword is written. The XMASK of MCAST's traps is the effective mask by the model's reading (log 71). -/
def Obligations.Multicasts : Prop :=
  let f (c : Ctx) (hi lo : Nat) : Nat := WForm.field c.g.w hi lo
  let cw (c : Ctx) (s : State) : Nat := uni c s c.g.w.c.toNat
  let first (c : Ctx) (s : State) : Nat := cw c s % 2 ^ 7
  let off (c : Ctx) (s : State) : Nat := cw c s / 2 ^ 16 % 2 ^ 16 * 8
  let stat (c : Ctx) (s : State) : Option Nat := if uni c s c.g.w.d.toNat = 0xFFFFFFFF then none else some (uni c s c.g.w.d.toNat)
  let outside (c : Ctx) (s : State) : List Nat := (List.range 8).filter (fun j => (f c 57 50 / 2 ^ j % 2 == 1) &&
    (decide (95 < first c s + j) || (first c s + j) / 8 != (s.group c.ref.gid).core / 8))
  let check (c : Ctx) (s : State) : Option Trap :=
    copyChecks (s.group c.ref.gid) c.eff ([⟨.scr, [uni c s c.g.w.a.toNat], uni c s c.g.w.b.toNat, if f c 62 61 = 0 then 1 else 8⟩, ⟨.scr, (stat c s).toList, 8, 8⟩]
      ++ (if f c 58 58 = 1 then [⟨.scr, [off c s], 24, 8⟩] else [])) (uni c s c.g.w.b.toNat) (if f c 62 61 = 0 then 0 else 8)
  EachW 0x80 .mcast (Goes (fun c s u => cw c s / 2 ^ 7 % 2 ^ 9 = 0 ∧ outside c s = [] ∧ check c s = none ∧
    u = { s with nextCopy := s.nextCopy + 1 }.modCore (s.group c.ref.gid).coreRef (fun k => { k with copies := k.copies ++ [
      { Copy.posted c s .mcast with
        dsp := .scr
        ssp := .scr
        dst := dword (uni c s c.g.w.a.toNat)
        src := dword (uni c s c.g.w.a.toNat)
        rowLen := uni c s c.g.w.b.toNat
        rows := if uni c s c.g.w.b.toNat = 0 then 0 else 1
        index := f c 57 50
        fe := f c 62 61
        barrier := if f c 58 58 = 1 then some (off c s, f c 60 59) else none
        acquire := false
        release := false
        first := first c s
        status := stat c s }] }))) ∧
  EachW 0x80 .mcast (fun i s who cs => ∀ c, cs = [c] → let s0 := s.closing c.g [c]
    (cw c s / 2 ^ 7 % 2 ^ 9 ≠ 0 → Traps i s who c s0 ⟨0x02, c.g.addr, c.eff, 0xC0⟩) ∧
    (cw c s / 2 ^ 7 % 2 ^ 9 = 0 → outside c s ≠ [] → Traps i s who c s0 ⟨0x1C, 0, c.eff, word ((outside c s).map (fun j => 2 ^ j)).sum⟩) ∧
    (cw c s / 2 ^ 7 % 2 ^ 9 = 0 → outside c s = [] → ∀ t, check c s = some t → Traps i s who c s0 t)) ∧
  (∀ (s : State) (at_ : CoreRef) (c : Copy), at_.die < 8 → at_.core < 96 → (s.core at_).copies.find? (fun x => x.id == c.id) = some c → c.kind = .mcast →
    let named (j : Nat) : Prop := j < 8 ∧ c.index / 2 ^ j % 2 = 1 ∧ c.resolved j = false
    let next (j : Nat) : Prop := named j ∧ (∀ x ∈ c.receivers, x.1 ≠ j ∧ c.resolved x.1 = true) ∧ ∀ i, i < j → ¬named i
    (∀ j g, next j → s.sibling (s.group c.gid) (c.first + j) = some g → (g.gid = c.gid → ∃ i, i ≠ j ∧ named i) → (g.gid ≠ c.gid → c.landedAt j ≠ c.rows * c.rowLen) →
      ∃ t, exec (.copyLineLands at_ c.id acceptPiece) s = .next t ∧ t.mem = s.mem ∧ t.groups = s.groups ∧
        (t.core at_).copies = (s.core at_).copies.map (fun x => if x.id = c.id then { c with receivers := c.receivers ++ [(j, g.gid)] } else x)) ∧
    (∀ j, next j → s.sibling (s.group c.gid) (c.first + j) = none → (∃ i, i ≠ j ∧ named i) →
      ∃ t, exec (.copyLineLands at_ c.id acceptPiece) s = .next t ∧ t.mem = s.mem ∧ t.groups = s.groups ∧
        (t.core at_).copies = (s.core at_).copies.map (fun x => if x.id = c.id then { c with drops := c.drops ||| BitVec.ofNat 8 (2 ^ j) } else x)) ∧
    (∀ j, next j → s.sibling (s.group c.gid) (c.first + j) = none → (∀ i, i ≠ j → ¬named i) →
      ∃ t, exec (.copyLineLands at_ c.id acceptPiece) s = .next t ∧ (t.core at_).copies = (s.core at_).copies.filter (fun x => x.id != c.id) ∧
        (∀ d, c.status = some d → (s.group? c.gid).isSome → (s.group c.gid).absent.contains (d / 128) = false →
          (t.group c.gid).scr.num d 8 = 2 ^ 16 + c.dones.toNat * 2 ^ 8 + (c.drops ||| BitVec.ofNat 8 (2 ^ j)).toNat)) ∧
    (∀ j gid p row off n, named j → c.receivers.find? (fun x => x.1 == j && x.2 != c.gid && !c.resolved x.1) = some (j, gid) → (s.group? gid).isSome → (s.group? c.gid).isSome →
      gid ≠ c.gid → p < receiverPieces → c.piece p = some (row, off, n) → c.landed.contains (j * receiverPieces + p) = false → c.barrier = none →
      (∀ l ∈ scrLines (c.rowAt row + off) n, s.copyMustWait c c.gid l true = false ∧ s.copyMustWait c gid l false = false) →
      (∃ i, i ≠ j ∧ named i ∧ ∀ x ∈ c.receivers, x.1 ≠ i) →
      ∃ t, exec (.copyLineLands at_ c.id (j * receiverPieces + p)) s = .next t ∧
        (∀ k, k < n → t.readPlace (.scr gid (c.rowAt row + off + k)) 1 = s.readPlace (.scr c.gid (c.rowAt row + off + k)) 1) ∧
        (∀ x : Place, x.real → (∀ k, k < n → x ≠ .scr gid (c.rowAt row + off + k)) → t.readPlace x 1 = s.readPlace x 1) ∧
        (c.fe = 0 → ∀ x : Place, x.real → t.fullPlace x = s.fullPlace x)))

/-- R31, R221, R303 to R306: GSYNC and HBAR wait until every unexited slice of the group has arrived, and the last arrival lets all that wait go on; armed flags trap first; a count outside its range is misuse 8, differing operands misuse 7, and a slot that expects another count misuse 6; a group's arrival is counted on its slot, waits where no slot is free, and releases every waiting group when the count is reached. An arrival at a job's coordinator is counted the same way. That every member of a job finds the same coordinator is the model's reading (log 35); the XMASK of these traps is the effective mask by the model's reading (log 71). -/
def Obligations.GroupBarriers : Prop :=
  let last (s : State) (gid : Nat) (cs : List Ctx) : Bool :=
    ((s.group gid).slices.zipIdx).all (fun x => x.1.ended || x.1.atGsync || cs.any (fun c => c.ref.idx == x.2))
  let clean (s : State) (cs : List Ctx) : Prop := ∀ c ∈ cs, armedTrap (s.slice c.ref) (s.group c.ref.gid).gsat c.eff = none
  let goOn (s t : State) (cs : List Ctx) : Prop := ∀ c ∈ cs, ∃ l, t.slice c.ref = { s.slice c.ref with regpc := 0, pathStores := [], pc := c.g.next, sub := l }
  let wait (s t : State) (cs : List Ctx) (w : Ctx → Wait) : Prop :=
    ∀ c ∈ cs, ∃ l, t.slice c.ref = { s.slice c.ref with regpc := 0, pathStores := [], wait := some (w c), sub := l }
  let released (s t : State) (r : SliceRef) (next : Dword) : Prop := ∃ l, t.slice r = { s.slice r with wait := none, pc := next, sub := l }
  let allReleased (s t : State) (gid : Nat) : Prop := ∀ r level id n eff next counted, r.gid = gid → (s.slice r).wait = some (.hbar level id n eff next counted) → released s t r next
  let gsync (i : Instr) (s : State) (who : Issuer) (cs : List Ctx) : Prop :=
    (clean s cs → last s who.gid cs = true → ∃ t, exec i s = .next t ∧ SameDevice s t ∧ (∀ k, k ≠ who.gid → t.group k = s.group k) ∧
      (t.group who.gid).gsyncGen = (s.group who.gid).gsyncGen + 1 ∧
      { t.group who.gid with slices := (s.group who.gid).slices, gangs := (s.group who.gid).gangs, gsyncGen := (s.group who.gid).gsyncGen } = s.group who.gid ∧
      goOn s t cs ∧ (∀ r eff next, r.gid = who.gid → (s.slice r).wait = some (.gsync eff next) → released s t r next) ∧
      (∀ r, r.gid = who.gid → r.idx ∉ cs.map (fun c => c.ref.idx) → (s.slice r).atGsync = false → { t.slice r with sub := (s.slice r).sub } = s.slice r)) ∧
    (clean s cs → last s who.gid cs = false → ∃ t, exec i s = .next t ∧ OnlySlices s t who.gid (cs.map (fun c => c.ref.idx)) ∧
      wait s t cs (fun c => .gsync c.eff c.g.next)) ∧
    (∀ c x, cs = [c] → armedTrap (s.slice c.ref) (s.group c.ref.gid).gsat c.eff = some x → Traps i s who c (s.closing c.g [c]) x)
  EachForm 0x7D .gsync .gsyncC gsync ∧
  EachW 0x81 .hbar (fun i s who cs => ∀ c0 rest, cs = c0 :: rest →
    let level := WForm.field c0.g.w 52 50
    let id := WForm.field c0.g.w 56 53
    let n (c : Ctx) : Nat := uni c s c.g.w.a.toNat
    let g := s.group who.gid
    let here (b : BarrierSlot) : Bool := b.level == level && b.place == g.hbarPlace level && b.part == g.part && b.id == id && b.key == s.hbarKey g level
    let slot : BarrierSlot := (s.barriers.find? here).getD ⟨level, g.hbarPlace level, g.part, id, s.hbarKey g level, n c0, 0, []⟩
    let agree : Prop := (∀ c ∈ cs, n c = n c0) ∧ ∀ r x, r.gid = who.gid → (s.slice r).hbarWait = some x → x = (level, id, n c0)
    let full : Prop := s.hbarFull who.gid (cs.map (fun c => c.ref.idx)) = true
    (level = 0 → gsync i s who cs) ∧
    (level ≠ 0 → clean s cs → (∀ c ∈ cs, n c ≠ 0 ∧ n c < 2 ^ 24) →
      (¬full → ∃ t, exec i s = .next t ∧ OnlySlices s t who.gid (cs.map (fun c => c.ref.idx)) ∧ wait s t cs (fun c => .hbar level id (n c) c.eff c.g.next false)) ∧
      (full → agree → s.slotFor who.gid level id = false → ∃ t, exec i s = .next t ∧ t.barriers = s.barriers ∧ t.hbarWaiting = s.hbarWaiting ++ [(who.gid, level, id, n c0)] ∧
        t.mem = s.mem ∧ wait s t cs (fun c => .hbar level id (n c) c.eff c.g.next true)) ∧
      (full → agree → s.slotFor who.gid level id = true → level ≠ 4 →
        (slot.expected = n c0 → slot.count + 1 ≠ n c0 → ∃ t, exec i s = .next t ∧ t.mem = s.mem ∧ t.hbarWaiting = s.hbarWaiting ∧
          t.barriers = s.barriers.filter (fun b => !here b) ++ [{ slot with count := slot.count + 1, waiting := slot.waiting ++ [who.gid] }] ∧
          wait s t cs (fun c => .hbar level id (n c) c.eff c.g.next true)) ∧
        (slot.expected = n c0 → slot.count + 1 = n c0 → ∃ t, exec i s = .next t ∧ t.mem = s.mem ∧ t.hbarWaiting = s.hbarWaiting ∧
          t.barriers = s.barriers.filter (fun b => !here b) ∧ goOn s t cs ∧ allReleased s t who.gid ∧ ∀ k ∈ slot.waiting, allReleased s t k) ∧
        (slot.expected ≠ n c0 → g.slices.length = 1 → Traps i s who c0 (s.closing c0.g [c0]) ⟨0x11, 0, c0.eff, 6⟩)) ∧
      (full → agree → s.slotFor who.gid level id = true → level = 4 → s.coordinatorOf g.part (s.hbarKey g 4) = s.package → ∃ t, exec i s = .next t ∧ t.mem = s.mem ∧
        t.jobMessages = s.jobMessages ++ [{ package := s.package, part := g.part, job := s.hbarKey g 4, id := id, expected := n c0, gid := who.gid }] ∧
        t.barriers = s.barriers.filter (fun b => !here b) ++ [{ slot with count := slot.count + 1, waiting := slot.waiting ++ [who.gid] }] ∧
        wait s t cs (fun c => .hbar level id (n c) c.eff c.g.next true)) ∧
      (full → rest = [] → (∃ r x, r.gid = who.gid ∧ (s.slice r).hbarWait = some x ∧ x ≠ (level, id, n c0)) →
        Traps i s who c0 ((s.closing c0.g [c0]).misuseHbar who.gid 7) ⟨0x11, 0, c0.eff, 7⟩)) ∧
    (level ≠ 0 → rest = [] → (n c0 = 0 ∨ 2 ^ 24 ≤ n c0) → Traps i s who c0 (s.closing c0.g [c0]) ⟨0x11, 0, c0.eff, 8⟩)) ∧
  (∀ (s : State) (gid level id expected : Nat), level ≠ 4 → ∀ (b : BarrierSlot), s.barriers.find? (fun b => b.level == level && b.place == (s.group gid).hbarPlace level &&
      b.part == (s.group gid).part && b.id == id && b.key == (s.recordOf (s.group gid).uid).levels.toNat) = some b →
    (b.expected ≠ expected → s.arriveSlot gid level id expected = (s, .misuse 6)) ∧
    (b.expected = expected → b.count + 1 ≠ expected → ∃ t, s.arriveSlot gid level id expected = (t, .waits) ∧
      t.barriers.contains { b with count := b.count + 1, waiting := b.waiting ++ [gid] } = true) ∧
    (b.expected = expected → b.count + 1 = expected → ∃ t, s.arriveSlot gid level id expected = (t, .done) ∧ t.barriers.contains b = false)) ∧
  (∀ (s : State) (k gid level id expected : Nat), (s.hbarWaiting.drop k).head? = some (gid, level, id, expected) →
    (s.slotFor gid level id = false → exec (.hbarSlotAdmit k) s = .next s) ∧
    (s.slotFor gid level id = true → ∃ t, exec (.hbarSlotAdmit k) s = .next t ∧ t.hbarWaiting = s.hbarWaiting.eraseIdx k ∧ t.mem = s.mem ∧
      ∀ u a, { s with hbarWaiting := s.hbarWaiting.eraseIdx k }.arriveSlot gid level id expected = (u, a) →
        (a = .waits → t = u) ∧ (a = .done → t.barriers = u.barriers ∧ allReleased s t gid) ∧ (∀ code, a = .misuse code → t = u.misuseHbar gid code))) ∧
  (∀ (s : State) (m : JobArrival),
    let here (x : JobSlot) : Bool := x.job == m.job && x.id == m.id
    let others := s.coordinator.filter (fun x => !here x)
    let x : JobSlot := (s.coordinator.find? here).getD ⟨m.job, m.id, m.expected, 0, []⟩
    let room : Prop := (s.coordinator.find? here).isSome = true ∨ (s.coordinator.filter (fun x => x.job == m.job)).length < 16
    let arrives (e : Instr) (left : State → Prop) (held : List JobArrival) : Prop := ∃ t, exec e s = .next t ∧ t.mem = s.mem ∧ left t ∧
      (¬room → t.coordinator = s.coordinator ∧ t.jobWaiting = held ++ [m]) ∧
      (room → t.jobWaiting = held ∧
        (x.count ≠ 0 → x.expected ≠ m.expected → t.coordinator = s.coordinator) ∧
        ((x.count = 0 ∨ x.expected = m.expected) →
          (x.count + 1 = m.expected → t.coordinator = others ∧ ∀ y ∈ x.waiting ++ [(m.package, m.gid)], y.1 = s.package → allReleased s t y.2) ∧
          (x.count + 1 ≠ m.expected → t.coordinator = others ++ [{ x with expected := m.expected, count := x.count + 1, waiting := x.waiting ++ [(m.package, m.gid)] }] ∧ t.groups = s.groups)))
    arrives (.jobBarrierMessage m) (fun t => t.jobMessages = s.jobMessages.erase m) s.jobWaiting ∧
    (∀ k, s.hbarWaiting.length ≤ k → (s.jobWaiting.drop (k - s.hbarWaiting.length)).head? = some m →
      arrives (.hbarSlotAdmit k) (fun t => t.hbarWaiting = s.hbarWaiting) (s.jobWaiting.eraseIdx (k - s.hbarWaiting.length))))

/-! ### The matrix engine -/

/-- R237, R238, R242, R243, R247 to R249, R253, R254, R256, R257: a matrix instruction that passes its checks posts one command per slice to the queue of its core, in its open batch but for MACCR, whose destination becomes empty; a full batch traps with cause 0x14 before any other check, then the first check that fails. That a count of MGATHER outside 1 to 32 traps at issue and that an extent is judged by its lowest and highest byte (log 30), when a descriptor is read and the order of its checks, codes 19 and 20 among them (log 29), and the effective mask as XMASK (log 71) are the model's choices. -/
def Obligations.MatrixInstructions : Prop :=
  let f (c : Ctx) (hi lo : Nat) : Nat := WForm.field c.g.w hi lo
  let a (c : Ctx) (s : State) : Nat := uni c s c.g.w.a.toNat
  let b (c : Ctx) (s : State) : Nat := uni c s c.g.w.b.toNat
  let stride (c : Ctx) (s : State) : Int := (word (b c s)).toInt
  let rm (c : Ctx) (s : State) : Nat := match c.g.pfx.rnd with | none => 0 | some v => if v % 8 = 5 then (s.slice c.ref).fmt.toNat % 8 else v % 8
  let queued (c : Ctx) (s : State) (op : MatrixOp) : State :=
    s.modCore (s.group c.ref.gid).coreRef (fun k => { k with matrix := { k.matrix with queue := k.matrix.queue ++ [
      { gid := c.ref.gid, idx := c.ref.idx, uid := (s.group c.ref.gid).uid, batch := (s.slice c.ref).matrix.openBatch.num, eff := c.eff, nf := c.g.w.nf,
        addr := c.g.addr, op := op }] } })
  let posts (op : Ctx → State → MatrixOp) (c : Ctx) (s u : State) : Prop := (s.slice c.ref).matrix.openCommands < 255 ∧
    u = (queued c s (op c s)).modSlice c.ref (fun sl =>
      { sl with matrix := { sl.matrix with openCommands := sl.matrix.openCommands + 1, openBatch := { sl.matrix.openBatch with left := sl.matrix.openBatch.left + 1 } } })
  let overflows (op : Nat) (i : List Prefix → WForm → Instr) (check : Ctx → State → Option Trap) : Prop := EachW op i (fun i s who cs => ∀ c, cs = [c] →
    (255 ≤ (s.slice c.ref).matrix.openCommands → Traps i s who c s ⟨0x14, c.g.addr, c.eff, 1⟩) ∧
    (∀ t, (s.slice c.ref).matrix.openCommands < 255 → check c s = some t → Traps i s who c (s.closing c.g [c]) t))
  let plain (op : Nat) (i : List Prefix → WForm → Instr) (m : Ctx → State → MatrixOp) : Prop := EachW op i (Goes (posts m)) ∧ overflows op i (fun _ _ => none)
  let checked (op : Nat) (i : List Prefix → WForm → Instr) (check : Ctx → State → Option Trap) (m : Ctx → State → MatrixOp) : Prop :=
    EachW op i (Goes (fun c s u => check c s = none ∧ posts m c s u)) ∧ overflows op i check
  let top (c : Ctx) (s : State) : Int := 4096 * ((s.group c.ref.gid).pages : Int)
  let outside (c : Ctx) (s : State) (lo hi : Int) : Option Trap :=
    if lo < 0 then some ⟨0x0A, BitVec.ofInt 64 lo, c.eff, 1⟩ else if top c s ≤ hi then some ⟨0x0A, BitVec.ofInt 64 hi, c.eff, 1⟩ else none
  let off (c : Ctx) (n : Nat) (x : Int) : Option Trap := if x % (n : Int) = 0 then none else some ⟨0x07, BitVec.ofInt 64 x, c.eff, word n⟩
  let tile (c : Ctx) (s : State) : Option Trap :=
    let n := f c 55 52
    let row : Int := if 12 ≤ n then 2 * (bxBytes (bxBits n) : Int) else 32 * (codeBytes n : Int)
    let al := if 12 ≤ n then bxAlign (bxBits n) else codeBytes n
    (outside c s (min (a c s : Int) (a c s + 31 * stride c s)) (max (a c s : Int) (a c s + 31 * stride c s) + row - 1)).or
      ((off c al (a c s)).or (off c al (stride c s)))
  let block (c : Ctx) (s : State) : Option Trap := (outside c s (a c s) (a c s + 639)).or (off c 4 (a c s))
  let z (c : Ctx) : Nat := if f c 52 52 = 1 then 8 else 4
  let tensor (c : Ctx) (s : State) : Option Trap :=
    let o := uni c s c.g.w.c.toNat
    (outside c s (a c s) (a c s + 512 * z c - 1)).or ((outside c s (b c s) (b c s + 64 * z c - 1)).or ((outside c s o (o + 512 * z c - 1)).or
      ((off c (z c) (a c s)).or ((off c (z c) (b c s)).or (off c (z c) o)))))
  let list (c : Ctx) (s : State) : Option Trap :=
    if b c s = 0 ∨ 32 < b c s then some ⟨0x13, 0, c.eff, 21⟩ else copyChecks (s.group c.ref.gid) c.eff [⟨.scr, [a c s], 4 * b c s, 4⟩] 0 0
  let from_ (c : Ctx) (s : State) (glb : Bool) : Dword := if glb then c.pairA (s.slice c.ref) else dword (a c s)
  let reads (c : Ctx) (s : State) (glb : Bool) (A : Dword) (n align : Nat) (v : State) (bs : List Byte) : Prop :=
    bs.length = n ∧
    if glb then readOnce c s true A n align = (v, .inl bs)
    else (A.toNat % align = 0 ∧ A.toNat + n ≤ 4096 * (s.group c.ref.gid).pages ∧ (scrLines A.toNat n).all (fun l => !s.lineAbsent (s.group c.ref.gid) l) = true ∧
      (s.group c.ref.gid).scr.poisonAt 8 A.toNat n = none ∧ v = s ∧ bs = (s.group c.ref.gid).scr.bytesAt A.toNat n)
  let refuses (op : Nat) (i : List Prefix → WForm → Instr) (bit n align : Nat) : Prop := EachW op i (fun i s who cs => ∀ c, cs = [c] →
    let glb := f c bit bit == 1
    let A := from_ c s glb
    let stops (t : Trap) : Prop := (s.slice c.ref).matrix.openCommands < 255 → Traps i s who c (s.closing c.g [c]) t
    (255 ≤ (s.slice c.ref).matrix.openCommands → Traps i s who c s ⟨0x14, c.g.addr, c.eff, 1⟩) ∧
    (glb = false → 4096 * (s.group c.ref.gid).pages < A.toNat + n → stops ⟨0x0A, A, c.eff, 1⟩) ∧
    (glb = false → A.toNat + n ≤ 4096 * (s.group c.ref.gid).pages → A.toNat % align ≠ 0 → stops ⟨0x07, A, c.eff, word align⟩) ∧
    (glb = true → canonical A = false → stops ⟨0x09, A, c.eff, 1⟩) ∧
    (glb = true → canonical A = true → canonical (A + dword (n - 1)) = true → A.toNat % align ≠ 0 → stops ⟨0x07, A, c.eff, word align⟩))
  let w (bs : List Byte) (o : Nat) : Nat := fromBytes ((bs.drop o).take 4)
  let lay (c : Ctx) (s : State) (bs : List Byte) : LayoutRecord :=
    { base := (w bs 0 % 2 ^ 19 + b c s + c.g.pfx.xi.getD 0 % 2 ^ 19) % 2 ^ 32
      fmt := w bs 0 / 2 ^ 20 % 16
      e0 := w bs 8 % 2 ^ 16
      e1 := w bs 8 / 2 ^ 16
      e2 := w bs 12 % 2 ^ 16
      e3 := w bs 12 / 2 ^ 16
      s0 := (word (w bs 16)).toInt
      s1 := (word (w bs 20)).toInt
      s2 := (word (w bs 24)).toInt
      s3 := (word (w bs 28)).toInt }
  let layTrap (c : Ctx) (s v : State) (bs : List Byte) : Option Trap :=
    let r := lay c s bs
    let code (n : Word) : Option Trap := some ⟨0x13, from_ c s (f c 53 53 == 1), c.eff, n⟩
    let al : Int := if 12 ≤ r.fmt then (bxAlign (bxBits r.fmt) : Int) else (codeBytes r.fmt : Int)
    let n : Int := if 12 ≤ r.fmt then (bxBytes (bxBits r.fmt) : Int) else (codeBytes r.fmt : Int)
    let ends : List Int := [((if 12 ≤ r.fmt then r.e0 / 16 else r.e0 : Nat) - 1 : Int) * r.s0, (r.e1 - 1) * r.s1, (r.e2 - 1) * r.s2, (r.e3 - 1) * r.s3]
    if r.e0 = 0 ∨ r.e1 = 0 ∨ r.e2 = 0 ∨ r.e3 = 0 then code 16
    else if r.fmt ≠ 0 ∧ (r.fmt < 8 ∨ 14 < r.fmt) then code 17
    else if r.s0 % al ≠ 0 ∨ r.s1 % al ≠ 0 ∨ r.s2 % al ≠ 0 ∨ r.s3 % al ≠ 0 ∨ 12 ≤ r.fmt ∧ r.e0 % 16 ≠ 0 then code 18
    else if w bs 0 / 2 ^ 24 ≠ 0 ∨ w bs 0 / 2 ^ 19 % 2 ≠ 0 ∨ w bs 4 ≠ 0 then code 19
    else (outside c v (r.base + (ends.map (fun x => min 0 x)).sum) (r.base + (ends.map (fun x => max 0 x)).sum + n - 1)).or (off c al.toNat r.base)
  let ops (bs : List Byte) : List Nat := (List.range (w bs 0 % 16)).map (fun k => w bs (4 + 4 * k))
  let opTrap (c : Ctx) (s : State) (bs : List Byte) : Option Trap :=
    let code (n : Word) : Option Trap := some ⟨0x13, from_ c s (f c 52 52 == 1), c.eff, n⟩
    if (ops bs).any (fun x => x / 2 ^ 24 % 4 != 0 || ([3, 4, 7].contains (x / 2 ^ 28) && x % 2 ^ 24 != 0) || (x / 2 ^ 28 == 1 && x / 2 ^ 16 % 2 ^ 8 != 0)) then code 19
    else if (ops bs).any (fun x => x / 2 ^ 28 == 0 || decide (8 ≤ x / 2 ^ 28)) then code 20
    else none
  plain 0x91 .mldb (fun c s => .ldb (f c 52 50) (a c s)) ∧ plain 0x92 .mlda (fun c _ => .lda (f c 50 50) (f c 53 51)) ∧
  plain 0x93 .mzero (fun c _ => .zero (f c 53 50)) ∧ plain 0x94 .mma (fun c s => .mma (f c 51 50) (f c 55 52) (a c s)) ∧
  plain 0x99 .mtrans (fun c _ => .trans (f c 51 50) (f c 53 52)) ∧
  checked 0x95 .mmam block (fun c s => .mam (f c 51 50) (f c 53 52) (a c s)) ∧
  checked 0x97 .mst tile (fun c s => .st (f c 51 50) (f c 55 52) (f c 56 56 == 1) (a c s) (stride c s) (rm c s) (modeB (s.slice c.ref).fmt)) ∧
  checked 0x98 .mldc tile (fun c s => .ldc (f c 51 50) (f c 55 52) (f c 56 56 == 1) (a c s) (stride c s)) ∧
  checked 0x9A .mgather list (fun c s => .gather (f c 50 50) (f c 53 51) (a c s) (b c s)) ∧
  checked 0x9D .stc tensor (fun c s => .stc (f c 51 50) (f c 52 52 == 1) (a c s) (b c s) (uni c s c.g.w.c.toNat) (rm c s)) ∧
  refuses 0x90 .mlay 53 32 8 ∧ refuses 0x96 .mmask 52 4 4 ∧
  EachW 0x90 .mlay (Goes (fun c s u => ∃ v bs, reads c s (f c 53 53 == 1) (from_ c s (f c 53 53 == 1)) 32 8 v bs ∧ layTrap c s v bs = none ∧
    posts (fun _ _ => .lay (f c 52 50) (lay c s bs)) c v u)) ∧
  EachW 0x90 .mlay (fun i s who cs => ∀ c v bs t, cs = [c] → (s.slice c.ref).matrix.openCommands < 255 → let s0 := s.closing c.g [c]
    reads c s0 (f c 53 53 == 1) (from_ c s0 (f c 53 53 == 1)) 32 8 v bs → layTrap c s0 v bs = some t → Traps i s who c v t) ∧
  EachW 0x96 .mmask (Goes (fun c s u => let glb := f c 52 52 == 1
    ∃ v x y bs, reads c s glb (from_ c s glb) 4 4 v x ∧ w x 0 / 16 = 0 ∧ 1 ≤ w x 0 ∧ w x 0 ≤ 8 ∧ reads c v glb (from_ c s glb) (4 + 4 * w x 0) 4 y bs ∧
      w bs 0 = w x 0 ∧ opTrap c s bs = none ∧ posts (fun _ _ => .mask (f c 51 50) ((ops bs).map (fun o => ⟨o / 2 ^ 28, o / 2 ^ 26 % 4, o % 2 ^ 24⟩))) c y u)) ∧
  EachW 0x96 .mmask (fun i s who cs => ∀ c v x, cs = [c] → (s.slice c.ref).matrix.openCommands < 255 → let s0 := s.closing c.g [c]
    let glb := f c 52 52 == 1
    reads c s0 glb (from_ c s0 glb) 4 4 v x → (w x 0 / 16 ≠ 0 → Traps i s who c v ⟨0x13, from_ c s0 glb, c.eff, 19⟩) ∧
    (w x 0 / 16 = 0 → (w x 0 = 0 ∨ 8 < w x 0) → Traps i s who c v ⟨0x13, from_ c s0 glb, c.eff, 20⟩) ∧
    (∀ y bs t, w x 0 / 16 = 0 → 1 ≤ w x 0 → w x 0 ≤ 8 → reads c v glb (from_ c s0 glb) (4 + 4 * w x 0) 4 y bs → w bs 0 = w x 0 → opTrap c s0 bs = some t →
      Traps i s who c y t)) ∧
  (let at_ (c : Ctx) (s : State) (x : BitVec 8) (i : Nat) : Nat := ((s.slice c.ref).operand c.g0 x.toNat i).toNat
   let beyond (c : Ctx) (s : State) : Mask := c.eff &&& Mask.ofFn (fun i => decide (32 ≤ at_ c s c.g.w.a i) || decide (32 ≤ at_ c s c.g.w.b i))
   EachW 0x9E .maccr (Goes (fun c s u => beyond c s = 0 ∧
     u = queued c (s.modSlice c.ref (fun sl => sl.makeEmptyN c.g.w.d.toNat (codeWords (f c 55 52)) c.eff))
       (.accr (f c 51 50) (f c 55 52) (f c 56 56 == 1) c.g.w.d.toNat ((List.range 4).map (at_ c s c.g.w.a)) ((List.range 4).map (at_ c s c.g.w.b)) (rm c s)
         (modeB (s.slice c.ref).fmt)))) ∧
   EachW 0x9E .maccr (fun i s who cs => ∀ c, cs = [c] → beyond c s ≠ 0 → Traps i s who c (s.closing c.g [c]) ⟨0x13, 0, beyond c s, 21⟩))

/-- R239 to R241: MBATCH seals the open batch under its number, writes that to d, opens the next one and lets a finished batch arrive at its barrier, or waits while 16 sealed ones are unfinished; MWAIT goes on once every batch it covers has finished, delivering their flags once and then the oldest failure among them; a batch that is unsealed or too old takes trap 0x14. Batch numbers count without end in the model and are named modulo 2^32. The XMASK of MBATCH's and MWAIT's traps is the effective mask by the model's reading (log 71). -/
def Obligations.MatrixBatchesFinish : Prop :=
  let f (c : Ctx) (hi lo : Nat) : Nat := WForm.field c.g.w hi lo
  let m (c : Ctx) (s : State) : MatrixBatches := (s.slice c.ref).matrix
  let unfinished (c : Ctx) (s : State) : Nat := ((m c s).sealed_.filter (fun b => b.left != 0)).length
  let addr (c : Ctx) (s : State) : Nat := uni c s c.g.w.a.toNat
  let bar (c : Ctx) (s : State) : Option (Nat × Nat × Nat) := if f c 50 50 = 1 then some (addr c s, f c 52 51, uni c s c.g.w.b.toNat) else none
  let there (c : Ctx) (s : State) : Prop := f c 50 50 = 1 →
    addr c s + 24 ≤ 4096 * (s.group c.ref.gid).pages ∧ addr c s % 8 = 0 ∧ (barrierLines (addr c s)).all (fun l => !s.lineAbsent (s.group c.ref.gid) l) = true
  let opens (c : Ctx) (s : State) : State := s.modSlice c.ref (fun sl =>
    let y : Slice := { sl with matrix :=
      { openCommands := 0
        sealed_ := sl.matrix.sealed_ ++ [{ sl.matrix.openBatch with barrier := bar c s }]
        openBatch := MatrixBatch.opened (sl.matrix.openBatch.num + 1) } }
    if c.g.w.d = 0 then y else y.setLanes c.g.w.d.toNat c.eff (Lanes.all (word sl.matrix.openBatch.num)))
  let age (c : Ctx) (s : State) : Nat := ((m c s).openBatch.num % 2 ^ 32 + 2 ^ 32 - uni c s c.g.w.a.toNat) % 2 ^ 32
  let covered (c : Ctx) (s : State) (b : MatrixBatch) : Bool := decide (b.num + age c s ≤ (m c s).openBatch.num)
  let all (c : Ctx) (s : State) : List MatrixBatch := (m c s).sealed_.filter (covered c s)
  let flagged (c : Ctx) (s : State) : State := (all c s).foldl (fun v b => v.raiseFlags c.ref 15 b.flags) s
  EachW 0x9B .mbatch (Goes (fun c s u => there c s ∧ unfinished c s < 16 ∧
    ((m c s).openBatch.left ≠ 0 ∨ f c 50 50 = 0 → u = opens c s) ∧
    ((m c s).openBatch.left = 0 → f c 50 50 = 1 →
      if (m c s).openBatch.error.isSome then u = (opens c s).setBarrier c.ref.gid (addr c s) ((s.group c.ref.gid).barrierAt (addr c s)).setPois []
      else ∃ r, ((s.group c.ref.gid).barrierAt (addr c s)).arrive (f c 52 51) (uni c s c.g.w.b.toNat) = r ∧ u = (opens c s).setBarrier c.ref.gid (addr c s) r.1 r.2))) ∧
  EachW 0x9B .mbatch (fun i s who cs => ∀ c, cs = [c] → let s0 := s.closing c.g [c]
    (there c s → 16 ≤ unfinished c s → Parks i s who c s0 (.mbatch c.eff (bar c s) (if c.g.w.d = 0 then none else some c.g.w.d.toNat) c.g.next)) ∧
    (f c 50 50 = 1 → 4096 * (s.group c.ref.gid).pages < addr c s + 24 → Traps i s who c s0 ⟨0x0A, dword (addr c s), c.eff, 1⟩) ∧
    (f c 50 50 = 1 → addr c s + 24 ≤ 4096 * (s.group c.ref.gid).pages → addr c s % 8 ≠ 0 → Traps i s who c s0 ⟨0x07, dword (addr c s), c.eff, 8⟩)) ∧
  EachW 0x9C .mwait (Goes (fun c s u => 1 ≤ age c s ∧ age c s ≤ 2 ^ 31 ∧ (∀ b ∈ all c s, b.left = 0 ∧ b.error = none) ∧
    u = (flagged c s).modSlice c.ref (fun sl => { sl with matrix := { sl.matrix with sealed_ := sl.matrix.sealed_.filter (fun b => !covered c s b) } }))) ∧
  EachW 0x9C .mwait (fun i s who cs => ∀ c, cs = [c] → let s0 := s.closing c.g [c]
    ((age c s = 0 ∨ 2 ^ 31 < age c s) → Traps i s who c s0 ⟨0x14, c.g.addr, c.eff, 2⟩) ∧
    (1 ≤ age c s → age c s ≤ 2 ^ 31 →
      ((∃ b ∈ all c s, b.left ≠ 0) → Parks i s who c s0 (.mwait (uni c s c.g.w.a.toNat) c.eff c.g.next)) ∧
      ((∀ b ∈ all c s, b.left = 0) → ∀ b e, (all c s).find? (fun b => b.error.isSome) = some b → b.error = some e →
        Traps i s who c ((flagged c s0).modSlice c.ref (fun sl =>
          { sl with matrix := { sl.matrix with sealed_ := sl.matrix.sealed_.map (fun x =>
            if covered c s x then { x with flags := Lanes.all 0, error := if x.num = b.num then none else x.error } else x) } }))
          ⟨0x13, e.1, c.eff, word (e.2 + b.num % 2 ^ 16 * 2 ^ 16)⟩)))

/-- R238, R241, R247 to R251, R253 to R257: the engine executes the command at the head of its queue, once the lines it needs are present: it does what the command's rule says to tiles, records, panels, stages, slots and the posting group's scratchpad, or it fails with its code, has no other effect and is recorded in its batch. That a command makes all its accesses in one step (log 6), and NV where a NaN of A meets an absent B (log 76), are the model's choices. -/
def Obligations.MatrixCommands : Prop :=
  ∀ (s : State) (at_ : CoreRef) (c : MatrixCommand) (rest : List MatrixCommand), at_.die < 8 → at_.core < 96 → (s.core at_).matrix.queue = c :: rest →
    let m := (s.core at_).matrix
    let g := s.group c.gid
    let r : SliceRef := ⟨c.gid, c.idx⟩
    let after (t : State) : Matrix := (t.core at_).matrix
    m.tiles.length = 4 → c.idx < g.slices.length → (m.commandLines g.scr c.op).all (fun l => !s.lineAbsent g l) = true →
    (s.slice r).matrix.openBatch.num = c.batch → (∀ b ∈ (s.slice r).matrix.sealed_, b.num ≠ c.batch) →
    let ends (P : State → Prop) : Prop := ∃ t, exec (.matrixCommandExecute at_) s = .next t ∧ (after t).queue = rest ∧ P t
    let tiles (t : State) (f : Nat → Nat → Nat → Dword) : Prop := ∀ T x y, T < 4 → x < 32 → y < 32 → (after t).elem T x y = f T x y
    let tile (t : State) (T : Nat) (f : Nat → Nat → Dword) : Prop := tiles t (fun T' x y => if T' = T then f x y else m.elem T' x y)
    let kept (t : State) : Prop := (t.group c.gid).scr = g.scr
    let fails (code : Nat) : Prop := ends (fun t => tiles t m.elem ∧ kept t ∧ (t.slice r).matrix.openBatch.left = (s.slice r).matrix.openBatch.left - 1 ∧
      (t.slice r).matrix.openBatch.error = (s.slice r).matrix.openBatch.error.or (some (c.addr, code)))
    let record (k : Nat) : Option LayoutRecord := m.records.getD k none
    let fits (n k fmt : Nat) : Prop := n * ((k + 15) / 16) * groupBytes fmt ≤ 2 ^ 16
    (∀ k x, c.op = .lay k x → k < m.records.length → ends (fun t => (after t).records.getD k none = some x ∧ (∀ j, j ≠ k → (after t).records.getD j none = record j) ∧ tiles t m.elem ∧ kept t)) ∧
    (∀ j off, c.op = .ldb j off →
      (record j = none → fails 7) ∧ (∀ x, record j = some x → 32 < x.e2 * x.e3 → fails 3) ∧
      (∀ x, record j = some x → x.e2 * x.e3 ≤ 32 → (4096 ≤ off ∨ 2 ^ 18 < 64 * off + panelBytes (x.e0 * x.e1) x.fmt) → fails 5) ∧
      (∀ x, record j = some x → x.e2 * x.e3 ≤ 32 → off < 4096 → 64 * off + panelBytes (x.e0 * x.e1) x.fmt ≤ 2 ^ 18 → ends (fun t => tiles t m.elem ∧ kept t ∧
        (∀ p, p ∈ (after t).panels ↔ p ∈ m.panels ∧ (p.start + p.size ≤ 64 * off ∨ 64 * off + panelBytes (x.e0 * x.e1) x.fmt ≤ p.start) ∨ p = readPanel g.scr c.gid (64 * off) x)))) ∧
    (∀ (j off q : Nat) (x : LayoutRecord), c.op = .ldb j off → record j = some x → (x.fmt < 12 ∨ x.fmt < 15 ∧ x.e0 % 16 = 0) → q < x.e2 * x.e3 →
      (readPanel g.scr c.gid (64 * off) x).column q = (List.range (x.e0 * x.e1)).map (fun k => x.read g.scr q k)) ∧
    (∀ x j, c.op = .lda x j → x < m.stages.length →
      (record j = none → fails 7) ∧ (∀ y, record j = some y → 32 < y.e2 * y.e3 → fails 3) ∧
      (∀ y, record j = some y → y.e2 * y.e3 ≤ 32 → ¬ fits (y.e2 * y.e3) (y.e0 * y.e1) y.fmt → fails 6 ∧ ends (fun t => (after t).stages.getD x none = none)) ∧
      (∀ y, record j = some y → y.e2 * y.e3 ≤ 32 → fits (y.e2 * y.e3) (y.e0 * y.e1) y.fmt → ends (fun t => tiles t m.elem ∧ kept t ∧ ∃ z, (after t).stages.getD x none = some z ∧
        z.k = y.e0 * y.e1 ∧ z.fmt = y.fmt ∧ z.rows = (List.range (y.e2 * y.e3)).map (fun q => (List.range (y.e0 * y.e1)).map (fun k => y.read g.scr q k))))) ∧
    (∀ x j l n, c.op = .gather x j l n → x < m.stages.length → let row (q : Nat) : Nat := g.scr.num (l + 4 * q) 4
      (record j = none → fails 7) ∧ (∀ y q, record j = some y → q < n → y.e2 * y.e3 ≤ row q → fails 9) ∧
      (∀ y, record j = some y → (∀ q, q < n → row q < y.e2 * y.e3) → ¬ fits n (y.e0 * y.e1) y.fmt → fails 6 ∧ ends (fun t => (after t).stages.getD x none = none)) ∧
      (∀ y, record j = some y → (∀ q, q < n → row q < y.e2 * y.e3) → fits n (y.e0 * y.e1) y.fmt → ends (fun t => tiles t m.elem ∧ kept t ∧ ∃ z, (after t).stages.getD x none = some z ∧
        z.k = y.e0 * y.e1 ∧ z.fmt = y.fmt ∧ z.rows = (List.range n).map (fun q => (List.range (y.e0 * y.e1)).map (fun k => y.read g.scr (row q) k))))) ∧
    (∀ tm, c.op = .zero tm → ends (fun t => kept t ∧ tiles t (fun T x y => if tm / 2 ^ T % 2 = 1 then 0 else m.elem T x y))) ∧
    (∀ d src off, c.op = .mma d src off → d < 4 →
      (∀ k, src = 8 + k → m.stages.getD k none = none → fails 6) ∧ (src < 8 → record src = none → fails 7) ∧
      (∀ y, src < 8 → record src = some y → 32 < y.e2 * y.e3 → fails 3) ∧
      (∀ (A : Stage), (∀ k, src = 8 + k → m.stages.getD k none = some A) →
        (src < 8 → ∃ y, record src = some y ∧ y.e2 * y.e3 ≤ 32 ∧ A.k = y.e0 * y.e1 ∧ A.fmt = y.fmt ∧
          A.rows = (List.range (y.e2 * y.e3)).map (fun q => (List.range (y.e0 * y.e1)).map (fun k => y.read g.scr q k))) →
        let panel : Option Panel := m.panels.find? (fun p => p.start == 64 * off)
        let permitted (x y : Nat) : Prop := x = 0 ∧ y = 0 ∨ 8 ≤ x ∧ 8 ≤ y
        (panel = none → fails 4) ∧ (∀ p, panel = some p → A.k ≠ p.k → fails 2) ∧ (∀ p, panel = some p → A.k = p.k → ¬ permitted A.fmt p.fmt → fails 1) ∧
        (∀ p, panel = some p → A.k = p.k → permitted A.fmt p.fmt → ends (fun t => kept t ∧ tile t d (fun x y =>
          if x < A.rows.length ∧ y < p.cols.length then
            (mmaElement (A.fmt == 0) (min (chunkOf A.fmt) (chunkOf p.fmt)) p.k (m.elem d x y) (A.rows.getD x []) (p.column y)).1
          else m.elem d x y))))) ∧
    (∀ d j a, c.op = .mam d j a → d < 4 →
      (m.masks.getD j none = none → fails 8) ∧
      (∀ ops, m.masks.getD j none = some ops → let w (k i : Nat) : Nat := g.scr.num (a + 128 * k + 4 * i) 4
        ends (fun t => kept t ∧ tile t d (fun x y => if maskAt ops w x y then 0xFFF0000000000000 else m.elem d x y)))) ∧
    (∀ j prog, c.op = .mask j prog → j < m.masks.length → ends (fun t => (after t).masks.getD j none = some prog ∧ tiles t m.elem ∧ kept t)) ∧
    (∀ d e, c.op = .trans d e → d < 4 → e < 4 → ends (fun t => kept t ∧ tile t d (fun x y => m.elem e y x))) ∧
    (∀ d fmt int a stride, c.op = .ldc d fmt int a stride → d < 4 → ends (fun t => kept t ∧ tile t d (fun x y =>
      let v := g.scr.element fmt (((a : Int) + x * stride).toNat + (if 12 ≤ fmt then y / 16 else y) * fmtBytes fmt) (y % 16)
      if int then BitVec.ofInt 64 v.toInt else dword (fmtF64.round .rne v).bits))) ∧
    (∀ d fmt int a stride rm satB, c.op = .st d fmt int a stride rm satB → ends (fun t => tiles t m.elem ∧
      (∀ o, (∀ x : Nat, x < 32 → let b := ((a : Int) + x * stride).toNat; o < b ∨ b + tileRowBytes fmt ≤ o) → (t.group c.gid).scr.byte o = g.scr.byte o) ∧
      (∀ o, (t.group c.gid).scr.full o = g.scr.full o) ∧
      ∀ x : Nat, x < 32 → (∀ y : Nat, x < y → y < 32 → let b := ((a : Int) + x * stride).toNat; let b' := ((a : Int) + y * stride).toNat
          b + tileRowBytes fmt ≤ b' ∨ b' + tileRowBytes fmt ≤ b) →
        (t.group c.gid).scr.bytesAt ((a : Int) + x * stride).toNat (tileRowBytes fmt) = (tileRow m d fmt x int (Rounding.ofCode rm) satB).1)) ∧
    (∀ axis f64 a b o rm, c.op = .stc axis f64 a b o rm → axis < 3 → let n := if f64 then 8 else 4
      ends (fun t => tiles t m.elem ∧ (∀ x, (x < o ∨ o + 512 * n ≤ x) → (t.group c.gid).scr.byte x = g.scr.byte x) ∧ (∀ x, (t.group c.gid).scr.full x = g.scr.full x) ∧
        ∀ i j k, i < 8 → j < 8 → k < 8 →
          let F := if f64 then fmtF64 else fmtF32
          let Q (p q : Nat) : Machine.Num := F.decode (g.scr.num (b + (8 * p + q) * n) n)
          let u (i j k : Nat) : Machine.Num := F.decode (g.scr.num (a + ((8 * i + j) * 8 + k) * n) n)
          (t.group c.gid).scr.bytesAt (o + ((8 * i + j) * 8 + k) * n) n = toBytes n (stcChain F (Rounding.ofCode rm) ((List.range 8).map (fun q =>
            match axis with | 0 => (Q i q, u q j k) | 1 => (Q j q, u i q k) | _ => (Q k q, u i j q)))).1)) ∧
    (∀ T fmt int dst rows cols rm satB, c.op = .accr T fmt int dst rows cols rm satB → (s.slice r).ended = false → ends (fun t => tiles t m.elem ∧ kept t ∧
      let v (i : Nat) : Nat :=
        let e := m.elem T (rows.getD i 0) (cols.getD i 0)
        extendCode fmt (toCode fmt (Rounding.ofCode rm) ⟨satB, none⟩ (if int then Machine.Num.ofInt e.toInt else fmtF64.decode e.toNat)).bits
      ∀ d i, (t.slice r).reg d i = (c.eff.lanes.foldl (fun y i => y.deliver ⟨dst, codeWords fmt, i, [word (v i), word (v i / 2 ^ 32)],
        m.mark T (rows.getD i 0) (cols.getD i 0)⟩) (s.slice r)).reg d i))

/-! ### The Mint -/

/-- R264 to R266, R278, R280: a Mint instruction makes its checks, alignment before extent before value, and posts one command per slice to the queue of its core; MNREAD makes its destination empty; MNWAIT goes on once every command its slice posted has ended, and traps with the first failure pending. The XMASK of these traps, MNWAIT's among them, is the effective mask by the model's reading (log 71). -/
def Obligations.MintInstructions : Prop :=
  let f (c : Ctx) (hi lo : Nat) : Nat := WForm.field c.g.w hi lo
  let a (c : Ctx) (s : State) : Nat := uni c s c.g.w.a.toNat
  let b (c : Ctx) (s : State) : Nat := uni c s c.g.w.b.toNat
  let posted (c : Ctx) (s : State) (op : MintOp) : State :=
    (s.modCore (s.group c.ref.gid).coreRef (fun k => { k with mint := { k.mint with queue := k.mint.queue ++ [
      { gid := c.ref.gid, idx := c.ref.idx, uid := (s.group c.ref.gid).uid, eff := c.eff, addr := c.g.addr, op := op }] } })).modSlice c.ref
        (fun sl => { sl with mintPosted := sl.mintPosted + 1 })
  let span (align n : Ctx → State → Nat) (c : Ctx) (s : State) : Option Trap :=
    let top := 4096 * (s.group c.ref.gid).pages
    if a c s % align c s ≠ 0 then some ⟨0x07, dword (a c s), c.eff, word (align c s)⟩
    else if n c s ≠ 0 ∧ top < a c s + n c s then some ⟨0x0A, dword (max (a c s) top), c.eff, 1⟩
    else none
  let value (bad : Ctx → State → Bool) (c : Ctx) (s : State) : Option Trap := if bad c s then some ⟨0x02, c.g.addr, c.eff, 0xC0⟩ else none
  let block (n : Nat) : Ctx → State → Option Trap := span (fun _ _ => 8) (fun _ _ => n)
  let coin : Ctx → State → Option Trap := value (fun c s => decide (4095 < a c s))
  let count : Ctx → State → Option Trap := value (fun c s => decide (65535 < a c s))
  let each (op : Nat) (i : List Prefix → WForm → Instr) (check : Ctx → State → Option Trap) (m : Ctx → State → MintOp) (after : Ctx → State → State) : Prop :=
    EachW op i (Goes (fun c s u => check c s = none ∧ u = after c (posted c s (m c s)))) ∧
    EachW op i (fun i s who cs => ∀ c t, cs = [c] → check c s = some t → Traps i s who c (s.closing c.g [c]) t)
  let same (_ : Ctx) (s : State) : State := s
  each 0xB0 .mncpl (fun c s => let x := c.pairA (s.slice c.ref)
    if x.toNat % 8 ≠ 0 then some ⟨0x07, x, c.eff, 8⟩ else if canonical x = false then some ⟨0x09, x, c.eff, 1⟩ else none) (fun c s => .cpl (c.pairA (s.slice c.ref))) same ∧
  each 0xB1 .mnbias (fun c s => (span (fun _ _ => 4) (fun c s => 4 * b c s) c s).or (value (fun c s => b c s == 0 || decide (4096 < b c s)) c s))
    (fun c s => .bias (a c s) (b c s)) same ∧
  each 0xB2 .mnclamp (fun c s => if f c 50 50 = 1 then coin c s else block 1024 c s)
    (fun c s => if f c 50 50 = 1 then .clampOne (a c s) (b c s != 0) else .clamp (a c s)) same ∧
  each 0xB3 .mnfree (fun c s => if f c 51 50 = 0 then block 512 c s else if f c 51 50 = 1 then coin c s else none)
    (fun c s => if f c 51 50 = 0 then .free (a c s) else if f c 51 50 = 1 then .freeOne (a c s) else .freeAll) same ∧
  each 0xB4 .mnbeta (value (fun c s => a c s != 2 ^ 31 && (decide (2 ^ 31 ≤ a c s) || decide (0x7F800000 ≤ a c s))))
    (fun c s => .beta (if a c s = 2 ^ 31 then 0 else word (a c s))) same ∧
  each 0xB5 .mnmode (block 32) (fun c s => .mode (f c 50 50 == 1) (f c 51 51 == 1) (f c 52 52 == 1) (a c s)) same ∧
  each 0xB6 .mnsweep count (fun c s => .sweep (a c s)) same ∧
  each 0xB7 .mnpick count (fun c s => .pick (a c s)) same ∧
  each 0xB8 .mnread (block 8192) (fun c s => .read (a c s) c.g.w.d.toNat) (fun c u => u.modSlice c.ref (fun sl => sl.makeEmpty c.g.w.d.toNat c.eff)) ∧
  each 0xB9 .mnstate (block 512) (fun c s => if f c 50 50 = 1 then .stateStore (a c s) else .stateLoad (a c s)) same ∧
  each 0xBB .mnreset (fun _ _ => none) (fun c _ => .reset (f c 50 50 == 1)) same ∧
  EachW 0xBA .mnwait (Goes (fun c s u => (s.slice c.ref).mintPosted = 0 ∧ (s.slice c.ref).mintFailures = [] ∧ u = s.modSlice c.ref (fun sl => { sl with mintFailures := [] }))) ∧
  EachW 0xBA .mnwait (fun i s who cs => ∀ c, cs = [c] → let s0 := s.closing c.g [c]
    ((s.slice c.ref).mintPosted ≠ 0 → Parks i s who c s0 (.mnwait c.eff c.g.next)) ∧
    (∀ x xs, (s.slice c.ref).mintPosted = 0 → (s.slice c.ref).mintFailures = x :: xs →
      Traps i s who c (s0.modSlice c.ref (fun sl => { sl with mintFailures := [] })) ⟨x.cause, x.addr, c.eff, x.info⟩))

/-- R263, R265, R267 to R271, R275 to R281, R286, R287: what each command does when the Mint executes it: to the coins, clamps, biases, factors, mode, counters and clearing of the Mint, to the scratchpad and to the destination of MNREAD; or it fails with its code and address, which wait for the slice's MNWAIT. A coupling image is judged word by word, and a valid one quantised. That MNMODE with a boundary table applies its writes once its subscriptions have been taken (log 87), what its restart withdraws and publishes (log 36), and that a command acts in one step (log 6), are the model's choices. -/
def Obligations.MintCommands : Prop :=
  ∀ (s : State) (at_ : CoreRef) (c : MintCommand) (rest : List MintCommand), at_.die < 8 → at_.core < 96 →
    let m := (s.core at_).mint
    let g := s.group c.gid
    let r : SliceRef := ⟨c.gid, c.idx⟩
    let after (t : State) : Mint := (t.core at_).mint
    m.queue = c :: rest → m.current = none → m.joining = none → m.stale = false → m.block = none → m.poisoned = [] → c.idx < g.slices.length →
    (scrLines c.op.reads.1 c.op.reads.2 ++ scrLines c.op.writes.1 c.op.writes.2).all (fun l => !s.lineAbsent g l) = true →
    (c.op.reads.2 ≠ 0 → g.scr.poisonAt 8 c.op.reads.1 c.op.reads.2 = none) →
    let kept (t : State) : Prop := (t.group c.gid).scr = g.scr
    let ends (P : State → Prop) : Prop := ∃ t, exec (.mintCommandExecute at_) s = .next t ∧ (after t).queue = rest ∧ (after t).current = none ∧
      (t.slice r).mintPosted = (s.slice r).mintPosted - 1 ∧ (t.slice r).mintFailures = (s.slice r).mintFailures ∧ P t
    let becomes (f : Mint → Mint) : Prop := ends (fun t => kept t ∧ after t = { f m with queue := rest, stalled := none })
    let fails (code : Nat) (addr : Dword) (extra : Nat) : Prop := ∃ t, exec (.mintCommandExecute at_) s = .next t ∧ kept t ∧
      after t = { m with queue := rest, stalled := none, last := code } ∧
      (t.slice r).mintFailures = (s.slice r).mintFailures ++ [⟨0x15, addr, word (code + 256 * extra)⟩]
    let factors (x : Mint) : Mint :=
      let j := factorOf x.beta.toNat x.jsc.toNat
      let k := factorOf x.beta.toNat x.bsc.toNat
      { x with kj := min (2 ^ 31 - 1) j, kb := min (2 ^ 31 - 1) k, satf := x.satf || decide (2 ^ 31 - 1 < j) || decide (2 ^ 31 - 1 < k) }
    let map (a i : Nat) : Bool := g.scr.byte (a + i / 8) |>.getLsbD (i % 8)
    let coins (t : State) (f : Nat → Bool) : Prop := ∀ i, i < 4096 → (after t).coins.getLsbD i = f i
    let clamps (t : State) (f : Nat → Bool) : Prop := ∀ i, i < 4096 → (after t).clamps.getLsbD i = f i
    let others (t : State) : Prop := after t = { m with queue := rest, stalled := none, coins := (after t).coins, clamps := (after t).clamps }
    (∀ x, c.op = .beta x → becomes (fun y => factors { y with beta := x })) ∧
    (∀ a n, c.op = .bias a n → let v (i : Nat) : Nat := g.scr.num (a + 4 * i) 4
      let finite : Prop := ∀ i, i < n → v i % 2 ^ 31 < 0x7F800000
      (∀ i, i < n → 0x7F800000 ≤ v i % 2 ^ 31 → (∀ k, k < i → v k % 2 ^ 31 < 0x7F800000) → fails 6 c.addr i) ∧
      (finite → let scale := scaleOf (((List.range n).map (fun i => v i % 2 ^ 31)).foldl max 0) 32767
        becomes (fun y => factors { y with bsc := word scale, biases := (List.range n).map (fun i => quantise 32767 (v i) scale) }))) ∧
    (∀ a, c.op = .clamp a → (m.clearing = true → fails 9 c.addr 0) ∧ (m.clearing = false → ends (fun t => kept t ∧ others t ∧
      clamps t (fun i => m.clamps.getLsbD i || map a i) ∧ coins t (fun i => if map a i then map (a + 512) i else m.coins.getLsbD i)))) ∧
    (∀ k v, c.op = .clampOne k v → (m.clearing = true → fails 9 c.addr 0) ∧ (m.clearing = false → ends (fun t => kept t ∧ others t ∧
      clamps t (fun i => m.clamps.getLsbD i || i == k) ∧ coins t (fun i => if i = k then v else m.coins.getLsbD i)))) ∧
    (∀ a, c.op = .free a → ends (fun t => kept t ∧ others t ∧ clamps t (fun i => m.clamps.getLsbD i && !map a i) ∧ coins t m.coins.getLsbD)) ∧
    (∀ k, c.op = .freeOne k → ends (fun t => kept t ∧ others t ∧ clamps t (fun i => m.clamps.getLsbD i && i != k) ∧ coins t m.coins.getLsbD)) ∧
    (c.op = .freeAll → becomes (fun y => { y with clamps := 0 })) ∧
    (∀ a, c.op = .stateLoad a → (m.clearing = true → fails 9 c.addr 0) ∧ (m.clearing = false → ends (fun t => kept t ∧ others t ∧ clamps t m.clamps.getLsbD ∧
      coins t (fun i => if i < (match m.image with | some x => x.nc | none => 0) ∧ m.clamps.getLsbD i = false then map a i else m.coins.getLsbD i)))) ∧
    (∀ a, c.op = .stateStore a → ends (fun t => after t = { m with queue := rest, stalled := none } ∧ (∀ o, (t.group c.gid).scr.full o = g.scr.full o) ∧
      (∀ o, (o < a ∨ a + 512 ≤ o) → (t.group c.gid).scr.byte o = g.scr.byte o) ∧ ∀ i, i < 4096 → ((t.group c.gid).scr.byte (a + i / 8)).getLsbD (i % 8) = m.coins.getLsbD i)) ∧
    (∀ a d, c.op = .read a d → (s.slice r).ended = false → ends (fun t => after t = { m with queue := rest, stalled := none, counts := [], scnt := 0 } ∧
      (∀ o, (t.group c.gid).scr.full o = g.scr.full o) ∧ (∀ o, (o < a ∨ a + 8192 ≤ o) → (t.group c.gid).scr.byte o = g.scr.byte o) ∧
      (∀ i, i < 4096 → (t.group c.gid).scr.bytesAt (a + 2 * i) 2 = toBytes 2 (if i < (match m.image with | some x => x.nc | none => 0) then m.counts.getD i 0 else 0)) ∧
      (∀ x i, (t.slice r).reg x i = (c.eff.lanes.foldl (fun y k => y.setLane d k (word m.scnt) none) (s.slice r)).reg x i))) ∧
    (c.op = .reset false → becomes (fun y => { y with asyf := false, satf := false, stalls := 0, last := 0, pc := 0, pn := 0 })) ∧
    (c.op = .reset true → ends (fun t => kept t ∧ after t = { Mint.clear with queue := rest })) ∧
    (∀ n, (c.op = .sweep n ∨ c.op = .pick n) →
      (n = 0 → becomes id) ∧ (n ≠ 0 → m.cpv = false → fails 4 c.addr 0) ∧ (n ≠ 0 → m.cpv = true → m.physical = true → m.asyf = true → fails 2 c.addr 0) ∧
      (n ≠ 0 → m.cpv = true → (m.physical = false ∨ m.asyf = false) → ∃ t, exec (.mintCommandExecute at_) s = .next t ∧ kept t ∧ after t = { m with current := some (c, n) })) ∧
    (∀ wn ws wc a, c.op = .mode wn ws wc a →
      let w (k : Nat) : Nat := g.scr.num (a + k) 4
      let bad : Prop := g.scr.num (a + 0x18) 8 ≠ 0 ∨ wn = true ∧ w 0 / 2 ≠ 0 ∨ wc = true ∧ w 4 / 32 ≠ 0 ∨ ws = true ∧ m.clearing = true ∧ wc = false
      let refused : Prop := wn = true ∧ w 0 % 2 = 1 ∧ m.asyf = true
      let noise (y : Mint) : Mint := if wn then { y with physical := w 0 % 2 == 1, key := dword (g.scr.num (a + 8) 8), pc := 0, pn := 0 } else y
      let swept (y : Mint) : Mint := if ws then { y with sweep := word (w 0x10) } else y
      (bad → fails 8 c.addr 0) ∧ (¬ bad → refused → fails 2 c.addr 0) ∧
      (¬ bad → ¬ refused → wc = false → becomes (fun y => swept (noise y))) ∧
      (¬ bad → ¬ refused → wc = true → w 4 / 16 % 2 = 0 → (∀ p ∈ m.subs, ¬ (p.1 = at_.die ∧ p.2.1 = at_.core)) → ends (fun t => kept t ∧ after t =
        { swept (noise m) with queue := rest, stalled := none, clearing := false, staleness := w 4 % 16, tmo := w 0x14, subs := [], received := [], firstLabels := [], epochs := [], started := none })) ∧
      (¬ bad → ¬ refused → wc = true → w 4 / 16 % 2 = 1 → m.table = [] → (∀ p ∈ m.subs, ¬ (p.1 = at_.die ∧ p.2.1 = at_.core)) → ends (fun t => kept t ∧ after t =
        { swept (noise m) with queue := rest, stalled := none, clearing := true, staleness := w 4 % 16, tmo := w 0x14, epoch := if m.clearing then m.epoch + 1 else m.epoch, subs := [], received := [], firstLabels := [], epochs := [], started := none })) ∧
      (¬ bad → ¬ refused → wc = true → w 4 / 16 % 2 = 1 → m.table ≠ [] → (∀ p ∈ m.subs, ¬ (p.1 = at_.die ∧ p.2.1 = at_.core)) → ∃ t, exec (.mintCommandExecute at_) s = .next t ∧ kept t ∧
        (∃ w : ModeWrite, w.clearing = some (true, g.scr.num (a + 4) 4 % 16, g.scr.num (a + 0x14) 4) ∧ w.sweep = (if ws then some (word (g.scr.num (a + 0x10) 4)) else none) ∧
          w.noise = (if wn then some (g.scr.num a 4 % 2 == 1, dword (g.scr.num (a + 8) 8)) else none) ∧
          after t = { m with subs := publishersOf m.table, received := [], firstLabels := [], epochs := [], started := none, stalled := none, joining := some ⟨c, .inr w, false⟩ }) ∧
        (∀ p ∈ (after t).subs, ∃ q ∈ t.clearPackets, q.label = none ∧ q.fromDie = at_.die ∧ q.fromCore = at_.core ∧ q.toDie = p.1 ∧ q.toCore = p.2.1 ∧ q.coins = p.2.2))) ∧
    (∀ a u hd, c.op = .cpl a → s.imageBytes at_ g.part (s.unitIdOf g) a 16 = (u, .inl hd) → hd.length = 16 → (u.core at_).mint = m → (u.group c.gid).slices.length = g.slices.length →
      let w0 := fromBytes (hd.take 8)
      let ncol := w0 / 2 ^ 28 % 8 + 1
      let nb := w0 / 2 ^ 24 % 16
      let nl := w0 / 2 ^ 16 % 2 ^ 8
      let nc := w0 % 2 ^ 16
      let nt := w0 / 2 ^ 32 % 2 ^ 9
      let header : Prop := w0 / 2 ^ 31 % 2 = 0 ∧ w0 / 2 ^ 41 = 0 ∧ nb ≤ 8 ∧ nl ≤ 32 ∧ 1 ≤ nc ∧ nc ≤ 4096 ∧ nt ≤ 256
      let invalid (v : State) (x : Dword) : Prop := ∃ t, exec (.mintCommandExecute at_) s = .next t ∧
        after t = { m with coupling := none, tag := none, cpv := false, queue := rest, stalled := none, last := 3 } ∧
        (t.slice r).mintFailures = (v.slice r).mintFailures ++ [⟨0x15, x, 3⟩]
      let L := 2 + (nc + 7) / 8
      let T := L + nc * nl
      let B := T + nt
      let E := B + nc * nb
      (¬ header → invalid u a) ∧
      ∀ v bs, header → u.imageBytes at_ g.part (s.unitIdOf g) a (8 * E) = (v, .inl bs) → bs.length = 8 * E → fromBytes (bs.take 8) = w0 →
        (v.core at_).mint = m → (v.group c.gid).slices.length = g.slices.length →
        let w (k : Nat) : Nat := fromBytes ((bs.drop (8 * k)).take 8)
        let mag (k : Nat) : Nat := w k % 2 ^ 31
        let colour (i : Nat) : Nat := w (2 + i / 8) / 2 ^ (8 * (i % 8)) % 2 ^ 8
        let dies : BitVec 8 := match v.part? g.part with | some p => p.dies | none => 0
        let bad (k : Nat) : Prop :=
          k = 1 ∧ w k ≠ 0 ∨
          2 ≤ k ∧ k < L ∧ (∃ i, i / 8 = k - 2 ∧ i < nc ∧ ncol ≤ colour i) ∨
          L ≤ k ∧ k < T ∧ mag k ≠ 0 ∧ (0x7F800000 ≤ mag k ∨ w k / 2 ^ 44 ≠ 0 ∨ nc ≤ w k / 2 ^ 32 % 2 ^ 12 ∨ w k / 2 ^ 32 % 2 ^ 12 = (k - L) / nl) ∨
          T ≤ k ∧ k < B ∧ (w k / 2 ^ 12 % 16 ≠ 0 ∨ w k / 2 ^ 23 % 2 = 1 ∨ w k / 2 ^ 27 ≠ 0 ∨ 95 < w k / 2 ^ 16 % 2 ^ 7 ∨ dies.getLsbD (w k / 2 ^ 24 % 8) = false ∨
            w k / 2 ^ 16 % 2 ^ 7 = at_.core ∧ w k / 2 ^ 24 % 8 = at_.die) ∨
          B ≤ k ∧ k < E ∧ mag k ≠ 0 ∧ (0x7F800000 ≤ mag k ∨ w k / 2 ^ 40 ≠ 0 ∨ nt ≤ w k / 2 ^ 32 % 2 ^ 8)
        (∀ k, bad k → (∀ j, j < k → ¬ bad j) → invalid v (a + dword (8 * k))) ∧
        ((∀ k, ¬ bad k) → m.clearing = false →
          let mx := (((List.range (nc * nl)).map (fun k => mag (L + k))) ++ (List.range (nc * nb)).map (fun k => mag (B + k))).foldl max 0
          let jsc := (fmtF32.round .rne (Machine.Num.div (fmtF32.decode mx) (Machine.Num.ofInt 127)).num).bits
          let q (k : Nat) : Int :=
            if jsc = 0 then 0
            else
              match (Machine.Num.div (fmtF32.decode (mag k)) (fmtF32.decode jsc)).num with
              | .fin _ x e => let n := min 127 (roundUnit .rne false x e 0).1; if w k / 2 ^ 31 % 2 = 1 then -(n : Int) else (n : Int)
              | _ => 0
          let slot (n k : Nat) : Int × Nat := if mag k = 0 then (0, 0) else (q k, w k / 2 ^ 32 % n)
          let table := (List.range nt).map (fun j => (w (T + j) / 2 ^ 24 % 8, w (T + j) / 2 ^ 16 % 2 ^ 7, w (T + j) % 2 ^ 12))
          ∃ t, exec (.mintCommandExecute at_) s = .next t ∧
            after t = { factors { m with
                colours := (List.range nc).map (fun i => colour i % 8)
                coupling := some ⟨(List.range nc).map (fun i => (List.range nl).map (fun k => slot (2 ^ 12) (L + i * nl + k))),
                  (List.range nc).map (fun i => (List.range nb).map (fun k => slot (2 ^ 8) (B + i * nb + k)))⟩
                tag := some g.part
                table := table
                image := some ⟨a, g.part, nc, nl, nb, nt, ncol⟩
                jsc := word jsc
                cpv := true } with
              queue := rest
              stalled := none })) ∧
    (∀ a v, c.op = .cpl a → (v.core at_).mint = m → (v.group c.gid).slices.length = g.slices.length →
      (∀ x e, s.readImage at_ g.part (s.unitIdOf g) a = (v, e) → (e = .poisoned x ∨ e = .stopped x .unresolvable ∨ ∃ code, e = .stopped x (.denied code)) →
        ∃ t, exec (.mintCommandExecute at_) s = .next t ∧
          after t = { m with coupling := none, tag := none, cpv := false, queue := rest, stalled := none, last := 5 } ∧
          (t.slice r).mintFailures = (v.slice r).mintFailures ++ [⟨0x15, x, 5⟩]) ∧
      (∀ x seq, s.readImage at_ g.part (s.unitIdOf g) a = (v, .stopped x (.fault seq)) → ∃ t, exec (.mintCommandExecute at_) s = .next t ∧ after t = { m with block := some (.fault seq) }))

/-- R272, R273, R275, R276, R283 to R285, R287, R415: a sweep updates the free coins below NC class by class from the states at the start of the phase, a step flips the coin that its draw selects, each then updates the probes, counts the coins at +1, advances SWEEP and is published; a stall is counted once, and a poisoned coin group ends the command with code 5. In replay mode a coin becomes 1 where its draw of the keyed stream lies below S(X), and the assayer stands still. In physical mode the samples of the probes join the assayer's window, which is judged when it is full: a biased one sets ASYF and fails the command with code 1, its last sweep counted and published. A physical draw is a free value of the model (log 12), whose probabilities R274 gives and no statement claims. -/
def Obligations.MintSweeps : Prop :=
  ∀ (s : State) (at_ : CoreRef) (c : MintCommand) (left : Nat) (rest : List MintCommand), at_.die < 8 → at_.core < 96 →
    let m := (s.core at_).mint
    let after (t : State) : Mint := (t.core at_).mint
    m.current = some (c, left) → m.queue = c :: rest → m.stale = false →
    let nc := match m.image with | some x => x.nc | none => 0
    let ncol := match m.image with | some x => x.ncol | none => 0
    let draw (i : Nat) : Dword := mix64 (m.key + 0x9E3779B97F4A7C15 * dword (m.sweep.toNat * 2 ^ 13 + i + 1))
    let failed (t : State) (code : Nat) (addr : Dword) (extra : Nat) : Prop := (after t).current = none ∧ (after t).queue = rest ∧ (after t).last = code ∧
      (c.idx < (s.group c.gid).slices.length →
        (t.slice ⟨c.gid, c.idx⟩).mintFailures = (s.slice ⟨c.gid, c.idx⟩).mintFailures ++ [⟨0x15, addr, word (code + 2 ^ 8 * extra)⟩])
    let does (e : Instr) (isIt : Prop) (coins : (Nat → Int → Bool) → Nat → Couplings → State → Prop) : Prop := isIt →
      (m.poisoned ≠ [] → ∃ t, exec e s = .next t ∧ (after t).coins = m.coins ∧ (after t).sweep = m.sweep ∧ failed t 5 0 0) ∧
      (∀ x, m.poisoned = [] → s.mintStall at_ = some x → ∃ t, exec e s = .next t ∧ after t =
        match m.stalled with | some _ => m | none => { m with stalled := some 0, stalls := min 4095 (m.stalls + 1) }) ∧
      (∀ cp, m.poisoned = [] → s.mintStall at_ = none → m.coupling = some cp → nc ≤ 4096 → ∃ t update d, exec e s = .next t ∧
        (m.physical = false → (∀ i x, update i x = decide ((draw i).toNat / 2 ^ 48 < sigmoid16 x)) ∧ d = (draw 4160).toNat) ∧ d < 2 ^ 64 ∧
        coins update d cp t ∧ (after t).sweep = m.sweep + 1 ∧ (after t).scnt = min (2 ^ 32 - 1) (m.scnt + 1) ∧ (after t).clamps = m.clamps ∧
        (∀ i, i < 4096 → (after t).counts.getD i 0 =
          if i < nc ∧ (after t).coins.getLsbD i = true then min 65535 (m.counts.getD i 0 + 1) else m.counts.getD i 0) ∧
        (m.clearing = false → t.clearPackets = s.clearPackets) ∧
        (m.clearing = true → t.clearPackets = s.clearPackets ++ m.served.map (fun x =>
          { fromDie := at_.die, fromCore := at_.core, toDie := x.die, toCore := x.core, label := some (m.sweep + 1), coins := x.coins,
            states := x.coins.map (after t).coins.getLsbD, first := false, epoch := m.epoch, heldBy := none })) ∧
        let pc := m.pc + (List.range 64).countP (fun p => (after t).probes.getLsbD p)
        let judged : Prop := m.physical = true ∧ 65536 ≤ m.pn + 64
        let biased : Prop := judged ∧ (656 ≤ (pc : Int) - 32768 ∨ (pc : Int) - 32768 ≤ -656)
        (m.physical = false → (after t).pc = m.pc ∧ (after t).pn = m.pn) ∧
        (m.physical = true → ¬ judged → (after t).pc = pc ∧ (after t).pn = m.pn + 64) ∧
        (judged → (after t).pc = 0 ∧ (after t).pn = 0) ∧
        (¬ biased → (after t).asyf = m.asyf ∧
          if left ≤ 1 then (after t).current = none ∧ (after t).queue = rest else (after t).current = some (c, left - 1) ∧ (after t).queue = m.queue) ∧
        (biased → (after t).asyf = true ∧ failed t 1 c.addr pc))
    let sigma (b : Bool) : Int := if b then 1 else -1
    let field (cp : Couplings) (snap : BitVec 4096) (i : Nat) : Int :=
      let near : Int := ((cp.locals_.getD i []).map (fun (x : Int × Nat) => x.1 * sigma (snap.getLsbD x.2) * m.kj)).sum
      let far : Int := ((cp.bounds.getD i []).map (fun (x : Int × Nat) => x.1 * sigma (m.remote x.2) * m.kj)).sum
      max (-32768) (min 32767 ((m.biases.getD i 0 * m.kb + near + far + 128).fdiv 256))
    let free (i : Nat) : Bool := decide (i < nc) && !m.clamps.getLsbD i
    let probes (update : Nat → Int → Bool) (t : State) : Prop := ∀ p, p < 64 → (after t).probes.getLsbD p = update (4096 + p) 0
    sigmoid16 0 = 2 ^ 15 ∧
    does (.mintSweep at_) (∃ n, c.op = .sweep n) (fun update _ cp t => (ncol ≠ 0 → probes update t) ∧ ∃ f : Nat → BitVec 4096, f 0 = m.coins ∧ f ncol = (after t).coins ∧
      ∀ k i, k < ncol → i < 4096 → (f (k + 1)).getLsbD i =
        if free i = true ∧ m.colours.getD i 0 = k then update i (field cp (f k) i) else (f k).getLsbD i) ∧
    does (.mintPickStep at_) (∃ n, c.op = .pick n) (fun update d cp t => probes update t ∧
      let w (i : Nat) : Nat := if free i then flipWeight (-2 * sigma (m.coins.getLsbD i) * field cp m.coins i) else 0
      let upTo (k : Nat) : Nat := ((List.range k).map w).sum
      let rnd := d / 2 ^ 32 * upTo nc / 2 ^ 32
      (upTo nc = 0 → (after t).coins = m.coins) ∧
      (∀ k, k < nc → rnd < upTo (k + 1) → upTo k ≤ rnd → ∀ i, i < 4096 → (after t).coins.getLsbD i = (m.coins.getLsbD i != (i == k))))

/-- R287, R288, R408 to R410, R464: a publication that reaches a subscribed Mint is kept under its label, and its states as the last received; a subscription that reaches its publisher is served at once while that is clearing, and refused where the publisher serves 32 others; a stall of TMO cycles fails the command with the missing label. Which label counts as the first, that a mode is written once its subscriptions have been taken, and the subscriptions' place in the queue (log 87), and the order of restarts and stalls (log 36), are the model's choices. -/
def Obligations.Clearing : Prop :=
  (∀ (s : State) (k : Nat) (p : ClearPacket) (label : Word), (s.clearPackets.drop k).head? = some p → p.label = some label → p.toDie < 8 → p.toCore < 96 →
    (p.heldBy ≠ none → exec (.labelArrival k) s = .next s) ∧
    (p.heldBy = none → ∃ t, exec (.labelArrival k) s = .next t ∧ t.clearPackets = s.clearPackets.eraseIdx k ∧
      let m := (s.core ⟨p.toDie, p.toCore⟩).mint
      let n := (t.core ⟨p.toDie, p.toCore⟩).mint
      let subscribed : Prop := (m.clearing = true ∨ ∃ j w, m.joining = some j ∧ j.does = .inr w) ∧ ∃ x ∈ m.subs, x.1 = p.fromDie ∧ x.2.1 = p.fromCore
      (¬ subscribed → n = m) ∧
      (subscribed → (m.epochs.find? (fun x => x.1 == p.fromDie && x.2.1 == p.fromCore)).map (fun x => x.2.2) ≠ some p.epoch →
        n.received.filter (fun x => x.die == p.fromDie && x.core == p.fromCore) = [⟨p.fromDie, p.fromCore, label, p.coins.zip p.states⟩] ∨ m.started ≠ none) ∧
      (subscribed → m.started = none → (m.epochs.find? (fun x => x.1 == p.fromDie && x.2.1 == p.fromCore)).map (fun x => x.2.2) = some p.epoch →
        n.received = m.received ++ [⟨p.fromDie, p.fromCore, label, p.coins.zip p.states⟩] ∧
        (m.firstLabel p.fromDie p.fromCore = none → n.firstLabel p.fromDie p.fromCore = if p.first then some label else none) ∧ n.coins = m.coins ∧
        (m.clearing = true → ∀ x ∈ p.coins.zip p.states, (p.fromDie, p.fromCore, x.1, x.2) ∈ n.lastStates)))) ∧
  (∀ (s : State) (k : Nat) (p : ClearPacket), (s.clearPackets.drop k).head? = some p → p.label = none → p.toDie < 8 → p.toCore < 96 → p.fromDie < 8 → p.fromCore < 96 →
    let pub : CoreRef := ⟨p.toDie, p.toCore⟩
    let sub : CoreRef := ⟨p.fromDie, p.fromCore⟩
    let others := (s.core pub).mint.served.filter (fun x => !(x.die == sub.die && x.core == sub.core))
    (p.heldBy ≠ none → exec (.subscription k) s = .next s) ∧
    (p.heldBy = none → sub ≠ pub → others.length < 32 → ∃ t, exec (.subscription k) s = .next t ∧ (t.core pub).mint.served = others ++ [⟨sub.die, sub.core, p.coins⟩] ∧
      ((s.core pub).mint.clearing = true → ∃ q ∈ t.clearPackets, q.toDie = sub.die ∧ q.toCore = sub.core ∧ q.label = some (s.core pub).mint.sweep ∧
        q.states = p.coins.map (s.core pub).mint.coins.getLsbD) ∧
      ∀ j w, (s.core sub).mint.joining = some j → j.does = .inr w → j.refused = false →
        (s.clearPackets.eraseIdx k).all (fun q => !(q.label.isNone && q.fromDie == sub.die && q.fromCore == sub.core)) = true →
        let m := (s.core sub).mint
        let n := (t.core sub).mint
        n.joining = none ∧ n.queue = m.queue.drop 1 ∧ n.sweep = w.sweep.getD m.sweep ∧ (∀ x, w.clearing = some x → n.clearing = x.1 ∧ n.staleness = x.2.1 ∧ n.tmo = x.2.2) ∧
        (∀ x, w.noise = some x → n.physical = x.1 ∧ n.key = x.2)) ∧
    (p.heldBy = none → sub ≠ pub → 32 ≤ others.length → ∃ t, exec (.subscription k) s = .next t ∧ (t.core pub).mint.served = (s.core pub).mint.served ∧
      ∀ j, (s.core sub).mint.joining = some j →
        (s.clearPackets.eraseIdx k).all (fun q => !(q.label.isNone && q.fromDie == sub.die && q.fromCore == sub.core)) = true →
        let m := (s.core sub).mint
        let n := (t.core sub).mint
        n.clearing = m.clearing ∧ n.staleness = m.staleness ∧ n.tmo = m.tmo ∧ n.sweep = m.sweep ∧ n.physical = m.physical ∧ n.key = m.key ∧ n.subs = m.subs ∧
        (∀ x, j.does = .inl x → n.cpv = false ∧ n.coupling = none) ∧
        (j.cmd.idx < (s.group j.cmd.gid).slices.length →
          (t.slice ⟨j.cmd.gid, j.cmd.idx⟩).mintFailures = (s.slice ⟨j.cmd.gid, j.cmd.idx⟩).mintFailures ++ [⟨0x15, j.cmd.addr, 7⟩]))) ∧
  (∀ (s : State) (at_ : CoreRef) (c : MintCommand) (left n : Nat) (x : Word × Nat × Nat), at_.die < 8 → at_.core < 96 → let m := (s.core at_).mint
    m.stalled = some n → m.current = some (c, left) → s.mintStall at_ = some x → c.idx < (s.group c.gid).slices.length →
    (m.tmo = 0 ∨ n < m.tmo → exec (.clearingTimeout at_) s = .next s) ∧
    (m.tmo ≠ 0 → m.tmo ≤ n → ∃ t, exec (.clearingTimeout at_) s = .next t ∧ (t.core at_).mint = { m with queue := m.queue.drop 1, current := none, block := none, stalled := none, last := 0x40 } ∧
      (t.slice ⟨c.gid, c.idx⟩).mintFailures = (s.slice ⟨c.gid, c.idx⟩).mintFailures ++
        [⟨0x16, c.addr, word (x.1.toNat % 2 ^ 16 * 2 ^ 16 + x.2.1 * 2 ^ 13 + x.2.2 * 2 ^ 6)⟩]))

/-! ### Atomics and transactions of a die -/

/-- R314, R315, R317, R318, R321, R322: each lane of an atomic, in ascending order, reads its word, writes what the operation makes of it and, in a returning form, sends what the rule says to its destination; the first check that some lane fails traps, an empty routine slot last. A routine body of ATOMP is accepted exactly as R321 lists, each of its instructions acts on the run's registers and line, and a run of an accepted body ends within 16 of them. -/
def Obligations.AtomicInstructions : Prop :=
  let f (c : Ctx) (hi lo : Nat) : Nat := WForm.field c.g.w hi lo
  let n (c : Ctx) : Nat := if f c 56 54 = 2 ∨ f c 56 54 = 3 then 2 else 1
  let gives (acc : Ctx → Slice → Access) (new : Ctx → State → Dword → List Byte → BitVec 128 → BitVec 128 → List Byte × Nat) (c : Ctx) (s u : State) : Prop :=
    let a := acc c (s.slice c.ref)
    ∃ v p, a.Reaches c (if a.returns then s.emptied c a else s) v p ∧ v.slotMissing c.ref a = false ∧ (∀ i ∈ a.todo, v.poisonPlace (p i) a.size = none) ∧
      u = (a.todo.foldl (fun x i =>
        let at_ : Place × Nat := match a.op, p i with | .routine _, .glb pa => (.glb (pa / 128 * 128), 128) | .routine _, q => (q, 128) | _, q => (q, a.size)
        let was := x.readPlace at_.1 at_.2
        let r := new c x (a.ea.get i) was (a.b.get i) (a.c.get i)
        let y := x.writeAtomic (some c.ref) (x.group c.ref.gid).coreRef (match a.op with | .routine _ => true | _ => false) at_.1 was r.1
        (if a.returns then y.owing c.ref a i ((List.range a.regs).map (fun k => word (r.2 / 2 ^ (32 * k)))) none else y).unparkLane c.ref i) v).finishAccess c.ref a
  let atom (c : Ctx) (_ : State) (_ : Dword) (was : List Byte) (b k : BitVec 128) : List Byte × Nat :=
    let w := 32 * n c
    let o := fromBytes was
    let old := BitVec.ofNat w o
    let v := BitVec.ofNat w b.toNat
    let less : Bool := if f c 56 54 = 0 ∨ f c 56 54 = 2 then v.slt old else v.ult old
    let new : BitVec w :=
      match f c 53 50 with
      | 0 => if f c 56 54 = 4 then BitVec.ofNat w (fmtF32.round .rne (Machine.Num.add .rne (fmtF32.decode o) (fmtF32.decode v.toNat)).num).bits else old + v
      | 1 => if less then v else old
      | 2 => if less then old else v
      | 3 => old &&& v
      | 4 => old ||| v
      | 5 => old ^^^ v
      | 6 => v
      | _ => if old = BitVec.ofNat w k.toNat then v else old
    (toBytes was.length new.toNat, o)
  let word64 (g : Dword → Dword → Dword → Dword × Nat) (_ : Ctx) (_ : State) (_ : Dword) (was : List Byte) (b k : BitVec 128) : List Byte × Nat :=
    let r := g (dword (fromBytes was)) (b.extractLsb' 0 64) (k.extractLsb' 0 64)
    (toBytes was.length r.1.toNat, r.2)
  let ones (x : Dword) : Nat := (List.range 64).countP (fun i => x.getLsbD i)
  let acc (returns : Bool) (c : Ctx) (sl : Slice) : Access := atomAccess (.atom (f c 53 50) (f c 56 54)) returns (4 * n c) (n c) (n c) (n c) (f c 59 57) c sl
  let bits (op : AccessOp) (dn bn cn : Nat) (c : Ctx) (sl : Slice) : Access := atomAccess op true 8 dn bn cn (f c 52 50) c sl
  let routine (c : Ctx) (sl : Slice) : Access := atomAccess (.routine (f c 53 50)) true 1 2 2 2 0 c sl
  let wide (c : Ctx) (sl : Slice) : Access := atomAccess .atomw true 16 4 4 4 0 c sl
  let each (op : Nat) (i : List Prefix → WForm → Instr) (a : Ctx → Slice → Access) (align : Ctx → Nat)
      (new : Ctx → State → Dword → List Byte → BitVec 128 → BitVec 128 → List Byte × Nat) : Prop :=
    EachW op i (Goes (gives a new)) ∧
    EachW op i (fun i s who cs => ∀ c, cs = [c] →
      let g := s.group c.ref.gid
      let x := a c (s.slice c.ref)
      let s0 := s.closing c.g [c]
      let s1 := if x.returns then s0.emptied c x else s0
      let size : Nat := match x.space with | .glb => 0 | .scr => 4096 * g.pages | .cls => 2 ^ 20 | .chp => 2 ^ 25 | .lane => 2 ^ 8
      let bad (t : Dword → Bool) : Mask := c.eff &&& Mask.ofFn (fun i => t (x.ea.get i))
      let out := if x.space = .glb then 0 else bad (fun ea => decide (size < ea.toNat + x.size))
      let far := if x.space = .glb then bad (fun ea => !canonical ea) else 0
      let off := bad (fun ea => decide (ea.toNat % align c ≠ 0))
      let lowest (m : Mask) : Dword := x.ea.get (m.lanes.headD 0)
      (out ≠ 0 → Traps i s who c s0 ⟨0x0A, lowest out, out, word x.space.code⟩) ∧
      (out = 0 → far ≠ 0 → Traps i s who c s0 ⟨0x09, lowest far, far, 1⟩) ∧
      (out = 0 → far = 0 → off ≠ 0 → Traps i s who c s0 ⟨0x07, lowest off, off, word (align c)⟩) ∧
      (∀ v xs j code, out = 0 → far = 0 → off = 0 → x.todo = [j] → s1.spots c.ref x none false [j] = (v, [(j, xs)]) →
        (xs = .denied code → Traps i s who c (v.dropAccess c.ref x) ⟨0x09, x.ea.get j, Mask.one j, word code⟩) ∧
        (∀ seq, xs = .fault seq → v.slotMissing c.ref x = false → Parks i s who c v (.access (x.setLane j (.faulted seq))))))
  each 0xC0 .atom (acc true) (fun c => 4 * n c) atom ∧ each 0xC1 .atomr (acc false) (fun c => 4 * n c) atom ∧
  each 0xC2 .atomp routine (fun _ => 1) (fun c x ea was b k =>
    let r := routineOnLine ((x.routine (x.group c.ref.gid).part (f c 53 50)).getD []) was ea (b.extractLsb' 0 64) (k.extractLsb' 0 64)
    (r.1, r.2.toNat)) ∧
  each 0xC3 .bfins (bits .bfins 2 2 2) (fun _ => 8) (word64 (fun o b k => ((o &&& ~~~k) ||| (b &&& k), o.toNat))) ∧
  each 0xC4 .bffcs (bits .bffcs 1 1 1) (fun _ => 8) (word64 (fun o _ _ =>
    match (List.range 64).find? (fun i => !o.getLsbD i) with | some j => (o ||| ((1 : Dword) <<< j), j) | none => (o, 64))) ∧
  each 0xC5 .bfpls (bits .bfpls 1 2 1) (fun _ => 8) (word64 (fun o b k =>
    if ones (o ||| b) ≤ min (k.toNat % 2 ^ 32) 64 then (o ||| b, 2 ^ 31 + ones (o ||| b)) else (o, ones o))) ∧
  each 0xC9 .atomw wide (fun _ => 16) (fun _ _ _ was b k => (toBytes was.length (if fromBytes was = b.toNat then k.toNat else fromBytes was), fromBytes was)) ∧
  EachW 0xC2 .atomp (fun i s who cs => ∀ c v p, cs = [c] → let a := routine c (s.slice c.ref)
    a.Reaches c ((s.closing c.g [c]).emptied c a) v p → v.slotMissing c.ref a = true →
      Traps i s who c (v.dropAccess c.ref a) ⟨0x09, a.ea.get (c.eff.lanes.headD 0), c.eff, 8⟩) ∧
  (let op (w : Word) : Nat := w.toNat % 2 ^ 7
   let f3 (w : Word) : Nat := w.toNat / 2 ^ 12 % 8
   let f7 (w : Word) : Nat := w.toNat / 2 ^ 25
   let ahead (w : Word) : Nat := w.toNat / 2 ^ 7 % 2 * 2 ^ 11 + w.toNat / 2 ^ 25 % 2 ^ 6 * 2 ^ 5 + w.toNat / 2 ^ 8 % 2 ^ 4 * 2
   let takes (n k : Nat) (w : Word) : Prop :=
     op w = 0x33 ∧ (f7 w = 0 ∨ f7 w = 0x20 ∧ (f3 w = 0 ∨ f3 w = 5)) ∨
     op w = 0x13 ∧ (f3 w ≠ 1 ∧ f3 w ≠ 5 ∨ f7 w = 0 ∨ f7 w = 0x20 ∧ f3 w = 5) ∨
     op w = 0x37 ∨
     op w = 0x63 ∧ f3 w ≠ 2 ∧ f3 w ≠ 3 ∧ w.toNat / 2 ^ 31 = 0 ∧ ahead w % 4 = 0 ∧ ahead w ≠ 0 ∧ k + ahead w / 4 ≤ n ∨
     op w = 0x03 ∧ f3 w ∈ [0, 1, 2, 4, 5] ∨
     op w = 0x23 ∧ f3 w ≤ 2
   (∀ body : List Word, routineAccepted body = true ↔ 1 ≤ body.length ∧ body.length ≤ 16 ∧ ∀ k w, body[k]? = some w → takes body.length k w) ∧
   (∀ (r : RoutineRun) (w : Word), r.line.length = 128 →
     let rs2 := w.toNat / 2 ^ 20 % 32
     let x : Word := if w.toNat / 2 ^ 15 % 32 = 0 then 0 else r.regs.getD (w.toNat / 2 ^ 15 % 32) 0
     let y : Word := if rs2 = 0 then 0 else r.regs.getD rs2 0
     let immI : Word := (w.extractLsb' 20 12).signExtend 32
     let immS : Word := (w.extractLsb' 25 7 ++ w.extractLsb' 7 5).signExtend 32
     let alu (alt : Bool) (y : Word) : Word :=
       match f3 w with
       | 0 => if alt then x - y else x + y
       | 1 => x <<< (y.toNat % 32)
       | 2 => if x.slt y then 1 else 0
       | 3 => if x.ult y then 1 else 0
       | 4 => x ^^^ y
       | 5 => if alt then x.sshiftRight (y.toNat % 32) else x >>> (y.toNat % 32)
       | 6 => x ||| y
       | _ => x &&& y
     let taken : Bool := match f3 w with | 0 => x == y | 1 => x != y | 4 => x.slt y | 5 => y.sle x | 6 => x.ult y | _ => y.ule x
     let size := 2 ^ (f3 w % 4)
     let place (imm : Word) : Nat := (x + imm).toNat % 128 / size * size
     let loaded : Nat := fromBytes ((r.line.drop (place immI)).take size)
     let puts (v : Word) : Prop := r.exec w = { r with regs := r.regs.set (w.toNat / 2 ^ 7 % 32) v, pc := r.pc + 1 }
     (op w = 0x33 → puts (alu (f7 w == 0x20) y)) ∧
     (op w = 0x13 → f3 w ≠ 1 → f3 w ≠ 5 → puts (alu false immI)) ∧
     (op w = 0x13 → (f3 w = 1 ∨ f3 w = 5) → puts (alu (f3 w == 5 && f7 w == 0x20) (word rs2))) ∧
     (op w = 0x37 → puts (word (w.toNat / 2 ^ 12 * 2 ^ 12))) ∧
     (op w = 0x63 → f3 w ≠ 2 → f3 w ≠ 3 → r.exec w = { r with pc := r.pc + if taken then ahead w / 4 else 1 }) ∧
     (op w = 0x03 → f3 w ∈ [0, 1, 2, 4, 5] →
       puts (match f3 w with | 0 => (BitVec.ofNat 8 loaded).signExtend 32 | 1 => (BitVec.ofNat 16 loaded).signExtend 32 | _ => word loaded)) ∧
     (op w = 0x23 → f3 w ≤ 2 → ∃ l, r.exec w = { r with line := l, pc := r.pc + 1 } ∧ l.length = 128 ∧
       ∀ o, o < 128 → l.getD o 0 = if place immS ≤ o ∧ o < place immS + size then y.extractLsb' (8 * (o - place immS)) 8 else r.line.getD o 0)) ∧
   (∀ (body : List Word) (line : List Byte) (va b c : Dword), routineAccepted body = true → line.length = 128 →
     ∃ (k : Nat) (runs : Nat → RoutineRun), k ≤ 16 ∧ (runs 0).line = line ∧ (runs 0).pc = 0 ∧ (runs 0).regs.length = 32 ∧
       (∀ i, i < 32 → (runs 0).reg i =
         match i with
         | 10 => b.extractLsb' 0 32 | 11 => b.extractLsb' 32 32 | 12 => c.extractLsb' 0 32 | 13 => c.extractLsb' 32 32
         | 14 => word (va.toNat % 128) | 15 => word (va.toNat / 128 * 128) | _ => 0) ∧
       (∀ j, j < k → ∃ w, body[(runs j).pc]? = some w ∧ runs (j + 1) = (runs j).exec w) ∧ body.length ≤ (runs k).pc ∧ (runs k).line.length = 128 ∧
       routineOnLine body line va b c = ((runs k).line, joinWords ((runs k).reg 10) ((runs k).reg 11))))

/-- R323, R325 to R327: TXB opens a transaction, or aborts an open one and traps; TXC asks the commit unit of the home die of its set and waits; TXA aborts with its code; TXC and TXA without one trap. The commit unit, for the lowest waiting slice of a subgang first, writes a write set that has met no conflict and the slice goes on, or aborts it; an abort discards the write set, restores the mask stack, the active mask and FMT, and goes on at the abort address once no register is owed a value, or takes the trap that its misuse brings then. XADDR of these traps is a free value (log 15), and XMASK the effective mask by the model's reading (log 71). -/
def Obligations.Transactions : Prop :=
  let home (s : State) (die : Nat) (t : Transaction) : Nat := match t.lines with | l :: _ => s.homeDie (l.1 * 128) | [] => die
  let status (reason code lines : Nat) : Word := word (reason * 2 ^ 24 + code % 2 ^ 8 * 2 ^ 16 + lines % 16 * 2 ^ 8)
  let idle (sl : Slice) : Prop := sl.owed = [] ∧ (∀ x ∈ sl.v, x.full = 15) ∧ ∀ x ∈ sl.s.cells, x.full = true
  let aborted (sl : Slice) (t : Transaction) (reason code : Nat) (then_ : Option (Dword × Trap)) (x : Slice) : Prop :=
    x.tx = none ∧ x.active = t.active ∧ x.fmt = t.fmt ∧ x.pc = t.abortPc ∧ x.txstat = status reason code t.lines.length ∧ x.v = sl.v ∧ x.s = sl.s ∧ x.xf = sl.xf ∧
    x.rng = sl.rng ∧ (t.depth ≤ sl.depth → (sl.spilled = 0 ∨ sl.stack.length = 32) → x.depth = t.depth) ∧
    (idle sl → x.wait = none) ∧ (¬ idle sl → x.wait = some (.abortDrain then_))
  EachW 0xC6 .txb (Goes (fun c s u => (s.slice c.ref).tx = none ∧ u = s.modSlice c.ref (fun sl =>
    { sl with
      tx := some { abortPc := c.target, depth := sl.depth, active := sl.active, fmt := sl.fmt, lines := [], reads := [], buffer := [], poisoned := [], conflict := false }
      txstat := sl.txstat ||| 0x80000000 }))) ∧
  EachW 0xC6 .txb (fun i s who cs => ∀ c t, cs = [c] → (s.slice c.ref).tx = some t → ∃ x,
    (idle (s.slice c.ref) → exec i s = .next ((((s.closing c.g [c]).modSlice c.ref (fun sl => { sl.abortTx 9 0 with wait := none })).takeTrap c.ref c.g.addr ⟨0x17, x, c.eff, 1⟩).divide who.gid who.gang)) ∧
    (¬ idle (s.slice c.ref) → ∃ u, exec i s = .next u ∧ aborted (s.slice c.ref) t 9 0 (some (c.g.addr, ⟨0x17, x, c.eff, 1⟩)) (u.slice c.ref))) ∧
  (∀ (s : State) (r : SliceRef) (w : Option (Dword × Trap)), (s.slice r).wait = some (.abortDrain w) →
    (¬ idle (s.slice r) → s.tryWait r = s) ∧ (∀ a t, idle (s.slice r) → w = some (a, t) → s.tryWait r = s.resume r a a (.trap t)) ∧
    (idle (s.slice r) → w = none → s.tryWait r = (s.modSlice r (fun sl => { sl with wait := none })).divide r.gid (r.idx / (s.group r.gid).gangSize))) ∧
  EachW 0xC7 .txc (fun i s who cs => ∀ c, cs = [c] → let s0 := s.closing c.g [c]
    ((s.slice c.ref).tx = none → ∃ x, Traps i s who c s0 ⟨0x17, x, c.eff, 2⟩) ∧
    (∀ t, (s.slice c.ref).tx = some t → exec i s = .next (((s0.modDie (home s0 (s.group c.ref.gid).die t) (fun d => { d with commits := d.commits ++ [c.ref] })).modSlice c.ref
      (fun sl => { sl with wait := some (.commit c.eff) })).divide who.gid who.gang))) ∧
  EachW 0xC8 .txa (fun i s who cs => ∀ c, cs = [c] →
    ((s.slice c.ref).tx = none → ∃ x, Traps i s who c (s.closing c.g [c]) ⟨0x17, x, c.eff, 3⟩) ∧
    (∀ t, (s.slice c.ref).tx = some t → ∃ u, exec i s = .next u ∧ aborted (s.slice c.ref) t 6 (WForm.field c.g.w 57 50) none (u.slice c.ref))) ∧
  (∀ (s : State) (r : SliceRef), r.idx < (s.group r.gid).slices.length →
    ((∀ t, (s.slice r).tx = some t → t.conflict = false) → exec (.conflict r) s = .next s) ∧
    (∀ t, (s.slice r).tx = some t → t.conflict = true → ∃ u, exec (.conflict r) s = .next u ∧ u.mem = s.mem ∧ (∀ q, q ≠ r → { u.slice q with sub := (s.slice q).sub } = s.slice q) ∧
      (∀ n, r ∉ (u.die n).commits ∨ ∀ m, (s.slice r).wait ≠ some (.commit m)) ∧
      aborted (match (s.slice r).wait with | some (.access a) => (s.slice r).abandon a | _ => s.slice r) t 1 0 none (u.slice r))) ∧
  (∀ (s : State) (die : Nat) (r : SliceRef) (rest : List SliceRef) (t : Transaction) (m : Mask), die < 8 → (s.die die).commits = r :: rest →
    r.idx < (s.group r.gid).slices.length → (s.slice r).tx = some t → (s.slice r).wait = some (.commit m) →
    (∀ j, j < r.idx → j / (s.group r.gid).gangSize = r.idx / (s.group r.gid).gangSize → (s.slice ⟨r.gid, j⟩).sub = (s.slice r).sub →
      ∀ x, (s.slice ⟨r.gid, j⟩).wait ≠ some (.commit x)) →
    (t.conflict = true → ∃ u, exec (.commit die) s = .next u ∧ (u.die die).commits = rest ∧ u.mem = s.mem ∧ aborted (s.slice r) t 1 0 none (u.slice r)) ∧
    (t.conflict = false → ∃ u l, exec (.commit die) s = .next u ∧ (u.die die).commits = rest ∧
      u.slice r = { s.slice r with tx := none, txstat := word (2 ^ 30 + t.lines.length % 16 * 2 ^ 8), regpc := 0, wait := none, pc := (s.slice r).pc + 8, sub := l } ∧
      (∀ a, (∀ x ∈ t.buffer, x.1 ≠ a) → u.mem.byte a = s.mem.byte a) ∧
      ((t.buffer.map Prod.fst).Nodup → ∀ x ∈ t.buffer, u.mem.byte x.1 = x.2)))

/-! ### Package work -/

/-- R358 to R362, R366, R367, R369, R371, R372, R466: SPAWN and LAUNCH read a record, judge it and enqueue its units; JDEC decrements a counter and readies the records armed on it at 0; JWAIT and TWAIT wait for a counter, a level or a tile; CANCEL cancels a level, TDONE sets its tile's done bit, and PRIO sets the priority of queued records; bad operands trap, and a record whose join counter cannot be reached is refused. The order of LAUNCH's checks is the model's reading (log 56), as are the effective mask as XMASK (log 71) and that a wait looks at its word at the end of each step (log 19). -/
def Obligations.WorkInstructions : Prop :=
  let f (c : Ctx) (hi lo : Nat) : Nat := WForm.field c.g.w hi lo
  let a (c : Ctx) (s : State) : Dword := c.pairA (s.slice c.ref)
  let b (c : Ctx) (s : State) : Nat := uni c s c.g.w.b.toNat
  let part (c : Ctx) (s : State) : Nat := (s.group c.ref.gid).part
  let own (c : Ctx) (s : State) : Record := s.recordOf (s.group c.ref.gid).uid
  let dies (c : Ctx) (s : State) : BitVec 8 := match s.part? (part c s) with | some p => p.dies | none => 0
  let here (c : Ctx) (s : State) : Nat := (s.group c.ref.gid).die
  let core (c : Ctx) (s : State) : CoreRef := (s.group c.ref.gid).coreRef
  let ordered (_ : Ctx) (x : Dword) (n : Nat) : Prop := x.toNat % n = 0 ∧ canonical x = true
  let named (c : Ctx) (s : State) (r : Record) : List Nat := (List.range 8).filter (fun n => r.dies.getLsbD n && (dies c s).getLsbD n)
  let record (x : Dword) (bs : List Byte) : Record :=
    let w (k : Nat) : Dword := dword (fromBytes ((bs.drop (8 * k)).take 8))
    { addr := x.toNat, code := w 0, frame := w 1, join := w 2, completion := w 3, levels := w 4, shape := w 5, placement := w 6, arg := w 7 }
  let queued (c : Ctx) (s : State) (die order : Nat) (r : Record) : Queued :=
    { part := part c s, die := die, record := r, order := order, armed := true, stamp := 0, pops := 0, priority := r.placement.toNat / 2 ^ 8 % 8, bitmap := none,
      firstArg := r.arg, launchUnit := false, launchSerial := 0, serial := 0 }
  let badAt (op : Nat) (i : List Prefix → WForm → Instr) (when_ : Ctx → Bool) (n : Nat) : Prop := EachW op i (fun i s who cs => ∀ c, cs = [c] → when_ c = true →
    ((a c s).toNat % n ≠ 0 → Traps i s who c (s.closing c.g [c]) ⟨0x07, a c s, c.eff, word n⟩) ∧
    ((a c s).toNat % n = 0 → canonical (a c s) = false → Traps i s who c (s.closing c.g [c]) ⟨0x09, a c s, c.eff, 1⟩))
  let refused (op : Nat) (i : List Prefix → WForm → Instr) (ok : Ctx → State → Prop) (inh : Ctx → Bool) : Prop := EachW op i (fun i s who cs => ∀ c v bs off, cs = [c] →
    let s0 := s.closing c.g [c]
    ordered c (a c s) 64 → ok c s0 → readOnce c s0 true (a c s) 64 64 = (v, .inl bs) → v.groups = s0.groups → v.unwalked = s0.unwalked → v.units = s0.units →
    let r := record (a c s) bs
    let r' := if inh c then { r with levels := (own c s).levels.extractLsb' 32 32 ++ r.levels.extractLsb' 0 32 } else r
    r'.bad (dies c s) = some off → Traps i s who c v ⟨0x02, a c s + dword off, c.eff, 0xC0⟩)
  let launchOk (c : Ctx) (s : State) : Prop :=
    b c s ≤ 2 ^ 24 ∧ uni c s c.g.w.c.toNat % 8 = 0 ∧
    (c.g.w.d.toNat < 192 → ordered c (joinWords ((s.slice c.ref).reg c.g.w.d.toNat 0) ((s.slice c.ref).reg (c.g.w.d.toNat + 1) 0)) 8)
  let spawned (c : Ctx) (s v : State) (bs : List Byte) : Record :=
    let r := record (a c s) bs
    if f c 50 50 = 1 then { r with levels := (own c v).levels.extractLsb' 32 32 ++ r.levels.extractLsb' 0 32 } else r
  let spawnAll (c : Ctx) (s v : State) (bs : List Byte) : State × List Queued × Option Enqueued :=
    let r := spawned c s v bs
    let q := queued c v (if (named c v r).contains (here c v) then here c v else (named c v r).headD 0) (a c s).toNat r
    (v.modLevel q.part (r.key 2) (fun l => { l with dyn := true })).enqueueAll (some (here c v)) true [q]
  let bitmap (c : Ctx) (s : State) : Option Dword :=
    if c.g.w.d.toNat < 192 then some (joinWords ((s.slice c.ref).reg c.g.w.d.toNat 0) ((s.slice c.ref).reg (c.g.w.d.toNat + 1) 0)) else none
  let launchAll (c : Ctx) (s v : State) (bs : List Byte) : State × List Queued × Option Enqueued :=
    let t := record (a c s) bs
    { v with nextLaunch := v.nextLaunch + 1 }.enqueueAll (some (here c v)) false ((List.range (b c s)).map (fun k =>
      { queued c v (if t.shape.getLsbD 49 then (named c v t).headD 0 else (named c v t).getD (k % (named c v t).length) 0) ((a c s).toNat + 64 * k)
          { t with frame := t.frame + dword (k * uni c s c.g.w.c.toNat), arg := t.arg + dword k } with
        bitmap := bitmap c s
        firstArg := t.arg
        launchUnit := true
        launchSerial := v.nextLaunch }))
  let unstarted (op : Nat) (i : List Prefix → WForm → Instr) (ok : Ctx → State → Prop) (rec_ : Ctx → State → State → List Byte → Record)
      (all : Ctx → State → State → List Byte → State × List Queued × Option Enqueued) : Prop := EachW op i (fun i s who cs => ∀ c v bs u q rest e, cs = [c] →
    let s0 := s.closing c.g [c]
    ordered c (a c s) 64 → ok c s0 → readOnce c s0 true (a c s) 64 64 = (v, .inl bs) → (rec_ c s v bs).bad (dies c v) = none →
    all c s v bs = (u, q :: rest, e) →
    (∀ cause code, e = some (.failed cause code) → Traps i s who c u ⟨cause, q.record.join, c.eff, word (if cause = 8 then code + 16 * c.eff.toNat else code)⟩) ∧
    (∀ bl, e = some (.blocked bl) → Parks i s who c u (.replay bl ⟨0x08, q.record.join, c.eff, word (1 + 16 * c.eff.toNat)⟩)) ∧
    (e = none → Parks i s who c { u with enqueues := u.enqueues ++ [{ part := part c v, records := q :: rest, issuer := some c.ref, unread := none, block := none }] }
      (.queueArea c.eff c.g.next)))
  (∀ (s : State) (origin : Option Nat) (spawn : Bool) (q : Queued) (rest : List Queued),
    (s.queueRoom q.part = false → s.enqueueAll origin spawn (q :: rest) = (s, q :: rest, none)) ∧
    (s.queueRoom q.part = true → q.record.join = 0 →
      s.enqueueAll origin spawn (q :: rest) = (s.enterQueue { q with armed := false, stamp := s.now } origin spawn).enqueueAll origin spawn rest) ∧
    (∀ v pa, s.queueRoom q.part = true → q.record.join ≠ 0 → s.workReach controlDie q.part 0 q.record.join needBoth 1 = (v, .at_ pa) →
      s.enqueueAll origin spawn (q :: rest) = (v.enterQueue { q with armed := v.numPhys pa != 0, stamp := v.now } origin spawn).enqueueAll origin spawn rest) ∧
    (∀ v bl, s.queueRoom q.part = true → q.record.join ≠ 0 → s.workReach controlDie q.part 0 q.record.join needBoth 1 = (v, .blocked bl) →
      s.enqueueAll origin spawn (q :: rest) = (v, q :: rest, some (.blocked bl))) ∧
    (∀ v cause code, s.queueRoom q.part = true → q.record.join ≠ 0 → s.workReach controlDie q.part 0 q.record.join needBoth 1 = (v, .failed cause code) →
      s.enqueueAll origin spawn (q :: rest) = (v, q :: rest, some (.failed cause code))) ∧
    (s.enterQueue q origin spawn).queued = s.queued ++ [{ q with serial := s.nextStamp }] ∧
    (∀ k, 1 ≤ k → k ≤ 4 → ∃ l, (s.enterQueue q origin spawn).level? q.part (q.record.key k) = some l ∧
      l.count = (match s.level? q.part (q.record.key k) with | some x => x.count | none => 0) + 1)) ∧
  EachW 0xD0 .spawn (Goes (fun c s u => ordered c (a c s) 64 ∧ ∃ v bs, readOnce c s true (a c s) 64 64 = (v, .inl bs) ∧
    (spawned c s v bs).bad (dies c v) = none ∧ spawnAll c s v bs = (u, [], none))) ∧
  EachW 0xD3 .launch (Goes (fun c s u => ordered c (a c s) 64 ∧ launchOk c s ∧ ∃ v bs, readOnce c s true (a c s) 64 64 = (v, .inl bs) ∧
    (record (a c s) bs).bad (dies c v) = none ∧ launchAll c s v bs = (u, [], none))) ∧
  unstarted 0xD0 .spawn (fun _ _ => True) spawned spawnAll ∧ unstarted 0xD3 .launch launchOk (fun c s _ bs => record (a c s) bs) launchAll ∧
  badAt 0xD0 .spawn (fun _ => true) 64 ∧ badAt 0xD2 .jwait (fun c => f c 52 50 == 0) 8 ∧ badAt 0xD6 .twait (fun _ => true) 8 ∧
  refused 0xD0 .spawn (fun _ _ => True) (fun c => f c 50 50 == 1) ∧ refused 0xD3 .launch launchOk (fun _ => false) ∧
  EachW 0xD3 .launch (fun i s who cs => ∀ c, cs = [c] → let s0 := s.closing c.g [c]
    let x := a c s
    let off : Prop := ∃ m, bitmap c s = some m ∧ m.toNat % 8 ≠ 0
    let far : Prop := ∃ m, bitmap c s = some m ∧ canonical m = false
    (x.toNat % 64 ≠ 0 → Traps i s who c s0 ⟨0x07, x, c.eff, 64⟩) ∧
    (∀ m, x.toNat % 64 = 0 → bitmap c s = some m → m.toNat % 8 ≠ 0 → Traps i s who c s0 ⟨0x07, m, c.eff, 8⟩) ∧
    (x.toNat % 64 = 0 → ¬ off → canonical x = false → Traps i s who c s0 ⟨0x09, x, c.eff, 1⟩) ∧
    (∀ m, ordered c x 64 → ¬ off → bitmap c s = some m → canonical m = false → Traps i s who c s0 ⟨0x09, m, c.eff, 1⟩) ∧
    (ordered c x 64 → ¬ off → ¬ far → (2 ^ 24 < b c s ∨ uni c s c.g.w.c.toNat % 8 ≠ 0) → Traps i s who c s0 ⟨0x02, c.g.addr, c.eff, 0xC0⟩)) ∧
  EachW 0xD1 .jdec (fun i s who cs => ∀ c, cs = [c] → let s0 := s.closing c.g [c]
    (canonical (a c s) = false → Traps i s who c s0 ⟨0x09, a c s, c.eff, 1⟩) ∧
    (canonical (a c s) = true → (a c s).toNat % 8 ≠ 0 → Traps i s who c s0 ⟨0x07, a c s, c.eff, 8⟩)) ∧
  EachW 0xD1 .jdec (Goes (fun c s u => ordered c (a c s) 8 ∧ ∃ v pa, s.workReach (core c s) (part c s) (s.unitIdOf (s.group c.ref.gid)) (a c s) needBoth 1 = (v, .at_ pa) ∧
    let x : Dword := dword (v.numPhys pa) - dword (uni c v c.g.w.b.toNat)
    let z := (v.homeLookup (here c s) pa).atHome pa
    let w := z.writePlace none (z.glbPlace pa) (toBytes 8 x.toNat) false
    u = if x = 0 then { w with queued := w.queued.map (fun q => if q.part = part c s ∧ q.armed = true ∧ q.record.join = a c s then { q with armed := false, stamp := w.now } else q) }
      else w)) ∧
  EachW 0xD1 .jdec (fun i s who cs => ∀ c v, cs = [c] → let s0 := s.closing c.g [c]
    let reach := s0.workReach (core c s) (part c s) (s0.unitIdOf (s.group c.ref.gid)) (a c s) needBoth 1
    (ordered c (a c s) 8 → ∀ code, reach = (v, .failed 9 code) → Traps i s who c v ⟨0x09, a c s, c.eff, word code⟩) ∧
    (ordered c (a c s) 8 → reach = (v, .failed 8 1) → Traps i s who c v ⟨0x08, a c s, c.eff, word (1 + 16 * c.eff.toNat)⟩) ∧
    (ordered c (a c s) 8 → ∀ bl, reach = (v, .blocked bl) → Parks i s who c v (.replay bl ⟨0x08, a c s, c.eff, word (1 + 16 * c.eff.toNat)⟩))) ∧
  EachW 0xD2 .jwait (Goes (fun c s u =>
    (f c 52 50 = 0 ∧ ordered c (a c s) 8 ∧ ∃ v p, s.watch c.ref (a c s) c.eff = (v, .inl (0, p)) ∧ u = v.acquire (v.group c.ref.gid).coreRef 4) ∨
    (f c 52 50 ≠ 0 ∧ s.level? (part c s) ((own c s).named (f c 52 50) (uni c s c.g.w.a.toNat)) = none ∧ u = s.acquire (core c s) 4))) ∧
  EachW 0xD2 .jwait (fun i s who cs => ∀ c, cs = [c] → let s0 := s.closing c.g [c]
    (f c 52 50 = 0 → ordered c (a c s) 8 → ∀ v n p, s0.watch c.ref (a c s) c.eff = (v, .inl (n + 1, p)) → Parks i s who c s0 (.jwaitCounter (a c s) c.eff c.g.next)) ∧
    (f c 52 50 ≠ 0 → ∀ l, s.level? (part c s) ((own c s).named (f c 52 50) (uni c s c.g.w.a.toNat)) = some l →
      Parks i s who c s0 (.jwaitLevel ((own c s).named (f c 52 50) (uni c s c.g.w.a.toNat)) c.eff c.g.next))) ∧
  EachW 0xD6 .twait (Goes (fun c s u => ordered c (a c s) 8 ∧ ∃ v x p, s.watch c.ref (a c s + dword (b c s / 32 * 8)) c.eff = (v, .inl (x, p)) ∧
    let bits := x / 2 ^ (2 * b c s % 64) % 4
    bits ≠ 0 ∧ u = (v.modSlice c.ref (fun sl => sl.setLanesP c.g.w.d.toNat c.eff (Lanes.all (word bits)) (Lanes.all p))).acquire (v.group c.ref.gid).coreRef 4)) ∧
  EachW 0xD6 .twait (fun i s who cs => ∀ c, cs = [c] → let s0 := s.closing c.g [c]
    ordered c (a c s) 8 → ∀ v x p, s0.watch c.ref (a c s + dword (b c s / 32 * 8)) c.eff = (v, .inl (x, p)) → x / 2 ^ (2 * b c s % 64) % 4 = 0 →
      Parks i s who c s0 (.twait (a c s) (b c s) c.g.w.d.toNat c.eff c.g.next)) ∧
  EachW 0xD4 .cancel (Goes (fun c s u => u = s.cancelLevel (part c s) (if f c 52 50 = 0 then ⟨0, 0, 0, 0, uni c s c.g.w.a.toNat⟩
    else (own c s).named (f c 52 50) (uni c s c.g.w.a.toNat)))) ∧
  (∀ (s : State) (p : Nat) (k : LevelKey), k.level ≠ 0 → let u := s.cancelLevel p k
    (∀ q ∈ u.queued, ¬ (q.part = p ∧ q.record.key k.level = k)) ∧
    ((∀ q ∈ s.queued, ¬ (q.part = p ∧ q.record.key k.level = k)) → u.queued = s.queued ∧ u.units = s.units.map (fun x =>
      if x.part = p ∧ x.groups ≠ 0 ∧ x.record.key k.level = k ∧ x.pendingCancel = none then { x with pendingCancel := some k.level } else x))) ∧
  EachW 0xD5 .tdone (Goes (fun c s u => ∃ x, s.unit? (s.group c.ref.gid).uid = some x ∧
    match x.bitmap with
    | none => u = s
    | some m =>
      let tile := (lowWord x.record.arg - lowWord x.firstArg).toNat
      (∃ v pa, s.workReach controlDie x.part 0 (m + dword (8 * (2 * tile / 64))) needBoth 1 = (v, .at_ pa) ∧
        u = (v.atHome pa).writePlace none (v.glbPlace pa) (toBytes 8 (v.numPhys pa ||| 2 ^ (2 * tile % 64))) false) ∨
      (∃ v bl, s.workReach controlDie x.part 0 (m + dword (8 * (2 * tile / 64))) needBoth 1 = (v, .blocked bl) ∧
        u = { v with counterAccesses := v.counterAccesses ++ [⟨x.part, m + dword (8 * (2 * tile / 64)), some (BitVec.ofNat 64 (2 ^ (2 * tile % 64))), some x.uid, bl⟩] }))) ∧
  EachW 0xD7 .prio (Goes (fun c s u => b c s ≤ 7 ∧
    let key := (own c s).named (f c 52 50) (uni c s c.g.w.a.toNat)
    u = { s with queued := s.queued.map (fun q => if q.part = part c s ∧ q.record.key key.level = key then { q with priority := b c s } else q) })) ∧
  EachW 0xD7 .prio (fun i s who cs => ∀ c, cs = [c] → 7 < b c s → Traps i s who c (s.closing c.g [c]) ⟨0x02, c.g.addr, c.eff, 0xC0⟩)

/-- R297, R359, R361, R363 to R370, R146: the events of package work. A die's queue manager places the first record in the order of priority, ready stamp and address that fits, on the cores the rules name, and its groups start at its code; a record that cannot be co-scheduled reserves a cluster, and a reservation lapses after 2^14 cycles; a group completes once its slices have ended and its engines have finished for it, and its unit after its last group: tile bits, errors, completion counter, level counts, in that order; a unit over its budget, or cancelled, takes that trap at its waits; a dynamic graph ends with a white round; enqueues wait for room in the queue area; the host enqueues and cancels. A record that cannot be placed is passed over. That the budget trap goes before a pending cancel (log 49), and which number UNITID is and that it is never 0 (log 13), are the model's choices. -/
def Obligations.WorkProceeds : Prop :=
  let runs (s : State) (x : Queued) : Bool := match s.part? x.part with | some p => p.resident && !p.leaving && !p.ending | none => false
  let first (x q : Queued) : Prop := q.priority < x.priority ∨ (x.priority = q.priority ∧ (x.stamp < q.stamp ∨ (x.stamp = q.stamp ∧ x.order ≤ q.order)))
  let queuedAs (p die : Nat) (r : Record) (order : Nat) : Queued :=
    { part := p, die := die, record := r, order := order, armed := true, stamp := 0, pops := 0, priority := r.placement.toNat / 2 ^ 8 % 8, bitmap := none,
      firstArg := r.arg, launchUnit := false, launchSerial := 0, serial := 0 }
  (∀ (s : State) (n : Nat), ((s.die n).inReset = true ∨ s.readyQueue n = []) → exec (.placement n) s = .next s) ∧
  (∀ (s : State) (n : Nat), (s.readyQueue n).Pairwise (fun q x => first q x) ∧
    ∀ q, q ∈ s.readyQueue n ↔ q ∈ s.queued ∧ q.die = n ∧ q.armed = false ∧ runs s q = true) ∧
  (∀ (s : State) (n : Nat) (past rest : List Queued) (S : Nat → State), (s.die n).inReset = false → s.readyQueue n = past ++ rest → S 0 = s →
    (∀ j x, past[j]? = some x → (S j).coresFor x = none ∧
      let reserves : Prop := x.record.cos ≠ 1 ∧ (∀ y ∈ past.take j, y.priority ≠ x.priority) ∧ ∀ r ∈ ((S j).die n).reservations, r.serial ≠ x.serial
      (¬ reserves → S (j + 1) = S j) ∧
      (reserves → ∃ cl, cl < 12 ∧ (S j).boundTo x cl = true ∧
        (∀ k, k < 12 → (S j).boundTo x k = true →
          ((S j).coresIn x k).length < ((S j).coresIn x cl).length ∨ (((S j).coresIn x k).length = ((S j).coresIn x cl).length ∧ cl ≤ k)) ∧
        S (j + 1) = (S j).modDie n (fun d => { d with reservations := d.reservations ++
          [{ serial := x.serial, cluster := cl, priority := x.priority, start := d.cycle, lapsed := false }] }))) →
    let z := S past.length
    (rest = [] → exec (.placement n) s = .next z) ∧
    (∀ q tail cores, rest = q :: tail → z.coresFor q = some cores →
      (cores.length = q.record.cos ∧ ∀ c ∈ cores, c < 96 ∧ z.fits ⟨n, c⟩ q.record = true ∧ z.clusterOpen q (c / 8) = true ∧ ∀ c' ∈ cores, c' / 8 = c / 8) ∧
      (q.record.cos = 1 → ∀ c ∈ cores, ∀ c', c' < 96 → z.clusterOpen q (c' / 8) = true → z.fits ⟨n, c'⟩ q.record = true →
        z.freePlaces ⟨n, c'⟩ < z.freePlaces ⟨n, c⟩ ∨ (z.freePlaces ⟨n, c'⟩ = z.freePlaces ⟨n, c⟩ ∧ c ≤ c')) ∧
      ∃ t u gs, exec (.placement n) s = .next t ∧ t.groups = s.groups ++ gs ∧ t.units = s.units ++ [u] ∧ t.nextUid = s.nextUid + 1 ∧ t.mem = s.mem ∧
        t.queued = (s.queued.erase q).map (fun x => if x.die = n ∧ x.part = q.part ∧ x.armed = false then
          (if x.pops + 1 < 2 ^ 16 then { x with pops := x.pops + 1 } else { x with pops := 0, priority := min 7 (x.priority + 1) }) else x) ∧
        u = { uid := s.nextUid, unitId := u.unitId, part := q.part, record := q.record, bitmap := q.bitmap,
              firstArg := q.firstArg, launchUnit := q.launchUnit, launchSerial := q.launchSerial, groups := cores.length, cycles := 0, pendingCancel := none,
              budgetOut := false, cancelled := none, stage := 0 } ∧
        0 < u.unitId ∧ u.unitId < 2 ^ 32 ∧ (s.units.length < 2 ^ 32 - 1 → ∀ v ∈ s.units, v.part = q.part → v.unitId ≠ u.unitId) ∧
        gs.length = cores.length ∧ ∀ j g, gs[j]? = some g →
          g.gid = s.nextGid + j ∧ g.uid = s.nextUid ∧ g.part = q.part ∧ g.die = n ∧ cores[j]? = some g.core ∧ g.index = j ∧ g.regs = q.record.regs ∧
          g.pages = q.record.pages ∧ g.gangSize = q.record.gang ∧ g.shadow = q.record.shadow ∧ g.swapped = false ∧ g.slices.length = q.record.slices ∧
          (∀ sl ∈ g.slices, ∃ l, sl = { Slice.start q.record.regs q.record.code with sub := l }) ∧ g.gangs.length = q.record.slices / q.record.gang ∧
          (∀ x ∈ g.gangs, x.declared = q.record.lease ∧ x.active = false ∧ x.pipe < 4))) ∧
  (∀ (s : State) (k : Nat), (s.allReservations[k]? = none → exec (.reservationLapse k) s = .next s) ∧
    ∀ n r, s.allReservations[k]? = some (n, r) →
      ((s.die n).cycle < r.start + 2 ^ 14 → exec (.reservationLapse k) s = .next s) ∧
      (r.start + 2 ^ 14 ≤ (s.die n).cycle → r.lapsed = false → ∃ t, exec (.reservationLapse k) s = .next t ∧ t.groups = s.groups ∧ t.queued = s.queued ∧
        (t.die n).reservations = (s.die n).reservations.map (fun x => if x = r then { r with lapsed := true, start := (s.die n).cycle } else x))) ∧
  (∀ (s : State) (g : Nat) (x : Group), s.group? g = some x →
    let k := s.core x.coreRef
    let busy : Bool := k.copies.any (fun c => c.gid == g) || k.matrix.queue.any (fun c => c.gid == g) || k.mint.queue.any (fun c => c.gid == g)
    ((x.swapped = true ∨ busy = true ∨ ∃ sl ∈ x.slices, sl.ended = false) → exec (.groupCompletion g) s = .next s) ∧
    (x.swapped = false → busy = false → (∀ sl ∈ x.slices, sl.ended = true) → ∃ t, exec (.groupCompletion g) s = .next t ∧ t.mem = s.mem ∧
      t.group? g = none ∧ (∀ j, j ≠ g → t.group? j = s.group? j) ∧ ∀ u, s.unit? x.uid = some u → ∃ v, t.unit? x.uid = some v ∧ v.groups = u.groups - 1 ∧
        v.cancelled = (match x.slices.findSome? Slice.leftFailure with | some c => some (u.cancelled.getD c) | none => u.cancelled))) ∧
  (∀ (s : State) (n : Nat) (u : UnitState), s.unit? n = some u →
    (u.groups ≠ 0 → exec (.unitCompletion n) s = .next s) ∧
    (u.groups = 0 → u.stage = 0 → s.counterAccesses.any (fun a => a.uid == some n) = false →
      let counted (l : Level) : Level := match u.cancelled with
        | some c => { l with count := l.count - 1, errors := l.errors + 1, firstCause := some (l.firstCause.getD c) }
        | none => { l with count := l.count - 1 }
      let finishes (base : State) : Prop :=
        let erred : State := match u.cancelled with
          | some c => [1, 2, 3, 4].foldl (fun v k => v.modLevel u.part (u.record.key k) (fun l => { l with errors := l.errors + 1, firstCause := some (l.firstCause.getD c) })) base
          | none => base
        let ends (t : State) : Prop := exec (.unitCompletion n) s = .next t ∧ t.unit? n = none ∧ t.groups = s.groups ∧
          ∀ k l, 1 ≤ k → k ≤ 4 → s.level? u.part (u.record.key k) = some l →
            t.level? u.part (u.record.key k) = if (counted l).count = 0 ∧ l.dyn = false then none else some (counted l)
        (u.record.completion = 0 → ∃ t, ends t ∧ t.mem = base.mem) ∧
        (∀ v pa, u.record.completion ≠ 0 → (erred.modUnit n (fun x => { x with stage := 1 })).unitReach { u with stage := 1 } u.record.completion = (v, .at_ pa) → ∃ t, ends t ∧
          let x : Dword := dword (v.numPhys pa) - 1
          t.mem = (v.writePlace none (v.glbPlace pa) (toBytes 8 x.toNat) false).mem ∧
          t.queued = if x = 0 then v.queued.map (fun q => if q.part = u.part ∧ q.armed = true ∧ q.record.join = u.record.completion then { q with armed := false, stamp := v.now } else q)
            else v.queued)
      (u.bitmap = none → finishes s) ∧
      (∀ v pa b, u.bitmap = some b →
        let tile := (lowWord u.record.arg - lowWord u.firstArg).toNat
        s.unitReach u (b + dword (8 * (2 * tile / 64))) = (v, .at_ pa) →
          finishes ((v.atHome pa).writePlace none (v.glbPlace pa) (toBytes 8 (v.numPhys pa ||| ((if u.cancelled.isSome then 3 else 1) * 2 ^ (2 * tile % 64)))) false)))) ∧
  (∀ (s : State) (n : Nat), ∃ t, exec (.cycleBudget n) s = .next t ∧
    t = { s with units := s.units.map (fun u => if u.uid = n ∧ u.record.placement.toNat / 2 ^ 16 ≠ 0 ∧ u.record.placement.toNat / 2 ^ 16 < u.cycles then { u with budgetOut := true } else u) }) ∧
  (∀ (s : State) (r : SliceRef),
    ((s.slice r).wait = none → ((s.group r.gid).gang (r.idx / (s.group r.gid).gangSize)).active = true → exec (.cancelTaken r) s = .next s) ∧
    (∀ w u, (s.slice r).wait = some w → s.unit? (s.group r.gid).uid = some u →
      let take (t : Trap) : Prop := exec (.cancelTaken r) s = .next (((s.leaveSlots r).takeTrap r (s.slice r).pc t).divide r.gid (r.idx / (s.group r.gid).gangSize))
      let budget := u.record.placement.toNat / 2 ^ 16
      let spent : Bool := u.budgetOut || (budget != 0 && decide (budget < u.cycles))
      (spent = false → u.pendingCancel = none → exec (.cancelTaken r) s = .next s) ∧ (w.cancelPoint = false → exec (.cancelTaken r) s = .next s) ∧
      (w.cancelPoint = true → spent = true → take ⟨0x1A, 0, w.lanes (s.slice r).active, 0⟩) ∧
      (∀ level, w.cancelPoint = true → spent = false → u.pendingCancel = some level → take ⟨0x1B, 0, w.lanes (s.slice r).active, word level⟩))) ∧
  (∀ (s : State) (n : Nat) (key : LevelKey) (l : Level) (p : Partition), s.level? n key = some l → s.part? n = some p → l.dyn = true → key.level = 2 →
    let dies := (List.range 8).filter (fun i => p.dies.getLsbD i)
    let waiting := (s.waitingUnits n key).length
    (∀ w : Bool, l.token = none → (if w then l.count ≠ 0 ∧ l.count ≤ waiting else l.count = 0) →
      ∃ t, exec (.tokenRound n key) s = .next t ∧ t.level? n key = some { l with token := some ⟨dies.headD 0, false, w, false⟩ }) ∧
    (l.token = none → waiting < l.count → exec (.tokenRound n key) s = .next s) ∧
    (∀ k, l.token = some k →
      let black : Bool := k.black || l.blk.getLsbD k.die
      let cleared := { l with blk := l.blk &&& ~~~(BitVec.ofNat 8 (2 ^ k.die)) }
      (s.quiet n key k.die k.waiters = false → exec (.tokenRound n key) s = .next s) ∧
      (s.quiet n key k.die k.waiters = true →
        (∀ m, dies.find? (fun i => decide (k.die < i)) = some m →
          ∃ t, exec (.tokenRound n key) s = .next t ∧ t.level? n key = some { cleared with token := some { k with black := black, die := m } }) ∧
        (dies.find? (fun i => decide (k.die < i)) = none → ∃ t, exec (.tokenRound n key) s = .next t ∧
          t.level? n key = if black = false ∧ k.host = false ∧ k.waiters = false then none else some { cleared with token := none })))) ∧
  (∀ (s : State) (k : Nat) (e : WaitingEnqueue), s.enqueues[k]? = some e →
    (∀ b, e.block = some b → s.blockOver e.part Group.vacant b = false → exec (.enqueueAreaWaitEnd k) s = .next s) ∧
    (e.block = none → e.unread = none → e.issuer = none → ∀ v rest, s.enqueueAll none false e.records = (v, rest, none) →
      exec (.enqueueAreaWaitEnd k) s = .next (if rest = [] then { v with enqueues := v.enqueues.eraseIdx k, replies := v.replies ++ [.status true] }
        else { v with enqueues := v.enqueues.set k { e with records := rest, block := none } })) ∧
    (∀ r m next, e.block = none → e.unread = none → e.issuer = some r → (s.slice r).wait = some (.queueArea m next) → ∀ v rest,
      s.enqueueAll (some (s.group r.gid).die) (e.records.all (fun q => !q.launchUnit)) e.records = (v, rest, none) →
      exec (.enqueueAreaWaitEnd k) s = .next (if rest = [] then ({ v with enqueues := v.enqueues.eraseIdx k }).resume r (s.slice r).pc next .next
        else { v with enqueues := v.enqueues.set k { e with records := rest, block := none } }))) ∧
  (∀ (s : State) (n : Nat) (a : Dword),
    let i : Instr := .hostEnqueue n a
    (s.bootstat.getLsbD 31 = false → exec i s = .next { s with replies := s.replies ++ [.notReady] }) ∧
    (s.bootstat.getLsbD 31 = true →
      ((s.part? n = none ∨ a.toNat % 64 ≠ 0) → exec i s = .next { s with replies := s.replies ++ [.status false] }) ∧
      (∀ p v pa, s.part? n = some p → a.toNat % 64 = 0 → s.workReach controlDie n 0 a needRead 0 = (v, .at_ pa) → v.unwalked = s.unwalked →
        let r := Record.ofBytes a.toNat (v.readPhys pa 64)
        let q := queuedAs n (((List.range 8).filter (fun i => r.dies.getLsbD i && p.dies.getLsbD i)).headD 0) r a.toNat
        ((r.bad p.dies).isSome = true → exec i s = .next { v with replies := v.replies ++ [.status false] }) ∧
        (∀ w, r.bad p.dies = none → v.enqueueAll none false [q] = (w, [], none) → exec i s = .next { w with replies := w.replies ++ [.status true] }) ∧
        (∀ w x cause code, r.bad p.dies = none → v.enqueueAll none false [q] = (w, x, some (.failed cause code)) → exec i s = .next { w with replies := w.replies ++ [.status false] }) ∧
        (r.bad p.dies = none → v.queueRoom n = false →
          exec i s = .next { v with enqueues := v.enqueues ++ [{ part := n, records := [q], issuer := none, unread := none, block := none }] })))) ∧
  (∀ (s : State) (n : Nat) (key : LevelKey),
    (s.bootstat.getLsbD 31 = false → exec (.hostCancel n key) s = .next { s with replies := s.replies ++ [.notReady] }) ∧
    (s.bootstat.getLsbD 31 = true → ∃ t, exec (.hostCancel n key) s = .next t ∧ t = { s.cancelLevel n key with replies := (s.cancelLevel n key).replies ++ [.status true] } ∧
      (key.level = 0 → t.queued = s.queued ∧ t.units = s.units.map (fun x =>
        if x.part = n ∧ x.groups ≠ 0 ∧ x.unitId = key.launch ∧ x.pendingCancel = none then { x with pendingCancel := some 0 } else x))))

/-! ### The fabric -/

/-- R447 to R452, R454 to R456: PUTS and GETR check their peer, then their addresses; PUTS is posted as a copy that sends its data in packets and its signal once all are acknowledged; GETR empties its destination, sends a read for each lane, and ends when all are answered; SIGW waits for a counter. A destination discards a packet whose number it has accepted, performs an unordered packet at once and an ordered one in its turn; a source keeps a packet until its acknowledgement and sends it again after 200 microseconds; links count, replay, retrain and fail as R448 and R449 say. That a remote load fills its destination once every lane is answered and that an unreachable lane fails (log 44), when a signal is sent (log 45), which link and path a packet takes and how its flits are counted (log 37), and the effective mask as XMASK (log 71), are the model's choices. -/
def Obligations.FabricMessages : Prop :=
  let f (c : Ctx) (hi lo : Nat) : Nat := WForm.field c.g.w hi lo
  let pair (c : Ctx) (s : State) (r : BitVec 8) : Dword := joinWords ((s.slice c.ref).reg r.toNat 0) ((s.slice c.ref).reg (r.toNat + 1) 0)
  let peer (c : Ctx) (s : State) : PeerEntry := s.peer (s.group c.ref.gid).part (f c 57 50)
  let known (c : Ctx) (s : State) : Bool := (peer c s).valid && (peer c s).job == (s.recordOf (s.group c.ref.gid).uid).levels.toNat / 2 ^ 56
  let sp (c : Ctx) : Space := spaceOf (f c 60 58)
  let src (c : Ctx) (s : State) : Dword := if f c 60 58 = 0 then pair c s c.g.w.a else dword (uni c s c.g.w.a.toNat)
  let len (c : Ctx) (s : State) : Nat := uni c s c.g.w.b.toNat
  let counter (c : Ctx) (s : State) : Dword := if f c 63 62 = 0 then 0 else pair c s c.g.w.c
  let srcOut (c : Ctx) (s : State) : Option Nat := firstOutside (s.group c.ref.gid) (sp c) (src c s).toNat (if f c 60 58 = 0 then max 1 (len c s) else len c s)
  let dstOut (c : Ctx) (s : State) : Option Nat := firstOutside (s.group c.ref.gid) .glb (pair c s c.g.w.d).toNat (max 1 (len c s))
  let laneAddr (c : Ctx) (s : State) (i : Nat) : Dword := joinWords ((s.slice c.ref).reg c.g.w.a.toNat i) ((s.slice c.ref).reg (c.g.w.a.toNat + 1) i)
  let size (c : Ctx) : Nat := if f c 58 58 = 1 then 8 else 4
  let far (c : Ctx) (s : State) : Mask := c.eff &&& Mask.ofFn (fun i => !canonical (laneAddr c s i))
  let off (c : Ctx) (s : State) : Mask := c.eff &&& Mask.ofFn (fun i => (laneAddr c s i).toNat % size c != 0)
  let lowest (m : Mask) : Nat := m.lanes.headD 0
  let met (c : Ctx) (s : State) (v : Nat) : Bool :=
    let t := (BitVec.ofNat 32 (uni c s c.g.w.b.toNat)).signExtend 64
    if f c 50 50 = 1 then dword v == t else (dword v).sle t
  let unknown (op : Nat) (i : List Prefix → WForm → Instr) : Prop := EachW op i (fun i s who cs => ∀ c, cs = [c] → known c (s.closing c.g [c]) = false →
    Traps i s who c (s.closing c.g [c]) ⟨0x09, 0, c.eff, 9⟩)
  unknown 0xE0 .puts ∧ unknown 0xE1 .getr ∧
  EachW 0xE0 .puts (Goes (fun c s u => known c s = true ∧ srcOut c s = none ∧ dstOut c s = none ∧ canonical (counter c s) = true ∧ (counter c s).toNat % 8 = 0 ∧
    let dec : Option Nat := if f c 63 62 = 0 then none else if f c 63 62 = 1 then some 1 else some (len c s)
    let k := { Copy.posted c s (.puts ((peer c s).package * 8 + (peer c s).part) (f c 61 61 == 1) dec (counter c s)) with
      dsp := .glb
      ssp := sp c
      dst := pair c s c.g.w.d
      src := src c s
      rowLen := len c s
      rows := if len c s = 0 then 0 else 1
      scope := c.g.pfx.scope 5 }
    let s1 := { s with nextCopy := s.nextCopy + 1 }
    let s2 := if k.acquire then s1.acquire (s.group c.ref.gid).coreRef k.scope else s1
    u = if len c s = 0 ∧ dec = none then s2 else s2.modCore (s.group c.ref.gid).coreRef (fun x => { x with copies := x.copies ++ [k] }))) ∧
  EachW 0xE0 .puts (fun i s who cs => ∀ c, cs = [c] → let s0 := s.closing c.g [c]
    known c s0 = true →
    (∀ a, sp c ≠ .glb → srcOut c s0 = some a → Traps i s who c s0 ⟨0x0A, dword a, c.eff, word (sp c).code⟩) ∧
    (∀ a, sp c = .glb → srcOut c s0 = some a → Traps i s who c s0 ⟨0x09, dword a, c.eff, 1⟩) ∧
    (∀ a, srcOut c s0 = none → dstOut c s0 = some a → Traps i s who c s0 ⟨0x09, dword a, c.eff, 1⟩) ∧
    (srcOut c s0 = none → dstOut c s0 = none → canonical (counter c s0) = false → Traps i s who c s0 ⟨0x09, counter c s0, c.eff, 1⟩) ∧
    (srcOut c s0 = none → dstOut c s0 = none → canonical (counter c s0) = true → (counter c s0).toNat % 8 ≠ 0 → Traps i s who c s0 ⟨0x07, counter c s0, c.eff, 8⟩)) ∧
  EachW 0xE1 .getr (Goes (fun c s u => known c s = true ∧ far c s = 0 ∧ off c s = 0 ∧
    let x : Getr :=
      { tag := s.nextCopy, dst := c.g.w.d.toNat, regs := size c / 4, eff := c.eff, package := (peer c s).package, part := (peer c s).part,
        addrs := Lanes.ofFn (laneAddr c s), left := c.eff, failed := 0, unsent := c.eff, got := [], acquire := c.g.pfx.order 0 % 2 == 1, scope := c.g.pfx.scope 5,
        pc := c.g.addr }
    let v := { s with nextCopy := s.nextCopy + 1 }.modSlice c.ref (fun sl => { sl.makeEmptyN x.dst x.regs c.eff with getrs := sl.getrs ++ [x] })
    u = c.eff.lanes.foldl (fun v i => v.sendLane c.ref x i) v)) ∧
  EachW 0xE1 .getr (fun i s who cs => ∀ c, cs = [c] → let s0 := s.closing c.g [c]
    known c s0 = true →
    (far c s0 ≠ 0 → Traps i s who c s0 ⟨0x09, laneAddr c s0 (lowest (far c s0)), far c s0, 1⟩) ∧
    (far c s0 = 0 → off c s0 ≠ 0 → Traps i s who c s0 ⟨0x07, laneAddr c s0 (lowest (off c s0)), off c s0, word (size c)⟩)) ∧
  (∀ (s : State) (r : SliceRef) (x : Getr) (i : Nat),
    (s.reachable x.package = true → s.streamFull x.package = false →
      (s.sendLane r x i).kept = s.kept ++ [{ packet := { src := s.package, dst := x.package, seq := s.nextSeqTo x.package, ordered := false, payload := .read x.part (x.addrs.get i) (4 * x.regs) r i x.tag }, copy := none, since := s.nanos, path := none }]) ∧
    (s.reachable x.package = true → s.streamFull x.package = true → s.sendLane r x i = s) ∧
    (x.left ≠ 0 → s.endGetr r x = s) ∧
    (r.idx < (s.group r.gid).slices.length → x.left = 0 → x.failed = 0 →
      ((s.endGetr r x).slice r) = { x.ordered.foldl Slice.deliver (s.slice r) with getrs := (x.ordered.foldl Slice.deliver (s.slice r)).getrs.filter (fun y => y.tag != x.tag) }) ∧
    (x.left = 0 → x.failed ≠ 0 → s.endGetr r x =
      (s.modSlice r (fun sl => { sl.makeFullN x.dst x.regs x.eff with getrs := (sl.makeFullN x.dst x.regs x.eff).getrs.filter (fun y => y.tag != x.tag), sub := 1000 + r.idx })).resume r x.pc x.pc
        (.trap ⟨0x09, x.addrs.get (lowestLane x.failed), x.failed, 10⟩))) ∧
  EachW 0xE2 .sigw (Goes (fun c s u => canonical (pair c s c.g.w.a) = true ∧ (pair c s c.g.w.a).toNat % 8 = 0 ∧ ∃ v n p, s.watch c.ref (pair c s c.g.w.a) c.eff = (v, .inl (n, p)) ∧
    met c s n = true ∧
    u = (if c.g.w.d = 0 then v else v.modSlice c.ref (fun sl => (sl.setLanesP c.g.w.d.toNat c.eff (Lanes.all (word n)) (Lanes.all p)).setLanesP (c.g.w.d.toNat + 1) c.eff
      (Lanes.all (word (n / 2 ^ 32))) (Lanes.all p))).acquire (v.group c.ref.gid).coreRef 5)) ∧
  EachW 0xE2 .sigw (fun i s who cs => ∀ c, cs = [c] → let s0 := s.closing c.g [c]
    let a := pair c s0 c.g.w.a
    (canonical a = false → Traps i s who c s0 ⟨0x09, a, c.eff, 1⟩) ∧
    (canonical a = true → a.toNat % 8 ≠ 0 → Traps i s who c s0 ⟨0x07, a, c.eff, 8⟩) ∧
    (canonical a = true → a.toNat % 8 = 0 → ∀ v n p, s0.watch c.ref a c.eff = (v, .inl (n, p)) → met c s0 n = false →
      Parks i s who c s0 (.sigw a (f c 50 50 == 1) ((BitVec.ofNat 32 (uni c s0 c.g.w.b.toNat)).signExtend 64) (if c.g.w.d = 0 then none else some c.g.w.d.toNat) c.eff c.g.next))) ∧
  (∀ (s : State) (at_ : CoreRef) (id piece n : Nat) (c : Copy) (q : Nat) (o : Bool) (d : Option Nat) (a : Dword), (s.core at_).copy? id = some c → c.kind = .puts q o d a →
    let data := (c.rows * c.rowLen + 4095) / 4096
    let all := data + (if d.isSome then 1 else 0)
    let i : Instr := .copyLineLands at_ id piece
    let kept (p : Payload) : Kept := { packet := { src := s.package, dst := q / 8, seq := s.nextSeqTo (q / 8), ordered := o, payload := p }, copy := some (at_.die, at_.core, c.id), since := s.nanos, path := none }
    let later : Bool := o && (s.core at_).copies.any (fun x => decide (x.id < c.id) && x.gid == c.gid && x.idx == c.idx && decide (x.first < x.messages) &&
      (match x.kind with | .puts q' true _ _ => q' == q | _ => false))
    ((c.block.isSome = true ∨ all ≤ c.first ∨ s.streamFull (q / 8) = true ∨ later = true) → exec i s = .next s) ∧
    (c.block = none → s.streamFull (q / 8) = false → later = false → d = some n → c.first = data →
      (s.reachable (q / 8) = false → exec i s = .next (s.failPuts at_ c.id a)) ∧
      (s.reachable (q / 8) = true → c.landed.length < data → exec i s = .next s) ∧
      (s.reachable (q / 8) = true → c.release = true → s.backInvalidates ≠ [] → exec i s = .next s) ∧
      (s.reachable (q / 8) = true → data ≤ c.landed.length → (c.release = false ∨ s.backInvalidates = []) → ∃ t, exec i s = .next t ∧ t.kept = s.kept ++ [kept (.signal (q % 8) a n)] ∧ t.groups = s.groups ∧ t.mem = s.mem)) ∧
    (c.block = none → s.streamFull (q / 8) = false → later = false → c.first < data → s.reachable (q / 8) = true → ∀ v w ps,
      let at' := c.src.toNat + c.first * 4096
      let m := min 4096 (c.rows * c.rowLen - c.first * 4096)
      s.copyWaits c c.gid (if c.ssp = .scr then scrLines at' m else []) true = (v, false) → v.sidePlaces c c.ssp at' m needRead 0 = (w, .inl ps) →
      w.kept = s.kept → w.outNext = s.outNext → w.package = s.package → w.nanos = s.nanos →
        ∃ t, exec i s = .next t ∧ t.kept = s.kept ++ [kept (.write (q % 8) (c.dst + dword (c.first * 4096)) (w.readPlaces ps).1 (w.readPlaces ps).2)] ∧ t.mem = w.mem)) ∧
  (∀ (s : State) (p : Packet), let x := s.inflowOf p.src
    (p.dst ≠ s.package → exec (.packetArrival p) s = .next s) ∧
    (p.dst = s.package → (∀ y ∈ s.parkedPackets, y.1 ≠ p) →
      (x.has p.seq = true → exec (.packetArrival p) s = .next s) ∧
      (x.has p.seq = false → x.reorder = [] → x.accepted = [] →
        let behind := { x with next := (x.next + 1) % 2 ^ 32 }
        (p.ordered = false → exec (.packetArrival p) s = .next ((s.setInflow (if p.seq = x.next then behind else { x with accepted := [p.seq] })).receive p)) ∧
        (p.ordered = true → p.seq = x.next → x.next < 2 ^ 32 → (∀ y ∈ s.parkedPackets, y.1.src ≠ p.src) → exec (.packetArrival p) s = .next ((s.setInflow behind).receive p)) ∧
        (p.ordered = true → p.seq ≠ x.next → exec (.packetArrival p) s = .next (s.setInflow { x with accepted := [p.seq], reorder := [p] }))))) ∧
  (∀ (s v : State) (p : Packet) (ps : List (Nat × Nat)), p.src ≠ s.package → v.package = s.package →
    (∀ n va data mark, p.payload = .write n va data mark → s.remotePlaces n va data.length needWrite 1 = (v, .inl ps) → s.receive p = v.writePieces none ps (data.zip mark)) ∧
    (∀ n va k, p.payload = .signal n va k → s.backInvalidates ≠ [] → s.receive p = { s with parkedPackets := s.parkedPackets ++ [(p, .hosts s.backInvalidates)] }) ∧
    (∀ n va k r i tag, p.payload = .read n va k r i tag → s.streamFull p.src = true → s.receive p = { s with parkedPackets := s.parkedPackets ++ [(p, .room p.src)] }) ∧
    (∀ n va k pa m rest, p.payload = .signal n va k → s.backInvalidates = [] → s.remotePlaces n va 8 needBoth 1 = (v, .inl ((pa, m) :: rest)) →
      s.receive p = v.writePlace none (v.glbPlace pa) (toBytes 8 (dword (v.numPhys pa) - dword k).toNat) false) ∧
    (∀ n va k r i tag, p.payload = .read n va k r i tag → s.streamFull p.src = false → s.remotePlaces n va k needRead 0 = (v, .inl ps) →
      s.receive p = v.send p.src false (.reply r i tag (v.piecesBytes ps) (ps.any (fun y => (v.mem.poisonAt 128 y.1 y.2).isSome)) true) none) ∧
    (∀ n va k r i tag, p.payload = .read n va k r i tag → s.streamFull p.src = false → s.remotePlaces n va k needRead 0 = (v, .inr .failed) →
      s.receive p = v.send p.src false (.reply r i tag [] false false) none) ∧
    (∀ n va data mark b, p.payload = .write n va data mark → s.remotePlaces n va data.length needWrite 1 = (v, .inr (.parked b)) →
      s.receive p = { v with parkedPackets := v.parkedPackets ++ [(p, b)] }) ∧
    (∀ r i tag data mark ok, p.payload = .reply r i tag data mark ok → s.receive p = s.answerLane r i tag data mark ok)) ∧
  (∀ (s : State) (dst seq : Nat) (bad : Bool), let rest := s.kept.filter (fun k => !(k.packet.dst == dst && k.packet.seq == seq))
    (s.kept? dst seq = none → exec (.packetAcknowledged dst seq bad) s = .next s ∧ exec (.packetRetransmit dst seq) s = .next s) ∧
    (∀ k, s.kept? dst seq = some k →
      (k.copy = none → bad = false → exec (.packetAcknowledged dst seq bad) s = .next { s with kept := rest }) ∧
      (∀ die core id c, die < 8 → core < 96 → k.copy = some (die, core, id) → (s.core ⟨die, core⟩).copy? id = some c → ∃ t, exec (.packetAcknowledged dst seq bad) s = .next t ∧ t.kept = rest ∧
        let n := payloadMessage c k.packet.payload
        let landed := if n ∈ c.landed then c.landed else c.landed ++ [n]
        (bad = false → (t.core ⟨die, core⟩).copy? id = if landed.length = c.messages then none else some { c with landed := landed }) ∧
        (bad = true → (t.core ⟨die, core⟩).copy? id = none ∧ (c.idx < (s.group c.gid).slices.length →
          (t.slice ⟨c.gid, c.idx⟩).copies.reports = (s.slice ⟨c.gid, c.idx⟩).copies.reports ++ [c.report (some (payloadAddress k.packet.payload, 1)) false 0]))) ∧
      (∀ n va m r i tag, k.copy = none → k.packet.payload = .read n va m r i tag → exec (.packetAcknowledged dst seq true) s = .next ({ s with kept := rest }.answerLane r i tag [] false false)) ∧
      (s.nanos < k.since + 200000 → exec (.packetRetransmit dst seq) s = .next s) ∧
      (k.since + 200000 ≤ s.nanos → ∃ t, exec (.packetRetransmit dst seq) s = .next t ∧ t.groups = s.groups ∧ t.mem = s.mem ∧
        match s.pathFor k k.path with
        | some l => t.kept? dst seq = some { k with path := some l.1, since := s.nanos }
        | none => t = s))) ∧
  (∀ (s : State) (n : Nat) (x : Flit), n < 24 → let k := s.link n
    (k.up = false → exec (.flitReceive n x) s = .next s) ∧
    (k.up = true → ∃ t, exec (.flitReceive n x) s = .next t ∧ t.groups = s.groups ∧ t.mem = s.mem ∧ let y := t.link n
      (x.crcOk = true → y.up = true ∧ y.crcFails = 0 ∧ (x.seq = k.expected → y.expected = (k.expected + 1) % 1024 ∧ y.asked = none) ∧
        (x.seq ≠ k.expected → y.expected = k.expected ∧ y.asked = some k.expected ∧ y.replay = k.replay)) ∧
      (x.crcOk = false → k.crcFails + 1 < 8 → y = { k with crcFails := k.crcFails + 1, asked := some k.expected }) ∧
      (x.crcOk = false → 8 ≤ k.crcFails + 1 → y.up = false ∧ y.retr = true ∧ y.replay = k.replay ∧ y.retrains = min 65535 (k.retrains + 1) ∧ y.crcFails = 0))) ∧
  (∀ (s : State) (n : Nat), n < 24 → let k := s.link n
    (k.up = false → exec (.linkRetrain n) s = .next s) ∧
    (k.up = true → ∃ t, exec (.linkRetrain n) s = .next t ∧ t.link n = { k with up := false, retr := true, retrains := min 65535 (k.retrains + 1), crcFails := 0, attempts := 0 } ∧
      (∀ j, j ≠ n → t.link j = s.link j) ∧ { t with links := s.links } = s) ∧
    (∀ ok p, (k.up = true ∨ k.fail = true) → exec (.retrainComplete n ok p) s = .next s) ∧
    (∀ p, k.up = false → k.fail = false → ∃ t, exec (.retrainComplete n true p) s = .next t ∧ (t.link n).up = true ∧ (t.link n).retr = false ∧ (t.link n).peer = p % 4096 ∧ (t.link n).expected = k.expected) ∧
    (∀ p, k.up = false → k.fail = false → k.attempts + 1 < 3 → ∃ t, exec (.retrainComplete n false p) s = .next t ∧ t.link n = { k with attempts := k.attempts + 1 }) ∧
    (∀ p, k.up = false → k.fail = false → 3 ≤ k.attempts + 1 → ∃ t, exec (.retrainComplete n false p) s = .next t ∧ (t.link n).fail = true ∧ (t.link n).retr = false ∧ (t.link n).up = false) ∧
    (s.bootstat.getLsbD 31 = true → ∃ t, exec (.linkBringUp n) s = .next t ∧
      if k.up = true ∨ k.retr = true then t = { s with replies := s.replies ++ [.status false] }
      else t.link n = { Link.down with retr := true, peer := k.peer, retrains := k.retrains } ∧ t.replies = s.replies ++ [.status true]) ∧
    (s.bootstat.getLsbD 31 = false → exec (.linkBringUp n) s = .next { s with replies := s.replies ++ [.notReady] })) ∧
  (∀ (s : State) (rs : List RouteEntry), ∃ t, exec (.routeRecompute rs) s = .next t ∧ t.routes = rs.map (fun r => { r with paths := r.paths.take 4 }) ∧ t.mem = s.mem) ∧
  (∀ (s : State) (n k : Nat) (e : PeerEntry),
    (s.bootstat.getLsbD 31 = false → exec (.peerTableWrite n k e) s = .next { s with replies := s.replies ++ [.notReady] }) ∧
    (s.bootstat.getLsbD 31 = true → (s.part? n = none ∨ 256 ≤ k ∨ 4096 ≤ e.package ∨ 8 ≤ e.part) → exec (.peerTableWrite n k e) s = .next { s with replies := s.replies ++ [.status false] }) ∧
    (s.bootstat.getLsbD 31 = true → (s.part? n).isSome = true → k < 256 → e.package < 4096 → e.part < 8 → ∃ t, exec (.peerTableWrite n k e) s = .next t ∧ t.peer n k = e ∧ (∀ j, j ≠ k → t.peer n j = s.peer n j) ∧
      t.groups = s.groups ∧ t.replies = s.replies ++ [.status true]))

/-! ### Virtual memory and device memory -/

/-- R379 to R383, R385 to R392, R394, R395: a walk installs its leaf with A set, and D for a write, or enters a fault into the ring; RESOLVE and FAIL answer a fault; MAP, UNMAP and PROTECT write the run of a page and shoot it down; a migration moves a page's bytes, its full/empty bits and its frame, and places a page of zeros with every word full where there was none yet, the thrash detector pins a page that moves too often, and a pin expires; the control die performs the first request of a page. The model's choices here: which well-formed leaf of a run an access takes (log 70, DESIGN CHOICE), UNITID 0 of a walk without a unit and the FAIL of a malformed leaf (logs 13 and 58), the requests held at a page that is unmapped or mapped anew, answered "retry" (log 88), the refusal of a MAP that is misaligned, not canonical, of a size code above 7 or given as moving (log 100), and where the control die performs a pinned page's request (log 39). -/
def Obligations.PagesMoveAndMap : Prop :=
  let ready (s : State) : Prop := s.bootstat.getLsbD 31 = true
  let waits (i : Instr) : Prop := ∀ s : State, s.bootstat.getLsbD 31 = false → exec i s = .next { s with replies := s.replies ++ [.notReady] }
  let refuses (i : Instr) (s : State) : Prop := exec i s = .next { s with replies := s.replies ++ [.status false] }
  let gone (t : State) (part va n : Nat) : Prop := ∀ c : CoreRef, ∀ x ∈ (t.core c).tlb, x.part = part → ¬(x.vpage < va + n ∧ va < x.vpage + pageBytes x.size)
  let b (x : Bool) (k : Nat) : Nat := if x then 2 ^ k else 0
  let shot (t : State) (part : Nat) (x : Nat × Nat × Nat) (va : Dword) : Prop :=
    gone t part (va.toNat % 2 ^ 57 / leafBytes x.1 x.2.2 * leafBytes x.1 x.2.2) (leafBytes x.1 x.2.2)
  let moving (d : DirEntry) : Prop := d.home = .moving
  (∀ (s : State) (at_ : CoreRef) (va : Dword) (write : Bool),
    (s.residentOn at_.die = none → exec (.pageWalk at_ va write) s = .next s) ∧
    (∀ p, s.residentOn at_.die = some p → (s.core at_).tlb.find? (fun t => t.covers p.num (va.toNat % 2 ^ 57) && (t.dirty || !write)) = none →
      (∀ a0 e0, s.walk p.num (va.toNat % 2 ^ 57) = .leaf a0 e0 → at_.die < 8 → at_.core < 96 → let n := runLength (bits e0 11 9)
        ∃ t a e, exec (.pageWalk at_ va write) s = .next t ∧ t.groups = s.groups ∧
        ((a = a0 ∧ e = e0) ∨ (n ≠ 1 ∧ a / 8 / n = a0 / 8 / n ∧ e = s.mem.num a 8 ∧ bit e 0 = true ∧ bits e 11 9 = bits e0 11 9 ∧ leafBody e ≠ leafBody e0)) ∧
        t.mem.num a 8 = (e ||| 2 ^ 7) ||| b write 8 ∧ (∀ x, (x < a ∨ a + 8 ≤ x) → t.mem.byte x = s.mem.byte x) ∧
        (t.core at_).tlb.head? = some (s.tlbOf p.num (va.toNat % 2 ^ 57) ((e ||| 2 ^ 7) ||| b write 8))) ∧
      (∀ cause : Nat, (s.walk p.num (va.toNat % 2 ^ 57) = .invalid ∧ cause = 0) ∨ (s.walk p.num (va.toNat % 2 ^ 57) = .malformed ∧ cause = 2) →
        ∀ q, s.part? p.num = some q → q.faults.find? (fun f => f.vpage == va.toNat / 4096 * 4096 && f.answer.isNone) = none →
          ∃ t q', exec (.pageWalk at_ va write) s = .next t ∧ t.msix = s.msix + 1 ∧ t.mem = s.mem ∧ t.part? p.num = some q' ∧ q'.nextSeq = q.nextSeq + 1 ∧
            q'.faults = q.faults ++ [{ seq := q.nextSeq, vpage := va.toNat / 4096 * 4096, unitId := 0, die := at_.die % 8, core := at_.core, cause := cause,
                                       kind := if write then 1 else 0, answer := if cause = 2 then some false else none }]))) ∧
  (∀ part seq, waits (.resolve part seq) ∧ waits (.fail part seq) ∧ ∀ s : State, ready s →
    let open_ : Prop := ∃ p, s.part? part = some p ∧ ∃ f ∈ p.faults, f.seq = seq ∧ f.answer = none
    (¬open_ → refuses (.resolve part seq) s ∧ refuses (.fail part seq) s) ∧
    (open_ → ∃ t, exec (.resolve part seq) s = .next t ∧ t.faultAnswer part seq = some true ∧ t.groups = s.groups ∧ t.replies = s.replies ++ [.status true]) ∧
    (open_ → (∀ c : CoreRef, (∀ k ∈ (s.core c).copies, ¬(k.part = part ∧ k.block = some (.fault seq))) ∧ (s.core c).mint.block ≠ some (.fault seq)) →
      (s.waitersOn part seq = [] → ∃ t, exec (.fail part seq) s = .next t ∧ t.faultAnswer part seq = some false ∧ t.groups = s.groups ∧ t.replies = s.replies ++ [.status true]) ∧
      (∀ r x, s.waitersOn part seq = [r] → (s.slice r).wait = some (.replay (.fault seq) x) → (s.group r.gid).part = part →
        ∃ v, s.answerFault part seq false = some v ∧ v.faultAnswer part seq = some false ∧ exec (.fail part seq) s = .next ((v.resume r (s.slice r).pc (s.slice r).pc (.trap x)).reply (.status true))))) ∧
  (∀ part (m : MapCommand), waits (.map part m) ∧ ∀ s : State, ready s → ∀ p, s.part? part = some p →
    let n := pageBytes m.size
    let bad : Prop := canonical m.va = false ∨ m.va.toNat % 2 ^ 57 % n ≠ 0 ∨ 7 < m.size ∨ (m.mig = true ∧ m.home = .moving) ∨
      ∃ q ∈ s.partitions, m.frame < q.ptroot + (q.tableEnd - q.ptroot) ∧ q.ptroot < m.frame + n
    (bad → refuses (.map part m) s) ∧
    (∀ v table, ¬bad → s.tableFor part (m.va.toNat % 2 ^ 57) (sizeLevel m.size) (4 - sizeLevel m.size) p.ptroot = (v, some table) →
      ∃ t, exec (.map part m) s = .next t ∧ t.replies = v.replies ++ List.replicate (p.heldRequests (m.va.toNat % 2 ^ 57) n) (.migration true) ++ [.status true] ∧
        ∀ k, k < runLength m.size → t.mem.num (table + 8 * (m.va.toNat / 2 ^ (12 + 9 * sizeLevel m.size) % 512) + 8 * k) 8 =
          1 + b m.perm.r 2 + b m.perm.w 3 + b m.perm.x 4 + b m.perm.fe 5 + m.size * 2 ^ 9 + m.frame % 2 ^ 52 / 4096 * 4096 + b m.mig 52)) ∧
  (∀ part (va : Dword) (perm : Perm), waits (.unmap part va) ∧ waits (.protect part va perm) ∧ ∀ s : State, ready s →
    (s.leafOf part va.toNat = none → refuses (.unmap part va) s ∧ refuses (.protect part va perm) s) ∧
    (∀ x, s.leafOf part va.toNat = some x → let run := runOf x.1 x.2.1 x.2.2
      (∃ t, exec (.unmap part va) s = .next t ∧ t.replies = s.replies ++ (match s.part? part with
          | some p => List.replicate (p.heldRequests (va.toNat % 2 ^ 57 / leafBytes x.1 x.2.2 * leafBytes x.1 x.2.2) (leafBytes x.1 x.2.2)) (.migration true)
          | none => []) ++ [.status true] ∧ shot t part x va ∧ (∀ k, k < run.2 → t.mem.num (run.1 + 8 * k) 8 = 0) ∧
        (∀ a, (a < run.1 ∨ run.1 + 8 * run.2 ≤ a) → t.mem.byte a = s.mem.byte a)) ∧
      (∃ t, exec (.protect part va perm) s = .next t ∧ t.replies = s.replies ++ [.status true] ∧ shot t part x va ∧
        (∀ k, k < run.2 → t.mem.num (run.1 + 8 * k) 8 = x.2.2 / 512 * 512 + x.2.2 % 4 + b perm.r 2 + b perm.w 3 + b perm.x 4 + b perm.fe 5) ∧
        (∀ a, (a < run.1 ∨ run.1 + 8 * run.2 ≤ a) → t.mem.byte a = s.mem.byte a)))) ∧
  (∀ (s : State) (part vpage : Nat), waits (.hostMigrationRequest part vpage) ∧
    (s.dirEntry? part vpage = none → exec (.migrationRequest part vpage) s = .next s ∧ exec (.moveComplete part vpage) s = .next s ∧ exec (.pinExpiry part vpage) s = .next s ∧
      (ready s → refuses (.hostMigrationRequest part vpage) s)) ∧
    (∀ d, s.dirEntry? part vpage = some d →
      ((moving d ∨ d.pinned = true ∨ d.home = .dev) → exec (.migrationRequest part vpage) s = .next s) ∧
      (∀ f, ¬moving d → d.pinned = false → d.home ≠ .dev → d.devFrame = some f → ∃ t, exec (.migrationRequest part vpage) s = .next t ∧ t.mem = s.mem ∧ gone t part vpage 4096 ∧
        t.dirEntry? part vpage = some { d with home := .moving, source := d.home, target := .dev }) ∧
      (ready s → moving d → ∃ t, exec (.hostMigrationRequest part vpage) s = .next t ∧ t.replies = s.replies ∧ t.dirEntry? part vpage = some { d with hostHeld := d.hostHeld + 1 }) ∧
      (ready s → ¬moving d → (d.pinned = true ∨ d.home = .host) → exec (.hostMigrationRequest part vpage) s = .next { s with replies := s.replies ++ [.migration false] }) ∧
      (∀ f, ready s → ¬moving d → d.pinned = false → d.home ≠ .host → d.hostFrame = some f → ∃ t, exec (.hostMigrationRequest part vpage) s = .next t ∧ gone t part vpage 4096 ∧
        t.replies = s.replies ∧ t.dirEntry? part vpage = some { d with home := .moving, source := d.home, target := .host }) ∧
      (∀ p l a e, s.part? part = some p → s.leafOf part vpage = some (l, a, e) →
        (¬moving d → exec (.moveComplete part vpage) s = .next s) ∧
        (moving d →
          let src := d.frame d.source
          let dst := d.frame d.target
          let fresh_ : Bool := match d.wstart with | some w => decide (w + p.thrashW * 1000 ≤ s.nanos) | none => true
          let n := if fresh_ then 1 else d.moves + 1
          let d0 : DirEntry := { d with home := d.target, hostHeld := 0, turn := d.turn + 1 }
          let d' : DirEntry :=
            if d.source = .unpop then d0
            else if p.thrashN < n then { d0 with moves := n, wstart := if fresh_ then some s.nanos else d.wstart, pinUntil := s.nanos + p.thrashT * 1000, pinned := true }
            else { d0 with moves := n, wstart := if fresh_ then some s.nanos else d.wstart }
          ∃ t, exec (.moveComplete part vpage) s = .next t ∧ t.dirEntry? part vpage = some d' ∧
            t.replies = s.replies ++ (if d.target = .host then [.migration false] else []) ++ List.replicate d.hostHeld (.migration true) ∧
            t.mem.num a 8 % 4096 = e % 4096 ∧ t.mem.num a 8 / 4096 % 2 ^ 40 = dst % 2 ^ 52 / 4096 ∧ (t.mem.num a 8).testBit 52 = true ∧
            (t.mem.num a 8).testBit 53 = (d'.pinned && decide (d.target = .host)) ∧
            (d.source ≠ .unpop → (dst + 4096 ≤ src ∨ src + 4096 ≤ dst) → (a + 8 ≤ dst ∨ dst + 4096 ≤ a) →
              (∀ i, i < 4096 → t.mem.byte (dst + i) = s.mem.byte (src + i)) ∧ (src % 8 = 0 → dst % 8 = 0 → ∀ k, k < 512 → t.mem.full (dst + 8 * k) = s.mem.full (src + 8 * k))) ∧
            (d.source = .unpop → dst % 8 = 0 → (a + 8 ≤ dst ∨ dst + 4096 ≤ a) → (∀ i, i < 4096 → t.mem.byte (dst + i) = 0) ∧ ∀ k, k < 512 → t.mem.full (dst + 8 * k) = true) ∧
            (∀ x, (x < a ∨ a + 8 ≤ x) → (x < dst ∨ dst + 4096 ≤ x) → t.mem.byte x = s.mem.byte x))) ∧
      (∀ l a e, s.leafOf part vpage = some (l, a, e) →
        ((d.pinned = false ∨ s.nanos < d.pinUntil) → exec (.pinExpiry part vpage) s = .next s) ∧
        (d.pinned = true → d.pinUntil ≤ s.nanos → ∃ t, exec (.pinExpiry part vpage) s = .next t ∧ gone t part vpage 4096 ∧
          t.dirEntry? part vpage = some { d with pinned := false, moves := 0, wstart := some s.nanos } ∧ (t.mem.num a 8).testBit 53 = false ∧
          t.mem.num a 8 % 2 ^ 52 = e % 2 ^ 52 ∧ ∀ x, (x < a ∨ a + 8 ≤ x) → t.mem.byte x = s.mem.byte x)))) ∧
  (∀ (s : State) (k : Nat),
    (s.remotes[k]? = none → exec (.pinnedRemoteService k) s = .next s) ∧
    (∀ x, s.remotes[k]? = some x →
      (((∃ y ∈ s.remotes.take k, y.pa / 4096 = x.pa / 4096) ∨ (s.group x.ref.gid).swapped = true) → exec (.pinnedRemoteService k) s = .next s) ∧
      (∀ a, (∀ y ∈ s.remotes.take k, y.pa / 4096 ≠ x.pa / 4096) → (s.group x.ref.gid).swapped = false → s.accessOf x.ref = some a → a.lanes.get x.lane = .remote →
        let v := { s with remotes := s.remotes.eraseIdx k }
        let bad := v.poisonedTargets a [(x.lane, .at_ (.glb x.pa))]
        let y := v.presentLane x.ref a x.lane (.glb x.pa)
        let z := y.1.restAccess x.ref y.2
        (bad ≠ 0 → exec (.pinnedRemoteService k) s = .next ((v.dropAccess x.ref a).resume x.ref a.addr a.next (.poison bad (originOf a.space (a.lowest bad))))) ∧
        (bad = 0 → (z.1.slice x.ref).retry.lost = false ∨ z.2 = .next → exec (.pinnedRemoteService k) s = .next (z.1.resume x.ref a.addr a.next z.2)))))

/-- R396, R398 to R402, R418, R460, R461: firmware's region table changes once no request of the old generation is outstanding, and a table that breaks a rule is refused; a base die that is out of reset takes a request unless its port has the tag in use; a write is performed in its place of arrival, and a read answers with what its line then held; a request that has stalled for a tag takes the one an answer frees; reads and writes of one line are answered in order, a wrong generation is refused, poison is reported and cleared, and lines are scrubbed; a host port reads and writes device memory and gives lines back. The model's choices here: which lines the hosts hold (log 48, DESIGN CHOICE), and what the requesters do between a rewrite's acknowledgements and its end, by which a request waits or is answered RETRY-GEN (log 89, DEDUCED). -/
def Obligations.BaseDiesAndHosts : Prop :=
  let nStacks (e : RegionEntry) : Nat := ((List.range 16).filter (fun i => e.stackMask.getLsbD i)).length
  let sound (e : RegionEntry) : Prop := e.kind ≤ 2 ∧ (e.kind = 0 → 0 < nStacks e ∧ e.sofs + ((e.size + 1) * 2 ^ 18 + nStacks e - 1) / nStacks e ≤ 2 ^ 24)
  let apart (e f : RegionEntry) : Prop := e.base + e.size < f.base ∨ f.base + f.size < e.base
  let first (b : BaseDie) (x : BaseFlight) : Prop := x.status = 1 ∨ b.flights.find? (fun y => y.q.line == x.q.line && y.status == 0) = some x
  let carried (s : State) (n : Nat) : List BaseFlight := (s.base n).flights ++ (s.base n).stalled
  let idle (s : State) : Prop := ∀ n, n < 16 → ∀ x ∈ carried s n, x.q.gen ≠ s.generation
  (∀ (s : State) (es : List RegionEntry),
    let good : Prop := es.length ≤ 1024 ∧ (∀ e ∈ es, sound e) ∧ es.Pairwise apart ∧ s.rewrite = none
    (¬good → exec (.regionTableRewrite es) s = .next { s with replies := s.replies ++ [.status false] }) ∧
    (good → idle s → ∃ t, exec (.regionTableRewrite es) s = .next t ∧ t.regions = es ∧ t.generation = (s.generation + 1) % 256 ∧ t.rewrite = none ∧ t.mem = s.mem ∧
      t.replies = s.replies ++ [.status true]) ∧
    (good → ¬idle s → ∃ t w, exec (.regionTableRewrite es) s = .next t ∧ { t with rewrite := s.rewrite, dies := s.dies } = s ∧ t.rewrite = some w ∧ w.entries = es ∧ w.waiting = [] ∧ w.own = [] ∧
      (∀ n, n ∈ w.baseAcks ↔ n < 16 ∧ ∀ x ∈ carried s n, x.q.gen ≠ s.generation) ∧
      (∀ n, n ∈ w.dieAcks ↔ n < 8 ∧ ∀ x ∈ carried s (2 * n) ++ carried s (2 * n + 1), x.q.port < 48 → x.q.gen ≠ s.generation) ∧
      (∀ n, n ∈ w.dieAcks → (t.die n).homeMap = []))) ∧
  (∀ (s : State) (q : BaseRequest), q.stack < 16 →
    let taken : Prop := ∃ x ∈ (s.base q.stack).flights, x.q.port = q.port ∧ x.q.tag = q.tag
    let now : Prop := q.gen = s.generation ∨ (s.rewrite.isSome = true ∧ q.gen = (s.generation + 1) % 256)
    let table : List RegionEntry := if q.gen = s.generation then s.regions else match s.rewrite with | some w => w.entries | none => s.regions
    let place := paIn table q.stack q.line
    let flight (kind : Nat) : BaseFlight := match place with
      | some pa => ⟨kind, q, 0, s.mem.bytesAt pa 128, s.mem.marks pa, (s.mem.poisonAt 128 pa 128).isSome⟩
      | none => ⟨kind, q, 0, List.replicate 128 0, 0, false⟩
    let joins (t : State) (f : BaseFlight) : Prop := t.base q.stack = { s.base q.stack with flights := (s.base q.stack).flights ++ [f] }
    let arrives (i : Instr) (kind : Nat) : Prop :=
      (∀ w, s.rewrite = some w → q.gen = s.generation → w.acked q = true → exec i s = .next { s with rewrite := some { w with waiting := w.waiting ++ [(kind, q)] } }) ∧
      ((∀ w, s.rewrite = some w → q.gen = s.generation → w.acked q = false) →
        (((s.base q.stack).up = false ∨ taken) → exec i s = .next s) ∧
        ((s.base q.stack).up = true → ¬taken → ∃ t, exec i s = .next t ∧ { t with bases := s.bases, mem := s.mem, dies := s.dies } = s ∧ (∀ n, n ≠ q.stack → t.base n = s.base n) ∧
          (¬now → joins t ⟨kind, q, 1, [], 0, false⟩) ∧ (now → joins t (flight kind)) ∧
          ((¬now ∨ kind = 1 ∨ place = none) → t.mem = s.mem ∧ t.dies = s.dies) ∧
          (now → kind ≠ 1 → ∀ pa, place = some pa →
            (∀ n, n < 8 → (t.die n).l2 = if q.port < 48 ∧ n = s.homeDie pa then (s.die n).l2.map (fun (x : L2Line) => if x.line = pa / 128 then { x with dirty := false } else x) else (s.die n).l2) ∧
            (q.data.length = 128 → pa % 128 = 0 →
              (kind = 2 → t.mem.bytesAt pa 128 = q.data ∧ t.mem.marks pa = q.marks ∧ t.mem.poisonAt 128 pa 128 = none) ∧
              (kind = 3 → t.mem.marks pa = s.mem.marks pa ∧ t.mem.poison = s.mem.poison ∧
                ∀ k, k < 128 → t.mem.byte (pa + k) = if q.mask.getLsbD k then q.data.getD k 0 else s.mem.byte (pa + k)) ∧
              ∀ y, (y < pa ∨ pa + 128 ≤ y) → t.mem.byte y = s.mem.byte y))))
    arrives (.rd q) 1 ∧ arrives (.wr q) 2 ∧ arrives (.wrm q) 3) ∧
  (∀ (s : State) (n port tag : Nat) (x : BaseFlight), n < 16 → (s.base n).flights.find? (fun y => y.q.port == port && y.q.tag == tag) = some x →
    let left := (s.base n).flights.erase x
    (¬first (s.base n) x → exec (.rdr n port tag) s = .next s ∧ exec (.wack n port tag) s = .next s) ∧
    (x.kind = 1 → exec (.wack n port tag) s = .next s) ∧ (x.kind ≠ 1 → exec (.rdr n port tag) s = .next s) ∧
    let i : Instr := if x.kind = 1 then .rdr n port tag else .wack n port tag
    let b : BaseDie := { s.base n with flights := left, replied := some (
      if x.status = 1 then ⟨if x.kind = 1 then 8 else 9, x.q.port, x.q.tag, 1, [], 0, false⟩
      else if x.kind = 1 then ⟨8, x.q.port, x.q.tag, if x.poison then 2 else 0, x.data, x.marks, x.poison⟩ else ⟨9, x.q.port, x.q.tag, 0, [], 0, false⟩) }
    let waiting : Option BaseFlight := (s.base n).stalled.find? (fun f => f.q.port == x.q.port)
    (first (s.base n) x → x.status = 1 → waiting = none → exec i s = .next (((s.modBase n (fun _ => b)).retryGen x).finishRewrite)) ∧
    (first (s.base n) x → x.status ≠ 1 → s.rewrite = none → ∃ t, exec i s = .next t ∧ { t with bases := s.bases } = s ∧ (∀ m, m ≠ n → t.base m = s.base m) ∧
      (t.base n).replied = b.replied ∧ (t.base n).llc.head? = some (x.q.line / 128) ∧
      (waiting = none → (t.base n).flights = left ∧ (t.base n).stalled = (s.base n).stalled) ∧
      (∀ f k, waiting = some f → (s.base n).up = true → k < 8 → (∀ y ∈ left, ¬(y.q.port = f.q.port ∧ y.q.tag = k)) → (∀ j, j < k → ∃ y ∈ left, y.q.port = f.q.port ∧ y.q.tag = j) →
        (t.base n).stalled = (s.base n).stalled.erase f ∧ (t.base n).flights = left ++ [s.flightOf f.kind { f.q with tag := k }]))) ∧
  (∀ (s : State) (n port tag : Nat), (∀ y ∈ (s.base n).flights, ¬(y.q.port = port ∧ y.q.tag = tag)) → exec (.rdr n port tag) s = .next s ∧ exec (.wack n port tag) s = .next s) ∧
  (∀ (s : State) (n line : Nat), n < 16 → ∃ t, exec (.scrub n line) s = .next t ∧ { t with bases := s.bases } = s ∧ line ∈ (t.base n).scrubbed ∧
    { t.base n with scrubbed := (s.base n).scrubbed } = s.base n) ∧
  (∀ (s : State) (port pa n : Nat) (data : List Byte) (mark : Bool),
    let there (m : Nat) : Prop := s.portsUp.getLsbD port = true ∧ port < 2 ∧ ∀ l ∈ linesOf pa m, s.physKind (l * 128) = .device
    (¬there n → exec (.cxlMemRead port pa n) s = .next s) ∧
    (there n → ∃ t, exec (.cxlMemRead port pa n) s = .next t ∧ t.mem = s.mem ∧ t.replies = s.replies ++ [.memory (s.mem.bytesAt pa n) (s.mem.poisonAt 128 pa n).isSome] ∧
      ∀ l ∈ linesOf pa n, (port, l) ∈ t.hostLines) ∧
    (¬there data.length → exec (.cxlMemWrite port pa data mark) s = .next s) ∧
    (there data.length → ∃ t, exec (.cxlMemWrite port pa data mark) s = .next t ∧ t.mem = s.mem.store 128 pa data mark ∧ ∀ l ∈ linesOf pa data.length, (port, l) ∉ t.hostLines)) ∧
  (∀ (s : State) (k : Nat), exec (.backInvalidateResponse k) s = .next { s with backInvalidates := s.backInvalidates.eraseIdx k })

/-! ### Dies, errors, power and start-up -/

/-- R328, R404, R406, R411, R412, R413, R416, R417, R426 to R428: a refresh of a die's time pair is written only where its estimate stays monotone; an uncorrectable error poisons the storage it strikes or is contained at the narrowest level; corrected errors are counted and polled; a die reset ends its partitions and poisons dirty lines unless planned; the module cap is the lowest valid one; a die's clock step follows power and temperature, and at 120 degrees the package resets; a base die refreshes twice as often, then at half bandwidth; a retraining die-to-die link holds packets. The model's choices here: which refreshes firmware makes (log 78) and the pair that a die has after a reset (logs 8 and 78), one entry for each error, in the log of the first partition that it concerns or in the device's own, its cause, and no interrupt for a poll (log 41), the share of a die and when POWER and CAP are set (log 43), a link for each pair of dies (log 38), what a die reset takes from a partition in the vaults (log 47), and shared memories of zeros after a die reset (log 7). -/
def Obligations.DiesErrorsAndPower : Prop :=
  let capOk (s : State) (x : Nat × Nat) : Prop := (2 ≤ x.1 ∨ s.portsUp.getLsbD x.1 = true) ∧ 1600 ≤ x.2 ∧ x.2 ≤ 3200
  let link (a c : Nat) : Nat := 8 + min a c * (15 - min a c) / 2 + (max a c - min a c - 1)
  let met (s : State) (p : ClearPacket) : Prop := p.fromDie ≠ p.toDie ∧ s.ucie.getD (link p.fromDie p.toDie) false = true
  let logged (s t : State) (parts : List Nat) (cause : Nat) (site : ErrorSite) : Prop := t.msix = s.msix + 1 ∧
    match parts with
    | p :: _ => t.deviceLog = s.deviceLog ∧ ∀ x, s.part? p = some x → t.part? p = some { x with errorLog := x.errorLog ++ [⟨cause, some site⟩] }
    | [] => t.deviceLog = s.deviceLog ++ [⟨cause, some site⟩]
  (∀ (s : State) (n : Nat) (tofs trate : Dword), n < 8 →
    let d := s.die n
    let est (o r : Dword) : Dword := o + dword (d.time.toNat * r.toNat / 2 ^ 40)
    let gap (g : Dword) : Nat := min (g - (s.die 0).time).toNat ((s.die 0).time - g).toNat
    let near : Prop := gap (est tofs trate) ≤ max 50 (gap (est d.tofs d.trate))
    let rate : Prop := trate.toNat * 999950 ≤ 2 ^ 40 * 1000050 ∧ 2 ^ 40 * 999950 ≤ trate.toNat * 1000050
    let ok : Prop := near ∧ rate ∧ (est tofs trate - est d.tofs d.trate).toNat ≤ 4
    ((n = 0 ∨ ¬ok) → exec (.timeRefresh n tofs trate) s = .next s) ∧
    (n ≠ 0 → ok → ∃ t, exec (.timeRefresh n tofs trate) s = .next t ∧ t.die n = { d with tofs := tofs, trate := trate } ∧ (∀ k, k ≠ n → t.die k = s.die k) ∧
      { t with dies := s.dies } = s)) ∧
  (∀ (s : State), let strikes (site : ErrorSite) (after : State → Prop) : Prop := ∃ t, exec (.uncorrectableError site) s = .next t ∧ after t
    (∀ pa, strikes (.memory pa) (fun t => t.mem = s.mem.addPoison 128 pa 1 ∧ t.groups = s.groups ∧ t.dies = s.dies ∧ logged s t (s.partsMapping pa) 0 (.memory pa))) ∧
    (∀ g off x, s.group? g = some x → strikes (.scr g off) (fun t => t.mem = s.mem ∧ logged s t [x.part] 0 (.scr g off) ∧ t.dies = s.dies ∧ (∀ j, j ≠ g → t.group j = s.group j) ∧
      t.group g = if off / 128 ∈ x.absent then { x with backing := x.backing.addPoison 8 (off / 128 * 128) 128 } else { x with scr := x.scr.addPoison 8 off 1 })) ∧
    (∀ d k off, d < 8 → k < 12 → strikes (.cls d k off) (fun t => t.mem = s.mem ∧ logged s t (match s.residentOn d with | some p => [p.num] | none => []) 0 (.cls d k off) ∧ t.groups = s.groups ∧
      (t.die d).cls.getD k Memory.blank = ((s.die d).cls.getD k Memory.blank).addPoison 8 off 1 ∧ ∀ j, j ≠ k → (t.die d).cls.getD j Memory.blank = (s.die d).cls.getD j Memory.blank)) ∧
    (∀ d off, d < 8 → strikes (.chp d off) (fun t => t.mem = s.mem ∧ t.groups = s.groups ∧ t.die d = { s.die d with chp := (s.die d).chp.addPoison 8 off 1 })) ∧
    (∀ r l off, r.idx < (s.group r.gid).slices.length → l < 4 → strikes (.laneStore r l off) (fun t => t.mem = s.mem ∧ t.dies = s.dies ∧
      t.slice r = { s.slice r with store := (s.slice r).store.set l (((s.slice r).store.get l).addPoison 8 off 1) })) ∧
    (∀ r spec l, r.idx < (s.group r.gid).slices.length → strikes (.register r spec l) (fun t => t.mem = s.mem ∧ t.dies = s.dies ∧
      t.slice r = if spec < 128 then { s.slice r with v := (s.slice r).v.modify spec (fun x => { x with poison := x.poison.set l (some 0) }) }
        else { s.slice r with s := (s.slice r).s.modify (spec - 128) (fun x => { x with poison := some 0 }) })) ∧
    (∀ c tile row col, c.die < 8 → c.core < 96 → strikes (.tile c tile row col) (fun t => t.groups = s.groups ∧ (tile, 32 * row + col, 0) ∈ (t.core c).matrix.tilePoison)) ∧
    (∀ c n, c.die < 8 → c.core < 96 → strikes (.coins c n) (fun t => t.groups = s.groups ∧ n ∈ (t.core c).mint.poisoned)) ∧
    (∀ c l, c.die < 8 → c.core < 96 → strikes (.parity (.l1 c l)) (fun t => t.mem = s.mem ∧ t.groups = s.groups ∧ (t.core c).tlb = (s.core c).tlb ∧
      (∀ x, x ∈ (t.core c).l1 ↔ x ∈ (s.core c).l1 ∧ x.line ≠ l))) ∧
    (∀ c part v, c.die < 8 → c.core < 96 → strikes (.parity (.tlb c part v)) (fun t => t.mem = s.mem ∧ t.groups = s.groups ∧ (t.core c).l1 = (s.core c).l1 ∧
      (∀ x, x ∈ (t.core c).tlb ↔ x ∈ (s.core c).tlb ∧ ¬(x.part = part ∧ x.vpage = v)))) ∧
    (∀ part a, strikes (.parity (.walk part a)) (fun t => t.mem = s.mem ∧ t.groups = s.groups ∧ t.dies = s.dies ∧ ∀ q, t.part? part = some q → a ∉ q.walked)) ∧
    (∀ c o, c.die < 8 → c.core < 96 → strikes (.parity (.panel c o)) (fun t => t.mem = s.mem ∧ (t.core c).matrix.tiles = (s.core c).matrix.tiles ∧
      (t.core c).matrix.panels = (s.core c).matrix.panels.map (fun p => if p.start = o then readPanel (s.group p.gid).whole p.gid p.start p.source else p))) ∧
    (∀ c x, c.die < 8 → c.core < 96 → strikes (.parity (.stage c x)) (fun t => t.mem = s.mem ∧ (t.core c).matrix.panels = (s.core c).matrix.panels ∧
      ∀ j, j ≠ x → (t.core c).matrix.stages.getD j none = (s.core c).matrix.stages.getD j none)) ∧
    (∀ c, c.die < 8 → c.core < 96 → strikes (.parity (.store c)) (fun t => (s.core c).mint.cpv = false → t.mem = s.mem ∧ (t.core c).mint = { (s.core c).mint with coupling := none, tag := none })) ∧
    (∀ r, r.idx < (s.group r.gid).slices.length → strikes (.sliceControl r) (fun t => (t.slice r).ended = true ∧ (t.slice r).trap.xcause &&& 0x1F = 0x18 ∧ (t.slice r).trap.xinfo = 2 ∧
      ∀ u, s.unit? (s.group r.gid).uid = some u → ∃ v, t.unit? (s.group r.gid).uid = some v ∧ v.cancelled = some (u.cancelled.getD 0x18))) ∧
    (∀ c, c.die < 8 → c.core < 96 → strikes (.coreShared c) (fun t => (t.core c).l1 = [] ∧ (t.core c).copies = [] ∧ (t.core c).matrix = Matrix.clear ∧
      ∀ g x j, s.group? g = some x → x.coreRef = c → x.swapped = false → j < x.slices.length → (t.slice ⟨g, j⟩).ended = true)) ∧
    (∀ d, strikes (.dieShared d) (fun t => ∀ p ∈ s.partitions, p.dies.getLsbD d = true → t.part? p.num = none)) ∧
    strikes .controlDie (fun t => t.bootstat = 0 ∧ t.groups = [] ∧ t.partitions = [] ∧ t.mem = s.mem ∧ t.flashA = s.flashA ∧ t.flashB = s.flashB ∧ t.deviceLog = s.deviceLog ++ [⟨0x18, some .controlDie⟩] ∧
      t.replies = s.replies ++ [.fatal, .fatal])) ∧
  (∀ (s : State) (n : Nat) (planned : Bool), n < 8 → let d := s.die n
    (d.inReset = true → exec (.dieReset n planned) s = .next s) ∧
    (d.inReset = false → ∃ t, exec (.dieReset n planned) s = .next t ∧ (∀ p ∈ s.partitions, p.dies.getLsbD n = true → t.part? p.num = none) ∧
      t.die n = { Die.held with inReset := false, tofs := if n = 0 then 0 else (s.die 0).time, step := d.step, temp := d.temp, thermal := d.thermal, power := d.power, capped := d.capped } ∧
      (∀ a, t.mem.byte a = s.mem.byte a) ∧ (planned = true → t.mem = s.mem) ∧
      (planned = false → (∀ x ∈ d.l2, x.dirty = true → (t.mem.poisonAt 128 (128 * x.line) 128).isSome = true) ∧
        ∀ m l k, m < 8 → (l, k) ∈ (s.die m).owned → k / 96 = n → (t.mem.poisonAt 128 (128 * l) 128).isSome = true))) ∧
  (∀ (s : State) (unit k row : Nat),
    (unit < 8 → ∃ t, exec (.correctedError unit k row) s = .next t ∧ { t with dies := s.dies } = s ∧ t.die unit = { s.die unit with corrected := (s.die unit).corrected ++ [(k, s.nanos)] }) ∧
    (8 ≤ unit → unit < 24 → ∃ t, exec (.correctedError unit k row) s = .next t ∧ { t with bases := s.bases } = s ∧
      t.base (unit - 8) = { s.base (unit - 8) with corrected := (s.base (unit - 8)).corrected ++ [(k, s.nanos)], rowErrors := (s.base (unit - 8)).rowErrors ++ [(row, s.nanos)] })) ∧
  (∀ (s : State), let few (l : List (Nat × Nat)) (x : Nat × Nat) : Bool := decide ((l.filter (fun y => y.1 == x.1 && decide (s.nanos ≤ y.2 + 3600 * 10 ^ 9))).length < 256)
    ∃ t, exec .errorCountPoll s = .next t ∧ t.mem = s.mem ∧ t.groups = s.groups ∧
      (∀ n, n < 8 → (t.die n).corrected = (s.die n).corrected.filter (few (s.die n).corrected)) ∧ (∀ n, n < 16 → (t.base n).corrected = (s.base n).corrected.filter (few (s.base n).corrected)) ∧
      ((∀ n, n < 8 → ∀ x ∈ (s.die n).corrected, few (s.die n).corrected x = true) → (∀ n, n < 16 → ∀ x ∈ (s.base n).corrected, few (s.base n).corrected x = true) → t.partitions = s.partitions ∧ t.deviceLog = s.deviceLog) ∧
      (∀ n, n < 16 → ∀ x ∈ (s.base n).corrected, few (s.base n).corrected x = false → ⟨0, none⟩ ∈ t.deviceLog) ∧ t.msix = s.msix) ∧
  (∀ (s : State) (caps : List (Nat × Nat)),
    (s.bootstat.getLsbD 31 = false → exec (.moduleCap caps) s = .next { s with replies := s.replies ++ [.notReady] }) ∧
    (s.bootstat.getLsbD 31 = true → (∀ x ∈ caps, ¬capOk s x) → exec (.moduleCap caps) s = .next { s with replies := s.replies ++ [.status false] }) ∧
    (∀ x ∈ caps, s.bootstat.getLsbD 31 = true → capOk s x → (∀ y ∈ caps, capOk s y → x.2 ≤ y.2) →
      exec (.moduleCap caps) s = .next { s with moduleCap := x.2, replies := s.replies ++ [.status true] })) ∧
  (∀ (s : State) (n mw temp : Nat), n < 8 → let d := s.die n
    let share := s.moduleCap * 1000 * 300 / 3200
    let step := if 110 ≤ temp then 4 else if 105 ≤ temp ∨ share < mw then max 4 (d.step - 1) else if 10 * mw < 9 * share then min 16 (d.step + 1) else d.step
    (120 ≤ temp → ∃ t, exec (.stepControl n mw temp) s = .next t ∧ t.bootstat = 0 ∧ t.partitions = [] ∧ t.groups = [] ∧ t.flashEvents = s.flashEvents + 1 ∧
      t.replies = s.replies ++ [.fatal, .fatal]) ∧
    (temp < 120 → ∃ t, exec (.stepControl n mw temp) s = .next t ∧ { t with dies := s.dies } = s ∧ (∀ k, k ≠ n → t.die k = s.die k) ∧
      t.die n = { d with step := step, temp := temp, thermal := decide (105 ≤ temp), power := decide (temp < 105 ∧ step < 16 ∧ 9 * share ≤ 10 * mw),
                         capped := decide (temp < 105 ∧ step < 16 ∧ 9 * share ≤ 10 * mw ∧ s.moduleCap < 3200) })) ∧
  (∀ (s : State) (n temp : Nat), n < 16 → ∃ t, exec (.baseDieThermal n temp) s = .next t ∧ { t with bases := s.bases } = s ∧
    t.base n = { s.base n with doubleRefresh := decide (95 ≤ temp), halfBandwidth := decide (105 ≤ temp) } ∧ ∀ k, k ≠ n → t.base k = s.base k) ∧
  (∀ (s : State) (n : Nat), n < s.ucie.length →
    (∃ t, exec (.ucieRetrain n) s = .next t ∧ t.ucie.getD n false = true ∧ { t with ucie := s.ucie, clearPackets := s.clearPackets } = s ∧
      (∀ p ∈ t.clearPackets, p.heldBy = none → ¬met t p) ∧ t.clearPackets.length = s.clearPackets.length) ∧
    (∃ t, exec (.ucieRetrainEnd n) s = .next t ∧ t.ucie.getD n false = false ∧ { t with ucie := s.ucie, clearPackets := s.clearPackets, partitions := s.partitions } = s ∧
      t.partitions = s.partitions.map (fun (p : Partition) => { p with savedClear := p.savedClear.map (fun (c : ClearPacket) => if c.heldBy = some n then { c with heldBy := none } else c) }) ∧
      (∀ p ∈ t.clearPackets, p.heldBy = none → ¬met t p) ∧ (∀ p ∈ t.clearPackets, p.heldBy ≠ some n) ∧ t.clearPackets.length = s.clearPackets.length))

/-- R419 to R425: a control-die reset boots the preferred slot, or the other, or stops in recovery with its stage and error; recovery boots an image from the mailbox; an update writes the slot that does not run and prefers it once verified; COMMIT advances the rollback counter; a report is signed over a nonce. The model's choices here: where a failed boot stops and with which error, and that a second attempt has hardware tests of its own (log 64, DEDUCED), SHA-512 and Ed25519 as their standards give them (log 11, PRESUMED), which port may give COMMIT (log 42, DEDUCED), and the fields of an image and the bytes of the partition tables (log 10, DESIGN CHOICE). -/
def Obligations.StartUpAndIdentity : Prop :=
  let b (x : Bool) (k : Nat) : Nat := if x then 2 ^ k else 0
  let slot (s : State) (x : Bool) : Option (List Byte) := (if x then s.flashB else s.flashA).map (fun f => f.image)
  let served (s : State) (port : Nat) : Prop := 2 ≤ port ∨ s.portsUp.getLsbD port = true
  let notReady (i : Instr) : Prop := ∀ s : State, s.bootstat.getLsbD 31 = false → exec i s = .next { s with replies := s.replies ++ [.notReady] }
  let refuses (i : Instr) (s : State) : Prop := exec i s = .next { s with replies := s.replies ++ [.status false] }
  (∀ (s : State) (o : BootOutcome), let p := s.preferB
    (s.slotError true ≠ 0 → s.slotError false ≠ 0 → ∃ t, exec (.controlDieReset o) s = .next t ∧ t.bootstat = word (2 ^ 30 + 2 * 2 ^ 8 + s.slotError (!p)) ∧ t.partitions = [] ∧ t.groups = [] ∧
      t.mem = s.mem ∧ t.flashA = s.flashA ∧ t.flashB = s.flashB ∧ t.replies = s.replies ∧ ∀ n, n < 16 → (t.base n).up = false) ∧
    (s.slotError p = 0 → o.hbm = true → o.ucie = true → o.region = true → ∃ t img, slot s p = some img ∧ exec (.controlDieReset o) s = .next t ∧
      t.bootstat = word (2 ^ 31 + b p 29 + o.dies.toNat * 2 ^ 16 + 6 * 2 ^ 8) ∧ t.partitions = [] ∧ t.groups = [] ∧ t.portsUp = o.ports ∧ t.preferB = p ∧ t.pendingCommit = s.pendingCommit ∧
      t.fusesLocked = true ∧ t.imageDigest = imageDigestOf img ∧ t.attestationSeed = some ((sha512 (s.deviceSecret ++ imageDigestOf img)).take 32) ∧
      (∀ n, n < 8 → (t.die n).inReset = !o.dies.getLsbD n) ∧ (∀ n, n < 16 → (t.base n).up = true) ∧ (∀ a, t.mem.byte a = if a < 2 ^ 40 then 0 else s.mem.byte a) ∧
      t.flashA = s.flashA ∧ t.flashB = s.flashB ∧ t.rollback = s.rollback) ∧
    (s.slotError p = 0 → s.pendingCommit = none → o.hbm = false → ∃ t, exec (.controlDieReset o) s = .next t ∧ t.bootstat = word (2 ^ 30 + b p 29 + 3 * 2 ^ 8 + 4)) ∧
    (s.slotError p = 0 → s.pendingCommit = none → o.hbm = true → o.ucie = false → ∃ t, exec (.controlDieReset o) s = .next t ∧
      t.bootstat = word (2 ^ 30 + b p 29 + o.dies.toNat * 2 ^ 16 + 4 * 2 ^ 8 + 5)) ∧
    (s.slotError p = 0 → s.pendingCommit = none → o.hbm = true → o.ucie = true → o.region = false → ∃ t, exec (.controlDieReset o) s = .next t ∧
      t.bootstat = word (2 ^ 30 + b p 29 + o.dies.toNat * 2 ^ 16 + 4 * 2 ^ 8 + 6)) ∧
    (s.slotError p = 0 → s.pendingCommit ≠ none → o.hbm = false → ∃ t, exec (.controlDieReset o) s = .next t ∧ t.preferB = !p ∧ t.pendingCommit = none ∧
      let o2 := Config.bootOutcome (2 * s.fresh + 1)
      (s.slotError (!p) ≠ 0 → t.bootstat = word (2 ^ 30 + b p 29 + 3 * 2 ^ 8 + 4)) ∧
      (s.slotError (!p) = 0 → o2.hbm = true → o2.ucie = true → o2.region = true → t.bootstat = word (2 ^ 31 + b (!p) 29 + o2.dies.toNat * 2 ^ 16 + 6 * 2 ^ 8))) ∧
    (s.slotError p ≠ 0 → s.slotError (!p) = 0 → o.hbm = true → o.ucie = true → o.region = true → ∃ t, exec (.controlDieReset o) s = .next t ∧
      t.bootstat = word (2 ^ 31 + b (!p) 29 + o.dies.toNat * 2 ^ 16 + 6 * 2 ^ 8))) ∧
  (∀ (s : State) (img : List Byte), let f := Config.imageFields img
    (s.imageError img = 0 ↔ 256 + f.bodyLength + 64 ≤ img.length ∧ edVerify (imageKey img) (sha512 (img.take (256 + f.bodyLength))) ((img.drop (256 + f.bodyLength)).take 64) = true ∧
      f.key < 4 ∧ sha512 (imageKey img) = s.keyHashes.getD f.key [] ∧ s.revoked.getLsbD f.key = false ∧ s.rollback ≤ f.svn)) ∧
  (∀ (s : State) (port : Nat), let ok : Prop := s.bootstat.getLsbD 30 = true ∧ s.sems.getD 1 0 = port + 1 ∧ s.imageError s.mailbox = 0
    (¬ok → refuses (.recoveryBoot port) s) ∧
    (ok → ∃ t, exec (.recoveryBoot port) s = .next t ∧ t.flashA = some ⟨s.mailbox⟩ ∧ t.preferB = false ∧ t.pendingCommit = none ∧ t.bootstat = 0 ∧ t.mem = s.mem ∧
      t.replies = s.replies ++ [.status true])) ∧
  (∀ (port : Nat) (img : List Byte), notReady (.firmwareUpdate port img) ∧ ∀ s : State, s.bootstat.getLsbD 31 = true → (¬served s port → exec (.firmwareUpdate port img) s = .next s) ∧ (served s port →
    let x := !s.bootstat.getLsbD 29
    (s.sems.getD 1 0 ≠ port + 1 → refuses (.firmwareUpdate port img) s) ∧
    (s.sems.getD 1 0 = port + 1 → ∃ t, exec (.firmwareUpdate port img) s = .next t ∧ t.mem = s.mem ∧ t.groups = s.groups ∧ slot t x = some img ∧ slot t (!x) = slot s (!x) ∧
      (s.imageError img = 0 → t.preferB = x ∧ t.pendingCommit = some (Config.imageFields img).svn ∧ t.replies = s.replies ++ [.status true]) ∧
      (s.imageError img ≠ 0 → t.preferB = !x ∧ t.pendingCommit = none ∧ t.replies = s.replies ++ [.status false])))) ∧
  (∀ (port : Nat), notReady (.firmwareCommit port) ∧ ∀ s : State, s.bootstat.getLsbD 31 = true → (¬served s port → exec (.firmwareCommit port) s = .next s) ∧ (served s port →
    let ok : Prop := s.pendingCommit ≠ none ∧ s.bootstat.getLsbD 29 = s.preferB ∧ port < 2
    (¬ok → refuses (.firmwareCommit port) s) ∧
    (ok → exec (.firmwareCommit port) s = .next { s with rollback := min 64 (max s.rollback (s.pendingCommit.getD 0)), pendingCommit := none, replies := s.replies ++ [.status true] }))) ∧
  (∀ (port : Nat) (nonce : List Byte), notReady (.attestationReport port nonce) ∧ ∀ s : State, s.bootstat.getLsbD 31 = true → (¬served s port → exec (.attestationReport port nonce) s = .next s) ∧ (served s port →
    let seed := s.attestationSeed.getD []
    let body := toBytes 4 1 ++ toBytes 4 (if Config.isModule then 3 else 2) ++ toBytes 8 s.bootstat.toNat ++ s.serial ++ toBytes 8 s.imageSvn ++ toBytes 8 (s.die 0).time.toNat ++ s.imageDigest ++
      sha512 (tableBytes (s.partitions.flatMap s.tablesOf)) ++ nonce ++ edPublic seed
    ((nonce.length ≠ 32 ∨ 2 ≤ port) → refuses (.attestationReport port nonce) s) ∧
    (nonce.length = 32 → port < 2 → exec (.attestationReport port nonce) s = .next { s with replies := s.replies ++ [.report (body ++ edSign seed body)] })))

/-- R185, R201, R202, R208, R233, R291, R292, R295, R320, R325, R369, R373 to R376, R392: firmware creates a partition on free dies, tears it down, takes its context from its dies, once what completes before the save has completed, and puts it back; a routine slot, thrash parameters and a lease control value are set at the host's request; semaphores are taken, released and freed by a link reset; a register write reaches a semaphore or the recovery mailbox alone. The model's choices here: the firmware as a third holder that yields to a port (log 66, DESIGN CHOICE), the latch of TIME dropped at a resume (log 60, DEDUCED), and what a swap delivers, waits for and keeps (log 69, DEDUCED). -/
def Obligations.PartitionsAndPorts : Prop :=
  let ready (s : State) : Prop := s.bootstat.getLsbD 31 = true
  let notReady (i : Instr) : Prop := ∀ s : State, s.bootstat.getLsbD 31 = false → exec i s = .next { s with replies := s.replies ++ [.notReady] }
  let refuses (i : Instr) (s : State) : Prop := exec i s = .next { s with replies := s.replies ++ [.status false] }
  let accepts (i : Instr) (s t : State) : Prop := exec i s = .next t ∧ t.replies = s.replies ++ [.status true]
  let serves (s : State) (port : Nat) : Prop := s.bootstat.getLsbD 31 = false ∨ 2 ≤ port ∨ s.portsUp.getLsbD port = true
  let down (i : Instr) (s : State) : Prop := exec i s = .next s
  let holds (s : State) (port sem : Nat) : Prop := s.sems.getD sem 0 = port + 1
  let on (m : BitVec 8) (n : Nat) : Prop := n < 8 ∧ m.getLsbD n = true
  let blank (d : Die) : Prop := (∀ k, k < 12 → d.cls.getD k Memory.blank = Memory.blank) ∧ d.chp = Memory.blank ∧
    ∀ k, k < 96 → let c := d.cores.getD k Core.reset
      c.l1 = [] ∧ c.tlb = [] ∧ c.victims = [] ∧ c.copies = [] ∧ c.matrix = Matrix.clear ∧ c.mint = Mint.clear
  (∀ (port : Nat) (c : PartitionCommand), notReady (.partitionCreate port c) ∧ ∀ s : State, ready s → (¬serves s port → down (.partitionCreate port c) s) ∧ (serves s port →
    let taken : Prop := ∃ p ∈ s.partitions, p.resident = true ∧ p.dies &&& c.dies ≠ 0
    (s.canCreate c = true ↔ c.num < 8 ∧ s.part? c.num = none ∧ c.dies ≠ 0 ∧ (∀ n, on c.dies n → (s.die n).inReset = false) ∧ (∀ p ∈ s.partitions, p.dies &&& c.dies ≠ 0 → p.dies = c.dies) ∧
      (s.partitions.filter (fun p => p.dies &&& c.dies != 0)).length ≤ 1 ∧ s.physKind (c.table * 2 ^ 30) = .device ∧
      ∀ u ∈ s.framesUsed, ¬(c.table * 2 ^ 30 < u.1 + u.2 ∧ u.1 < c.table * 2 ^ 30 + 2 ^ 30)) ∧
    ((¬holds s port 0 ∨ s.canCreate c = false) → refuses (.partitionCreate port c) s) ∧
    (holds s port 0 → s.canCreate c = true → ∃ t p, accepts (.partitionCreate port c) s t ∧ t.part? c.num = some p ∧ p.dies = c.dies ∧ p.queueCap = c.queueCap ∧ p.ptroot = c.table * 2 ^ 30 ∧
      p.tableEnd = (c.table + 1) * 2 ^ 30 ∧ p.faults = [] ∧ p.directory = [] ∧ p.thrashN = 4 ∧ p.thrashW = 1000 ∧ p.thrashT = 10000 ∧ p.ending = false ∧ (∀ k, k < 256 → (t.peer c.num k).valid = false) ∧
      (p.resident = true ↔ ¬taken) ∧ (∀ q, q ≠ c.num → t.part? q = s.part? q) ∧ t.groups = s.groups ∧
      (∀ a, t.mem.byte a = if c.table * 2 ^ 30 ≤ a ∧ a < c.table * 2 ^ 30 + 4096 then 0 else s.mem.byte a) ∧ (¬taken → ∀ n, on c.dies n → blank (t.die n))))) ∧
  (∀ (port n : Nat), notReady (.partitionTeardown port n) ∧ ∀ s : State, ready s → (¬serves s port → down (.partitionTeardown port n) s) ∧ (serves s port →
    ((¬holds s port 0 ∨ s.part? n = none) → refuses (.partitionTeardown port n) s) ∧
    (∀ p, holds s port 0 → s.part? n = some p →
      (p.resident = false → ∃ t, exec (.partitionTeardown port n) s = .next t ∧ t.part? n = none ∧ (∀ g ∈ t.groups, g.part ≠ n) ∧ (∀ u ∈ t.units, u.part ≠ n) ∧ (∀ q ∈ t.queued, q.part ≠ n)) ∧
      (p.resident = true → (∃ g ∈ s.groups, g.part = n) → ∃ t q, exec (.partitionTeardown port n) s = .next t ∧ t.part? n = some q ∧ q.ending = true ∧ (∀ x ∈ t.queued, x.part ≠ n) ∧
        ∀ u ∈ t.units, u.part = n → u.groups ≠ 0 → u.pendingCancel ≠ none)))) ∧
  (∀ (s : State) (n : Nat),
    (s.part? n = none → exec (.preempt n) s = .next s ∧ exec (.resume n) s = .next s) ∧
    (∀ p, s.part? n = some p →
      ((p.resident = false ∨ p.ending = true ∨ p.leaving = true) → exec (.preempt n) s = .next s) ∧
      (let still : Prop := (∀ d k, on p.dies d → k < 96 → (s.core ⟨d, k⟩).mint.joining = none) ∧
         ∀ x ∈ s.groups, x.part = n → (∀ k before, x.pageState.getD k .pinned ≠ .unpinning true before) ∧ ∀ y ∈ x.unpins, y.2.1 = false
       let halted : Prop := ∀ x ∈ s.groups, x.part = n →
         (∀ i, i < x.slices.length → ∀ y ∈ (x.slice i).getrs, ∀ l ∈ y.left.lanes, s.laneParked ⟨x.gid, i⟩ y l = true) ∧
         (x.shadow = true → (∀ sl ∈ x.slices, sl.owed = []) ∧ ∀ (k : Nat) (e : Trailing), x.trail[k]? = some e → e.ripe (x.trail.take k) = none)
       (p.resident = true → p.ending = false → p.leaving = false → ¬halted → ∃ t, exec (.preempt n) s = .next t ∧ t.part? n = some { p with leaving := true } ∧ { t with partitions := s.partitions } = s) ∧
       (p.resident = true → p.ending = false → p.leaving = false → halted → ∃ t q, exec (.preempt n) s = .next t ∧ t.mem = s.mem ∧ t.units = s.units ∧ t.queued = s.queued ∧ t.part? n = some q ∧ q.resident = false ∧
        (∀ d, on p.dies d → blank (t.die d) ∧ (d, (s.die d).cls) ∈ q.savedCls ∧ (d, (s.die d).chp) ∈ q.savedChp ∧
          (still → ∀ k, k < 96 → (d, k, { s.core ⟨d, k⟩ with mint := { (s.core ⟨d, k⟩).mint with block := none } }) ∈ q.savedCores)) ∧
        (still → ∀ d, d < 8 → p.dies.getLsbD d = false → t.die d = s.die d) ∧
        (still → ∀ g x, s.group? g = some x → x.part ≠ n → t.group? g = some x) ∧
        (∀ g x i, s.group? g = some x → x.part = n → i < x.slices.length → (t.group g).swapped = true ∧
          let sl := x.slice i
          let u := (t.group g).slice i
          u.owed = [] ∧ u.tx = none ∧
          (still → (sl.owed = [] ∧ sl.tx = none) → { u with sub := sl.sub } = sl) ∧
          (∀ b, sl.tx = some b → u.pc = b.abortPc ∧ u.active = b.active ∧ u.fmt = b.fmt)) ∧
        (∀ g x k, s.group? g = some x → x.part = n → k < x.pages →
          (∀ before, x.pageState.getD k .pinned = .unpinning true before → ∀ a, a / 4096 = k → (t.group g).backing.byte a = 0) ∧
          (still → x.pageState.getD k .pinned = .pinned → ∀ a, a / 4096 = k → a / 128 ∉ x.absent → (t.group g).backing.byte a = x.scr.byte a)) ∧
        (∀ w, s.issuer = some w → (s.group w.gid).part = n → (s.group? w.gid).isSome = true → t.issuer = none))) ∧
      ((p.resident = true ∨ (∃ q ∈ s.partitions, q.resident = true ∧ q.dies &&& p.dies ≠ 0) ∨ (∃ d, on p.dies d ∧ (s.die d).inReset = true)) → exec (.resume n) s = .next s) ∧
      (p.resident = false → (∀ q ∈ s.partitions, q.resident = true → q.dies &&& p.dies = 0) → (∀ d, on p.dies d → (s.die d).inReset = false) →
        ∃ t q, exec (.resume n) s = .next t ∧ t.part? n = some q ∧ q.resident = true ∧ t.units = s.units ∧ t.queued = s.queued ∧
        (∀ d m, on p.dies d → p.savedCls.find? (fun x => x.1 == d) = some (d, m) → (t.die d).cls = m) ∧
        (∀ d m, on p.dies d → p.savedChp.find? (fun x => x.1 == d) = some (d, m) → (t.die d).chp = m) ∧
        (∀ d k c, on p.dies d → k < 96 → p.savedCores.find? (fun x => x.1 == d && x.2.1 == k) = some (d, k, c) → let u := t.core ⟨d, k⟩
          u.copies = c.copies ∧ u.l1 = [] ∧ u.victims = [] ∧ u.nextAge = c.nextAge ∧ u.clock = (s.core ⟨d, k⟩).clock ∧ u.matrix.queue = c.matrix.queue ∧ u.mint.queue = c.mint.queue) ∧
        (∀ g x, s.group? g = some x → x.part = n → (t.group g).swapped = false ∧ (∀ k, ((t.group g).gang k).active = false) ∧
          ∀ i, i < x.slices.length → (t.group g).slice i = { x.slice i with latch := none })))) ∧
  (∀ (port part k : Nat) (body : List Word), notReady (.routineSlotLoad port part k body) ∧ ∀ s : State, ready s → (¬serves s port → down (.routineSlotLoad port part k body) s) ∧ (serves s port →
    let ok : Prop := holds s port 2 ∧ (s.part? part).isSome = true ∧ k < 16 ∧ routineAccepted body = true
    (¬ok → refuses (.routineSlotLoad port part k body) s) ∧
    (ok → ∃ t p q, accepts (.routineSlotLoad port part k body) s t ∧ s.part? part = some p ∧ t.part? part = some q ∧ q.routines.getD k none = some body ∧
      (∀ j, j ≠ k → q.routines.getD j none = p.routines.getD j none) ∧ t.groups = s.groups))) ∧
  (∀ (part n w x : Nat), notReady (.thrashParameters part n w x) ∧ ∀ s : State, ready s →
    let ok : Prop := (s.part? part).isSome = true ∧ 1 ≤ n ∧ n ≤ 255 ∧ 1 ≤ w ∧ w ≤ 1000000 ∧ 1 ≤ x ∧ x ≤ 10000000
    (¬ok → refuses (.thrashParameters part n w x) s) ∧
    (ok → ∃ t p, accepts (.thrashParameters part n w x) s t ∧ s.part? part = some p ∧ t.part? part = some { p with thrashN := n, thrashW := w, thrashT := x })) ∧
  (∀ (part : Nat) (c : CoreRef) (v : Word), notReady (.lctlWrite part c v) ∧ ∀ s : State, ready s →
    (s.part? part = none → refuses (.lctlWrite part c v) s) ∧
    (∀ p, s.part? part = some p →
      (p.dies.getLsbD c.die = false → refuses (.lctlWrite part c v) s) ∧
      (p.dies.getLsbD c.die = true → p.resident = true → c.die < 8 → c.core < 96 → ∃ t, accepts (.lctlWrite part c v) s t ∧
        let f := v.toNat / 2 ^ 16 % 2 ^ 10
        t.core c = { s.core c with lfact := if f = 0 ∨ 1000 < f then (s.core c).lfact else f, lthresh := v.toNat % 2 ^ 16 }))) ∧
  (∀ (s : State) (ports : List Nat) (n : Nat), n < 16 → let asks (p : Nat) : Prop := p ∈ ports ∧ serves s p
    (s.sems.getD n 0 ≠ 0 → exec (.acq ports n) s = .next s) ∧
    (s.sems.getD n 0 = 0 → ∃ t, exec (.acq ports n) s = .next t ∧ { t with sems := s.sems, semLastLoser := s.semLastLoser } = s ∧ (∀ k, k ≠ n → t.sems.getD k 0 = s.sems.getD k 0) ∧
      (asks 0 → ¬asks 1 → t.sems.getD n 0 = 1) ∧ (¬asks 0 → asks 1 → t.sems.getD n 0 = 2) ∧ (¬asks 0 → ¬asks 1 → 2 ∉ ports → t = s) ∧
      (ports = [2] → t.sems.getD n 0 = 3) ∧
      (asks 0 → asks 1 → t.sems.getD n 0 = s.semLastLoser.getD n 1 ∧ t.semLastLoser.getD n 1 = 3 - s.semLastLoser.getD n 1)) ∧
    (∀ port, ((¬holds s port n ∨ ¬serves s port) → exec (.rel port n) s = .next s) ∧
      (holds s port n → serves s port → ∃ t, exec (.rel port n) s = .next t ∧ { t with sems := s.sems } = s ∧ t.sems.getD n 0 = 0 ∧ ∀ k, k ≠ n → t.sems.getD k 0 = s.sems.getD k 0)) ∧
    (∀ port, ∃ t, exec (.portLinkReset port) s = .next t ∧ { t with sems := s.sems } = s ∧ t.sems.getD n 0 = if s.sems.getD n 0 = port + 1 then 0 else s.sems.getD n 0)) ∧
  (∀ (s : State) (port off : Nat) (v : Word), (¬serves s port → down (.registerWrite port off v) s) ∧ (serves s port →
    (∀ n, n < 16 → off = 0x2000 + 8 * n →
      (v.getLsbD 0 = true → v.getLsbD 1 = false → exec (.registerWrite port off v) s = exec (.acq [port] n) s) ∧
      (v.getLsbD 0 = false → v.getLsbD 1 = true → exec (.registerWrite port off v) s = exec (.rel port n) s) ∧
      (v.getLsbD 0 = false → v.getLsbD 1 = false → exec (.registerWrite port off v) s = .next s)) ∧
    (0x100000 ≤ off → off < 0x100000 + 2 ^ 26 → s.bootstat.getLsbD 30 = true → holds s port 1 → ∃ t, exec (.registerWrite port off v) s = .next t ∧ { t with mailbox := s.mailbox } = s ∧
      (∀ k, k < 4 → t.mailbox[off - 0x100000 + k]? = some (BitVec.ofNat 8 (v.toNat / 2 ^ (8 * k)))) ∧
      ∀ k, k < s.mailbox.length → (k < off - 0x100000 ∨ off - 0x100000 + 4 ≤ k) → t.mailbox[k]? = s.mailbox[k]?) ∧
    ((off < 0x2000 ∨ (0x2080 ≤ off ∧ off < 0x100000) ∨ 0x100000 + 2 ^ 26 ≤ off ∨ (0x100000 ≤ off ∧ (s.bootstat.getLsbD 30 = false ∨ ¬holds s port 1))) → exec (.registerWrite port off v) s = .next s)))

/-! ### Instruction groups and steps -/

/-- R49, R52, R53, R55 to R57: a group whose effective mask is empty is passed over, whatever its words hold; with a lane in the mask, the first check that its words fail traps with the record of R57. A run of three or more prefixes is taken as one group, judged with its last word's mask: the model's reading (log 50, DEDUCED). -/
def Obligations.IllegalGroups : Prop :=
  let only (s : State) (who : Issuer) (r : SliceRef) : Prop :=
    s.issuer = some who ∧ r.gid = who.gid ∧ (s.group who.gid).subgang who.gang who.sub = [r.idx] ∧ (s.slice r).wait = none ∧ (s.slice r).getrs = [] ∧ (s.group who.gid).shadow = false
  let passes (i : Instr) (s : State) (who : Issuer) (r : SliceRef) (n : Nat) : Prop :=
    exec i s = .next ((s.modSlice r (fun sl => { sl with pc := (s.slice r).pc + dword (4 * n) })).divide who.gid who.gang)
  let takes (i : Instr) (s : State) (who : Issuer) (r : SliceRef) (cause n : Nat) (eff : Mask) (info : Word) : Prop :=
    exec i s = .next ((s.takeTrap r (s.slice r).pc ⟨cause, (s.slice r).pc + dword (4 * n), eff, info⟩).divide who.gid who.gang)
  let under (sl : Slice) (neg : Bool) (pred : Nat) : Mask := if neg then sl.active &&& ~~~(sl.mask pred) else sl.active &&& sl.mask pred
  let excess (p : List Prefix) (j : Nat) : Prop := 2 ≤ j ∨ ∃ k x y, k < j ∧ p[k]? = some x ∧ p[j]? = some y ∧ x.kind = y.kind
  let firstExcess (p : List Prefix) (j : Nat) : Prop := j < p.length ∧ excess p j ∧ ∀ k, k < j → ¬excess p k
  let proper (p : List Prefix) : Prop := ∀ j, j < p.length → ¬excess p j
  let judged (i : Instr) (g : Grp) (words : Nat) (s : State) (who : Issuer) (r : SliceRef) (eff : Mask) : Prop :=
    (eff = 0 → passes i s who r (g.p.length + words)) ∧
    (eff ≠ 0 →
      (∀ j x, firstExcess g.p j → g.p[j]? = some x → takes i s who r 0x04 j eff (prefixWord x)) ∧
      (∀ j x, proper g.p → g.p[j]? = some x → g.shape.accepts x.kind = false → (∀ k y, k < j → g.p[k]? = some y → g.shape.accepts y.kind = true) →
        takes i s who r 0x03 j eff (prefixWord x)) ∧
      (∀ j b instr, proper g.p → (∀ x ∈ g.p, g.shape.accepts x.kind = true) → offenceFrom g.shape g.w g.wide 0 g.p = some (j, b, instr) →
        takes i s who r 0x02 j eff (word ((if instr then 0 else 64 * (j + 1)) + b))))
  (∀ (i : Instr) (op : BitVec 8) (p : List Prefix) (w : WForm) (s : State) (who : Issuer) (r : SliceRef), i.fields = .wide op p w → only s who r →
    judged i (Grp.of op.toNat true p w (s.slice r).pc) 2 s who r (under (s.slice r) w.neg w.pred.toNat)) ∧
  (∀ (i : Instr) (op : BitVec 8) (p : List Prefix) (w : CForm) (s : State) (who : Issuer) (r : SliceRef), i.fields = .compact op p w → only s who r →
    judged i (Grp.of op.toNat false p (expand w) (s.slice r).pc) 1 s who r (s.slice r).active) ∧
  (∀ (g : RawGroup) (s : State) (who : Issuer) (r : SliceRef), only s who r →
    let i : Instr := .illegalInstructionGroup g
    let n := g.prefixes.length
    let eff : Mask := if g.word.extractLsb' 0 2 = 0 then (s.slice r).active else under (s.slice r) (g.word.getLsbD 13) (g.word.extractLsb' 10 3).toNat
    let last : Word := g.word.extractLsb' 0 32
    (eff = 0 → passes i s who r (n + if g.wide then 2 else 1)) ∧
    (eff ≠ 0 →
      (∀ j x, g.prefixes[j]? = some x → prefixOf x = none → (∀ k y, k < j → g.prefixes[k]? = some y → (prefixOf y).isSome = true) → takes i s who r 0x01 j eff x) ∧
      (∀ p, prefixesOf g.prefixes = some p →
        (g.word.extractLsb' 0 2 = 3 → takes i s who r 0x01 n eff last) ∧
        (g.word.extractLsb' 0 2 ≠ 3 → (∀ j x, firstExcess p j → g.prefixes[j]? = some x → takes i s who r 0x04 j eff x) ∧ (proper p → takes i s who r 0x01 n eff last)))))

/-- R39 to R41, R52, R194: a step answers a read of the host, or takes the next event from outside; with neither, the subgang chosen to issue runs the instruction decoded from the words at its address, and is chosen no more; else an internal event that may happen next; and then time passes and waits that are over end. Under shadow execution the group is left to the shadows too, which have turns of their own, and a trap is compared before it is taken. The instruction is read word by word: a C-form word, the two words of a wide instruction, or a prefix and what follows it. That reads of the host come before other events is the model's choice (log 3, DESIGN CHOICE). -/
def Obligations.StepRunsDecoded : Prop :=
  let after (s : State) (o : Outcome) (f : State → State) : Outcome := match o with | .next t => .next ((f t).followFrom s).settle | .fault x => .fault x | .refused x => .refused x
  let done (t : State) : State := { t with issuer := none }
  let left (v : State) (who : Issuer) (i : Instr) (t : State) : State := v.trapsCompared who (effAt v who i) (fun x => Outcome.orElse x (exec i x)) (v.trailIssue who i t)
  (∀ (s : State) (x : HostRead) (rest : List HostRead), s.asks = x :: rest → step s = .next ({ s with asks := rest }.serveRead x) ∧
    ({ s with asks := rest }.serveRead x).groups = s.groups ∧ ({ s with asks := rest }.serveRead x).mem = s.mem) ∧
  (∀ (s : State) (e : Instr) (rest : List Instr), s.asks = [] → s.agenda = e :: rest → step s = after s (exec e { s with agenda := rest }) id) ∧
  (∀ (s : State) (who : Issuer) (j : Nat) (more : List Nat), s.asks = [] → s.agenda = [] → s.issuer = some who → who.shadows = false →
    (s.group who.gid).subgang who.gang who.sub = j :: more →
    let r : SliceRef := ⟨who.gid, j⟩
    let pc := (s.slice r).pc
    (∀ v bs i n, s.fetchWords r pc fetchFuel = (v, .words (bytesWords bs)) → decode bs = .ok (i, n) → step s = after s (exec i v) (fun t => done (left v who i t))) ∧
    (∀ v ws i rest, s.fetchWords r pc fetchFuel = (v, .words ws) → decodeWords ws = .ok (i, rest) → step s = after s (exec i v) (fun t => done (left v who i t))) ∧
    (∀ v a e, s.fetchWords r pc fetchFuel = (v, .stopped a e) → (s.group who.gid).shadow = false → step s = .next ((done (v.fetchStopped who a e)).followFrom s).settle)) ∧
  (∀ (s t : State) (who : Issuer) (i : Instr), (s.group who.gid).shadow = false → left s who i t = t) ∧
  (∀ (s t : State), (∀ g ∈ t.groups, g.shadow = false) → t.followFrom s = t) ∧
  (∀ (s : State) (who : Issuer), s.asks = [] → s.agenda = [] → s.issuer = some who → who.shadows = true → step s = after s (.next (s.trailStep exec who)) done) ∧
  (∀ (s : State), s.asks = [] → s.agenda = [] → s.issuer = none →
    (∀ e, s.choose s.candidates = some e → step s = after s (exec e s) id) ∧ (s.candidates = [] → step s = .next (s.followFrom s).settle)) ∧
  (∀ (s v w : State) (r : SliceRef) (a : Dword) (n : Nat) (b b' : List Byte) (p p' : Option Nat), canonical a = true → s.readGlb r a 4 needExec 3 = (v, .inl (b, p)) →
    let x : Word := word (fromBytes b)
    (x.extractLsb' 0 2 = 0 ∨ x.extractLsb' 0 2 = 3 → s.fetchWords r a (n + 1) = (v, .words [x])) ∧
    (x.extractLsb' 0 2 = 1 → canonical (a + 4) = true → v.readGlb r (a + 4) 4 needExec 3 = (w, .inl (b', p')) → s.fetchWords r a (n + 1) = (w, .words [x, word (fromBytes b')])) ∧
    (∀ ws, x.extractLsb' 0 2 = 2 → v.fetchWords r (a + 4) n = (w, .words ws) → s.fetchWords r a (n + 1) = (w, .words (x :: ws)))) ∧
  decodeWords [0x1234566A#32, ((0xF8#8).extractLsb' 0 2 ++ 0x00#8 ++ 0x01#8 ++ 0#1 ++ 0#3 ++ 0x03#8 ++ 1#2), (0#14 ++ 0#1 ++ 0#3 ++ 0x00#8 ++ (0xF8#8).extractLsb' 2 6)] =
    .ok (.iadd [⟨.xi, 0x91A2B3#27⟩] ⟨0, false, false, false, false, 0, 0xF8, 0, 1, false, 0⟩, []) ∧
  decodeWords [(0b000010#6 ++ 0x01#8 ++ 0x00#8 ++ 0x03#8 ++ 0#2)] = .ok (.iaddC [] ⟨2, 1, 0⟩, []) ∧
  decodeWords [(0#6 ++ 0#8 ++ 0#8 ++ 0x4B#8 ++ 0#2), 0#32] = .ok (.exitC [] ⟨0, 0, 0⟩, [0#32]) ∧
  decodeWords [(0#2 ++ 0x10#8 ++ 0x04#8 ++ 1#1 ++ 5#3 ++ 0x60#8 ++ 1#2), (0x0100#14 ++ 1#1 ++ 0#3 ++ 0x00#8 ++ 0x30#6)] =
    .ok (.ld [] ⟨0x0100, true, false, false, false, 0x00, 0xC0, 0x10, 0x04, true, 5⟩, []) ∧
  decodeWords [(0#32 ||| 3#32)] = .ok (.illegalInstructionGroup ⟨[], false, 3#64⟩, []) ∧
  decodeWords [(0#22 ++ 0xFF#8 ++ 0#2)] = .ok (.illegalInstructionGroup ⟨[], false, 0x3FC#64⟩, []) ∧
  decodeWords [(0x7FFFFFF#27 ++ 0#3 ++ 2#2), (0#22 ++ 0x20#8 ++ 0#2)] = .ok (.faddC [⟨.rnd, 0x7FFFFFF#27⟩] ⟨0, 0, 0⟩, [])

/-- R39 to R53, R58: encoding and decoding agree. Every well-formed instruction, with any prefixes and fields, decodes from its own words and from its own bytes, whatever follows them; and words decode to nothing but a well-formed instruction with those very words. -/
def Obligations.DecodeEncodes : Prop :=
  (∀ (i : Instr) (rest : List Word), i.wellFormed = true → i.fields ≠ .event → decodeWords (encode i ++ rest) = .ok (i, rest)) ∧
  (∀ (i : Instr), i.wellFormed = true → i.fields ≠ .event → decode ((encode i).flatMap wordBytes) = .ok (i, 4 * (encode i).length)) ∧
  (∀ (ws rest : List Word) (i : Instr), decodeWords ws = .ok (i, rest) → i.wellFormed = true ∧ i.fields ≠ .event ∧ encode i ++ rest = ws)

/-- R61, R63 to R66, R177: the listing that grauk prints of any image assembles back to the image's words; a source line that grauk accepts gives the words of one well-formed instruction with its opcode and fields, in the C form exactly where R63 lets it be and `.wide` does not forbid it; and a kernel's entry in the table, the 32 bytes of R66, names where its first word stands, at a multiple of 64. -/
def Obligations.ListingsAssembleBack : Prop :=
  (∀ ws : List Word, assembleLines (sweep ws) = .ok ws) ∧
  (∀ (s : Source) (ws : List Word), s.emit = .ok ws → ∃ i, decodeWords ws = .ok (i, []) ∧ i.wellFormed = true ∧
    ((s.wide = true ∨ compactOf s.op.toNat s.form s.b.long = none) → i.fields = .wide s.op s.allPrefixes s.form) ∧
    (∀ w, s.wide = false → compactOf s.op.toNat s.form s.b.long = some w → i.fields = .compact s.op s.allPrefixes w ∧ expand w = s.form)) ∧
  (∀ (o p : ObjectFile) (k : Kernel), o.add k = .ok p → ∃ off, off % 64 = 0 ∧ o.text.length ≤ off ∧ off < o.text.length + 64 ∧
    bodyFrom (o.text ++ List.replicate (off - o.text.length) 0) k.body = .ok p.text ∧
    p.table = o.table ++ [toBytes 8 off ++ toBytes 8 k.shape ++ toBytes 8 k.registers.2 ++ toBytes 8 o.strings.length] ∧
    p.strings = o.strings ++ k.name ++ [0] ∧ p.data = o.data)

/-- R188, R369, R398, R411: every step leaves the device settled, as it found it. -/
def Obligations.EveryStepSettles : Prop := ∀ s t, s.settled → step s = .next t → t.settled

/-- R10, R393: every step keeps every memory of the device in its canonical form, so that equal memories stay equal data. -/
def Obligations.EveryStepKeepsMemory : Prop := ∀ s t, s.memWf → step s = .next t → t.memWf

/-- What reset leaves. R16: a slice starts at its code pointer with all lanes active, an empty mask stack, its registers zero and full, its windows invalid, its flags, format and random state zero, its lane store zero and full. R185, R235, R263, R319, R385: a core starts with LCTL at 900 and 128, its engines cleared, its predictor and TLB empty. R376, R396, R397, R419, R421, R426, R450: at control-die reset the dies are held, the region table's one valid entry for memory is the whole of device memory, no semaphore is held, no host port and no base die is in service, BOOTSTAT is zero, the module cap is 3,200 W and every link is down. The state is settled and its memories canonical. -/
def Obligations.ResetState : Prop :=
  (∀ (n : Nat) (pc : Dword), let sl := Slice.start n pc
    sl.pc = pc ∧ sl.active = 15 ∧ sl.entries = [] ∧ sl.v.length = n ∧
    (∀ k i, k < n ∨ (128 ≤ k ∧ k < 192) → sl.reg k i = 0 ∧ sl.emptyIn k 15 = 0 ∧ sl.poisonOf k i = none) ∧
    (∀ k, 0 < k → sl.mask k = 0) ∧ (∀ k, k < 8 → sl.w.getD k none = none) ∧
    (∀ i, sl.xf.get i = 0 ∧ sl.rng.get i = 0 ∧ sl.store.get i = Memory.blank) ∧ sl.fmt = 0 ∧ sl.trap = ⟨0, 0, 0, 0, 0⟩ ∧ sl.regpc = 0 ∧ sl.tx = none ∧ sl.wait = none ∧ sl.ended = false) ∧
  Core.reset.lfact = 900 ∧ Core.reset.lthresh = 128 ∧ Core.reset.matrix = Matrix.clear ∧ Core.reset.mint = Mint.clear ∧ Core.reset.predictor = [] ∧ Core.reset.tlb = [] ∧
  (∀ n, n < 8 → (State.reset.die n).inReset = true ∧ (State.reset.die n).time = 0) ∧ (State.reset.die 0).tofs = 0 ∧ (State.reset.die 0).trate = 2 ^ 40 ∧
  (∀ d c, State.reset.core ⟨d, c⟩ = Core.reset) ∧
  State.reset.regions = [⟨0, 0xFFFF, 0, 0, 0, 1023, 0⟩, RegionEntry.registers] ∧ (∀ k, k < 16 → State.reset.sems.getD k 0 = 0) ∧ State.reset.bootstat = 0 ∧ State.reset.moduleCap = 3200 ∧
  (∀ n, State.reset.link n = Link.down) ∧ (∀ pa n, State.reset.mem.bytesAt pa n = List.replicate n 0) ∧ (∀ k, k < 16 → (State.reset.base k).up = false) ∧ State.reset.portsUp = 0 ∧ State.reset.agenda = [] ∧ State.reset.asks = [] ∧ State.reset.issuer = none ∧
  State.reset.settled ∧ State.reset.memWf
end

