-- ==== Sys2Proof/Laws/State.lean ====
section
/-! SUPPORT. One lemma per part of the state and per change of it: what a change of a group, a slice, a core or a die leaves as it was. -/

namespace Sys2Proof.Machine

/-! ### Groups -/

@[simp] theorem modGroup_mem (s : State) (gid : Nat) (f : Group → Group) : (s.modGroup gid f).mem = s.mem := rfl
@[simp] theorem modGroup_dies (s : State) (gid : Nat) (f : Group → Group) : (s.modGroup gid f).dies = s.dies := rfl
@[simp] theorem modGroup_units (s : State) (gid : Nat) (f : Group → Group) : (s.modGroup gid f).units = s.units := rfl
@[simp] theorem modGroup_partitions (s : State) (gid : Nat) (f : Group → Group) : (s.modGroup gid f).partitions = s.partitions := rfl
@[simp] theorem modGroup_issuer (s : State) (gid : Nat) (f : Group → Group) : (s.modGroup gid f).issuer = s.issuer := rfl
@[simp] theorem modGroup_fresh (s : State) (gid : Nat) (f : Group → Group) : (s.modGroup gid f).fresh = s.fresh := rfl
@[simp] theorem modGroup_agenda (s : State) (gid : Nat) (f : Group → Group) : (s.modGroup gid f).agenda = s.agenda := rfl
@[simp] theorem modGroup_parks (s : State) (gid : Nat) (f : Group → Group) : (s.modGroup gid f).parks = s.parks := rfl
@[simp] theorem modGroup_core (s : State) (gid : Nat) (f : Group → Group) (c : CoreRef) : (s.modGroup gid f).core c = s.core c := rfl
@[simp] theorem modGroup_die (s : State) (gid : Nat) (f : Group → Group) (n : Nat) : (s.modGroup gid f).die n = s.die n := rfl
@[simp] theorem modGroup_unit? (s : State) (gid : Nat) (f : Group → Group) (n : Nat) : (s.modGroup gid f).unit? n = s.unit? n := rfl
@[simp] theorem modGroup_part? (s : State) (gid : Nat) (f : Group → Group) (n : Nat) : (s.modGroup gid f).part? n = s.part? n := rfl

/-- The state outside its groups. -/
theorem modGroup_device (s : State) (gid : Nat) (f : Group → Group) : { s.modGroup gid f with groups := s.groups } = s := rfl

/-- Looking up a group in a list whose groups keep their numbers. -/
theorem find_map_group (gs : List Group) (gid : Nat) (f : Group → Group) (hf : ∀ g, (f g).gid = g.gid) (k : Nat) :
    (gs.map (fun g => if g.gid = gid then f g else g)).find? (fun g => g.gid == k) =
      (gs.find? (fun g => g.gid == k)).map (fun g => if g.gid = gid then f g else g) := by
  induction gs with
  | nil => rfl
  | cons a gs ih =>
    have e : (if a.gid = gid then f a else a).gid = a.gid := by split <;> simp [hf]
    simp only [List.map_cons, List.find?_cons, e]
    cases a.gid == k
    · exact ih
    · rfl

/-- The group of a number after a change that keeps numbers. -/
theorem group?_modGroup (s : State) (gid : Nat) (f : Group → Group) (hf : ∀ g, (f g).gid = g.gid) (k : Nat) :
    (s.modGroup gid f).group? k = (s.group? k).map (fun g => if g.gid = gid then f g else g) :=
  find_map_group s.groups gid f hf k

theorem group?_gid {s : State} {k : Nat} {g : Group} (h : s.group? k = some g) : g.gid = k := by
  have := List.find?_some h
  simpa using this

/-- Another group is left alone. -/
theorem group_modGroup_ne (s : State) (gid : Nat) (f : Group → Group) (hf : ∀ g, (f g).gid = g.gid) (k : Nat) (h : k ≠ gid) :
    (s.modGroup gid f).group k = s.group k := by
  unfold State.group
  rw [group?_modGroup s gid f hf]
  cases hg : s.group? k with
  | none => rfl
  | some g => simp [group?_gid hg, h]

/-- The group itself is changed where it runs. -/
theorem group_modGroup_self (s : State) (gid : Nat) (f : Group → Group) (hf : ∀ g, (f g).gid = g.gid) (h : (s.group? gid).isSome) :
    (s.modGroup gid f).group gid = f (s.group gid) := by
  unfold State.group
  rw [group?_modGroup s gid f hf]
  cases hg : s.group? gid with
  | none => simp [hg] at h
  | some g => simp [group?_gid hg]

/-- Where no such group runs nothing is changed. -/
theorem group_modGroup_none (s : State) (gid : Nat) (f : Group → Group) (hf : ∀ g, (f g).gid = g.gid) (k : Nat) (h : s.group? gid = none) :
    (s.modGroup gid f).group k = s.group k := by
  unfold State.group
  rw [group?_modGroup s gid f hf]
  cases hg : s.group? k with
  | none => rfl
  | some g =>
    have : g.gid ≠ gid := by
      intro e
      have := group?_gid hg
      subst this
      rw [e] at hg
      rw [h] at hg
      cases hg
    simp [this]

@[simp] theorem modGroup_group?_isSome (s : State) (gid : Nat) (f : Group → Group) (hf : ∀ g, (f g).gid = g.gid) (k : Nat) :
    ((s.modGroup gid f).group? k).isSome = (s.group? k).isSome := by
  rw [group?_modGroup s gid f hf]; simp

/-- A running group with slices exists. -/
theorem group?_of_slice {s : State} {gid i : Nat} (h : i < (s.group gid).slices.length) : (s.group? gid).isSome := by
  unfold State.group at h
  cases hg : s.group? gid with
  | none => simp [hg, Group.vacant] at h
  | some _ => rfl

/-! ### Slices -/

@[simp] theorem Group.modSlice_gid (g : Group) (i : Nat) (f : Slice → Slice) : (g.modSlice i f).gid = g.gid := rfl
@[simp] theorem Group.modSlice_length (g : Group) (i : Nat) (f : Slice → Slice) : (g.modSlice i f).slices.length = g.slices.length := by
  simp [Group.modSlice]
@[simp] theorem Group.modGang_gid (g : Group) (k : Nat) (f : Gang → Gang) : (g.modGang k f).gid = g.gid := rfl

theorem Group.slice_modSlice_self (g : Group) (i : Nat) (f : Slice → Slice) (h : i < g.slices.length) : (g.modSlice i f).slice i = f (g.slice i) := by
  simp [Group.modSlice, Group.slice, List.getD_eq_getElem?_getD, h]

theorem Group.slice_modSlice_ne (g : Group) (i j : Nat) (f : Slice → Slice) (h : j ≠ i) : (g.modSlice i f).slice j = g.slice j := by
  simp [Group.modSlice, Group.slice, List.getD_eq_getElem?_getD, Ne.symm h]

@[simp] theorem modSlice_mem (s : State) (r : SliceRef) (f : Slice → Slice) : (s.modSlice r f).mem = s.mem := rfl
@[simp] theorem modSlice_dies (s : State) (r : SliceRef) (f : Slice → Slice) : (s.modSlice r f).dies = s.dies := rfl
@[simp] theorem modSlice_units (s : State) (r : SliceRef) (f : Slice → Slice) : (s.modSlice r f).units = s.units := rfl
@[simp] theorem modSlice_issuer (s : State) (r : SliceRef) (f : Slice → Slice) : (s.modSlice r f).issuer = s.issuer := rfl
@[simp] theorem modSlice_fresh (s : State) (r : SliceRef) (f : Slice → Slice) : (s.modSlice r f).fresh = s.fresh := rfl
@[simp] theorem modSlice_partitions (s : State) (r : SliceRef) (f : Slice → Slice) : (s.modSlice r f).partitions = s.partitions := rfl
theorem modSlice_device (s : State) (r : SliceRef) (f : Slice → Slice) : { s.modSlice r f with groups := s.groups } = s := rfl

theorem group_modSlice_self (s : State) (r : SliceRef) (f : Slice → Slice) (h : r.idx < (s.group r.gid).slices.length) :
    (s.modSlice r f).group r.gid = (s.group r.gid).modSlice r.idx f :=
  group_modGroup_self s r.gid (fun g => g.modSlice r.idx f) (fun _ => rfl) (group?_of_slice h)

theorem group_modSlice_ne (s : State) (r : SliceRef) (f : Slice → Slice) (k : Nat) (h : k ≠ r.gid) : (s.modSlice r f).group k = s.group k :=
  group_modGroup_ne s r.gid (fun g => g.modSlice r.idx f) (fun _ => rfl) k h

/-- A slice that stands in its group takes the change. -/
theorem slice_modSlice_self (s : State) (r : SliceRef) (f : Slice → Slice) (h : r.idx < (s.group r.gid).slices.length) :
    (s.modSlice r f).slice r = f (s.slice r) := by
  unfold State.slice
  rw [group_modSlice_self s r f h, Group.slice_modSlice_self _ _ _ h]

/-- Every other slice is left alone. -/
theorem slice_modSlice_ne (s : State) (r q : SliceRef) (f : Slice → Slice) (h : q ≠ r) : (s.modSlice r f).slice q = s.slice q := by
  unfold State.slice
  by_cases hg : q.gid = r.gid
  · have hi : q.idx ≠ r.idx := by
      intro e
      apply h
      cases q; cases r
      simp_all
    by_cases hs : (s.group? r.gid).isSome
    · have : (s.modSlice r f).group q.gid = (s.group r.gid).modSlice r.idx f := by
        rw [hg]; exact group_modGroup_self s r.gid (fun g => g.modSlice r.idx f) (fun _ => rfl) hs
      rw [this, Group.slice_modSlice_ne _ _ _ _ hi, hg]
    · have hn : s.group? r.gid = none := by
        cases hh : s.group? r.gid with
        | none => rfl
        | some _ => simp [hh] at hs
      rw [show (s.modSlice r f).group q.gid = s.group q.gid from group_modGroup_none s r.gid (fun g => g.modSlice r.idx f) (fun _ => rfl) _ hn]
  · rw [group_modSlice_ne s r f _ hg]

@[simp] theorem modSlice_slices_length (s : State) (r : SliceRef) (f : Slice → Slice) (k : Nat) :
    ((s.modSlice r f).group k).slices.length = (s.group k).slices.length := by
  by_cases hg : k = r.gid
  · by_cases hs : (s.group? r.gid).isSome
    · subst hg
      rw [show (s.modSlice r f).group r.gid = (s.group r.gid).modSlice r.idx f from group_modGroup_self s r.gid (fun g => g.modSlice r.idx f) (fun _ => rfl) hs]
      simp
    · have hn : s.group? r.gid = none := by
        cases hh : s.group? r.gid with
        | none => rfl
        | some _ => simp [hh] at hs
      rw [show (s.modSlice r f).group k = s.group k from group_modGroup_none s r.gid (fun g => g.modSlice r.idx f) (fun _ => rfl) _ hn]
  · rw [group_modSlice_ne s r f _ hg]

/-! ### Banks -/

theorem Bank.getD_set_self {α : Type} {n : Nat} (b : Bank α n) (i : Nat) (a d : α) (h : i < n) : (b.set i a).getD i d = a := by
  have : i < b.cells.length := by rw [b.size]; exact h
  simp [Bank.set, Bank.getD, List.getD_eq_getElem?_getD, this]

theorem Bank.getD_set_ne {α : Type} {n : Nat} (b : Bank α n) (i j : Nat) (a d : α) (h : j ≠ i) : (b.set i a).getD j d = b.getD j d := by
  simp [Bank.set, Bank.getD, List.getD_eq_getElem?_getD, Ne.symm h]

theorem Bank.getD_modify_self {α : Type} {n : Nat} (b : Bank α n) (i : Nat) (f : α → α) (d : α) (h : i < n) :
    (b.modify i f).getD i d = f (b.getD i d) := by
  have : i < b.cells.length := by rw [b.size]; exact h
  simp [Bank.modify, Bank.getD, List.getD_eq_getElem?_getD, this]

theorem Bank.getD_modify_ne {α : Type} {n : Nat} (b : Bank α n) (i j : Nat) (f : α → α) (d : α) (h : j ≠ i) :
    (b.modify i f).getD j d = b.getD j d := by
  simp [Bank.modify, Bank.getD, List.getD_eq_getElem?_getD, Ne.symm h]

theorem Bank.getD_map {α β : Type} {n : Nat} (b : Bank α n) (f : α → β) (i : Nat) (a : α) : (b.map f).getD i (f a) = f (b.getD i a) := by
  simp only [Bank.map, Bank.getD, List.getD_eq_getElem?_getD, List.getElem?_map]
  cases b.cells[i]? <;> rfl

theorem Bank.getD_all {α : Type} (n i : Nat) (a : α) : (Bank.all n a).getD i a = a := by
  simp only [Bank.all, Bank.getD, List.getD_eq_getElem?_getD, List.getElem?_replicate]
  split <;> rfl

/-! ### Dies and cores -/

@[simp] theorem modDie_groups (s : State) (n : Nat) (f : Die → Die) : (s.modDie n f).groups = s.groups := rfl
@[simp] theorem modDie_mem (s : State) (n : Nat) (f : Die → Die) : (s.modDie n f).mem = s.mem := rfl
@[simp] theorem modDie_group (s : State) (n : Nat) (f : Die → Die) (k : Nat) : (s.modDie n f).group k = s.group k := rfl
@[simp] theorem modDie_slice (s : State) (n : Nat) (f : Die → Die) (r : SliceRef) : (s.modDie n f).slice r = s.slice r := rfl
@[simp] theorem modCore_mem (s : State) (c : CoreRef) (f : Core → Core) : (s.modCore c f).mem = s.mem := rfl
@[simp] theorem modCore_groups (s : State) (c : CoreRef) (f : Core → Core) : (s.modCore c f).groups = s.groups := rfl
@[simp] theorem modCore_group (s : State) (c : CoreRef) (f : Core → Core) (k : Nat) : (s.modCore c f).group k = s.group k := rfl
@[simp] theorem modCore_slice (s : State) (c : CoreRef) (f : Core → Core) (r : SliceRef) : (s.modCore c f).slice r = s.slice r := rfl

theorem die_modDie_self (s : State) (n : Nat) (f : Die → Die) (h : n < 8) : (s.modDie n f).die n = f (s.die n) :=
  Bank.getD_modify_self _ _ _ _ h

theorem die_modDie_ne (s : State) (n m : Nat) (f : Die → Die) (h : m ≠ n) : (s.modDie n f).die m = s.die m :=
  Bank.getD_modify_ne _ _ _ _ _ h

theorem core_modCore_self (s : State) (c : CoreRef) (f : Core → Core) (hd : c.die < 8) (hc : c.core < 96) :
    (s.modCore c f).core c = f (s.core c) := by
  unfold State.core State.modCore
  rw [die_modDie_self _ _ _ hd]
  exact Bank.getD_modify_self _ _ _ _ hc

theorem core_modCore_ne (s : State) (c k : CoreRef) (f : Core → Core) (h : k ≠ c) : (s.modCore c f).core k = s.core k := by
  unfold State.core State.modCore
  by_cases hd : k.die = c.die
  · have hi : k.core ≠ c.core := by
      intro e
      apply h
      cases k; cases c
      simp_all
    by_cases h8 : c.die < 8
    · rw [hd, die_modDie_self _ _ _ h8]
      exact Bank.getD_modify_ne _ _ _ _ _ hi
    · have : s.modDie c.die (fun d => { d with cores := d.cores.modify c.core f }) = s := by
        unfold State.modDie
        have : s.dies.modify c.die (fun d => { d with cores := d.cores.modify c.core f }) = s.dies := by
          have hl : s.dies.cells.length ≤ c.die := by rw [s.dies.size]; omega
          unfold Bank.modify
          congr 1
          exact List.modify_eq_self hl
        rw [this]
      rw [this]
  · rw [die_modDie_ne _ _ _ _ hd]

/-! ### Registers -/

@[simp] theorem Lanes.get_all {α : Type} (a : α) (i : Nat) : (Lanes.all a).get i = a := by
  unfold Lanes.get Lanes.all; split <;> rfl

theorem Lanes.get_ofFn {α : Type} (f : Nat → α) (i : Nat) (h : i < 4) : (Lanes.ofFn f).get i = f i := by
  match i, h with
  | 0, _ => rfl
  | 1, _ => rfl
  | 2, _ => rfl
  | 3, _ => rfl

theorem Lanes.get_set_self {α : Type} (x : Lanes α) (i : Nat) (a : α) : (x.set i a).get i = a := by
  unfold Lanes.set Lanes.get; split <;> simp_all

theorem Lanes.get_set_ne {α : Type} (x : Lanes α) (i j : Nat) (a : α) (hi : i < 4) (hj : j < 4) (h : j ≠ i) : (x.set i a).get j = x.get j := by
  match i, j, hi, hj with
  | 0, 0, _, _ => exact absurd rfl h
  | 0, 1, _, _ => rfl
  | 0, 2, _, _ => rfl
  | 0, 3, _, _ => rfl
  | 1, 0, _, _ => rfl
  | 1, 1, _, _ => exact absurd rfl h
  | 1, 2, _, _ => rfl
  | 1, 3, _, _ => rfl
  | 2, 0, _, _ => rfl
  | 2, 1, _, _ => rfl
  | 2, 2, _, _ => exact absurd rfl h
  | 2, 3, _, _ => rfl
  | 3, 0, _, _ => rfl
  | 3, 1, _, _ => rfl
  | 3, 2, _, _ => rfl
  | 3, 3, _, _ => exact absurd rfl h

theorem Lanes.get_merge {α : Type} (m : Mask) (x y : Lanes α) (i : Nat) (h : i < 4) :
    (Lanes.merge m x y).get i = if m.getLsbD i then y.get i else x.get i := by
  match i, h with
  | 0, _ => rfl
  | 1, _ => rfl
  | 2, _ => rfl
  | 3, _ => rfl

theorem Mask.mem_lanes (m : Mask) (i : Nat) : i ∈ Mask.lanes m ↔ i < 4 ∧ m.getLsbD i = true := by
  simp [Mask.lanes]

theorem setMask_mask_self (sl : Slice) (k : Nat) (x : Mask) (h0 : k ≠ 0) (h : k < 8) : (sl.setMask k x).mask k = x := by
  simp only [Slice.setMask, Slice.mask, h0, if_false]
  exact Bank.getD_set_self _ _ _ _ h

theorem setMask_mask_ne (sl : Slice) (k j : Nat) (x : Mask) (h : j ≠ k) : (sl.setMask k x).mask j = sl.mask j := by
  unfold Slice.setMask
  by_cases h0 : k = 0
  · simp [h0]
  · simp only [h0, if_false]
    unfold Slice.mask
    by_cases hj : j = 0
    · simp [hj]
    · simp only [hj, if_false]
      exact Bank.getD_set_ne _ _ _ _ _ h

/-- `m0` reads as every lane whatever is written to it (R20). -/
@[simp] theorem mask_zero (sl : Slice) : sl.mask 0 = 15 := rfl

/-! ### What every change leaves: the fields of the state outside the part it changes -/

@[simp] theorem modGroup_remotes (s : State) (gid : Nat) (f : Group → Group) : (s.modGroup gid f).remotes = s.remotes := rfl
@[simp] theorem modGroup_barriers (s : State) (gid : Nat) (f : Group → Group) : (s.modGroup gid f).barriers = s.barriers := rfl
@[simp] theorem modGroup_hbarWaiting (s : State) (gid : Nat) (f : Group → Group) : (s.modGroup gid f).hbarWaiting = s.hbarWaiting := rfl
@[simp] theorem modGroup_ended (s : State) (gid : Nat) (f : Group → Group) : (s.modGroup gid f).ended = s.ended := rfl
@[simp] theorem modGroup_queued (s : State) (gid : Nat) (f : Group → Group) : (s.modGroup gid f).queued = s.queued := rfl
@[simp] theorem modGroup_levels (s : State) (gid : Nat) (f : Group → Group) : (s.modGroup gid f).levels = s.levels := rfl
@[simp] theorem modGroup_enqueues (s : State) (gid : Nat) (f : Group → Group) : (s.modGroup gid f).enqueues = s.enqueues := rfl
@[simp] theorem modGroup_launchClusters (s : State) (gid : Nat) (f : Group → Group) : (s.modGroup gid f).launchClusters = s.launchClusters := rfl
@[simp] theorem modGroup_counterAccesses (s : State) (gid : Nat) (f : Group → Group) : (s.modGroup gid f).counterAccesses = s.counterAccesses := rfl
@[simp] theorem modGroup_regions (s : State) (gid : Nat) (f : Group → Group) : (s.modGroup gid f).regions = s.regions := rfl
@[simp] theorem modGroup_oldRegions (s : State) (gid : Nat) (f : Group → Group) : (s.modGroup gid f).oldRegions = s.oldRegions := rfl
@[simp] theorem modGroup_generation (s : State) (gid : Nat) (f : Group → Group) : (s.modGroup gid f).generation = s.generation := rfl
@[simp] theorem modGroup_rewrite (s : State) (gid : Nat) (f : Group → Group) : (s.modGroup gid f).rewrite = s.rewrite := rfl
@[simp] theorem modGroup_bases (s : State) (gid : Nat) (f : Group → Group) : (s.modGroup gid f).bases = s.bases := rfl
@[simp] theorem modGroup_sems (s : State) (gid : Nat) (f : Group → Group) : (s.modGroup gid f).sems = s.sems := rfl
@[simp] theorem modGroup_semLastLoser (s : State) (gid : Nat) (f : Group → Group) : (s.modGroup gid f).semLastLoser = s.semLastLoser := rfl
@[simp] theorem modGroup_bootstat (s : State) (gid : Nat) (f : Group → Group) : (s.modGroup gid f).bootstat = s.bootstat := rfl
@[simp] theorem modGroup_portsUp (s : State) (gid : Nat) (f : Group → Group) : (s.modGroup gid f).portsUp = s.portsUp := rfl
@[simp] theorem modGroup_flashA (s : State) (gid : Nat) (f : Group → Group) : (s.modGroup gid f).flashA = s.flashA := rfl
@[simp] theorem modGroup_flashB (s : State) (gid : Nat) (f : Group → Group) : (s.modGroup gid f).flashB = s.flashB := rfl
@[simp] theorem modGroup_preferB (s : State) (gid : Nat) (f : Group → Group) : (s.modGroup gid f).preferB = s.preferB := rfl
@[simp] theorem modGroup_pendingCommit (s : State) (gid : Nat) (f : Group → Group) : (s.modGroup gid f).pendingCommit = s.pendingCommit := rfl
@[simp] theorem modGroup_mailbox (s : State) (gid : Nat) (f : Group → Group) : (s.modGroup gid f).mailbox = s.mailbox := rfl
@[simp] theorem modGroup_flashEvents (s : State) (gid : Nat) (f : Group → Group) : (s.modGroup gid f).flashEvents = s.flashEvents := rfl
@[simp] theorem modGroup_rollback (s : State) (gid : Nat) (f : Group → Group) : (s.modGroup gid f).rollback = s.rollback := rfl
@[simp] theorem modGroup_revoked (s : State) (gid : Nat) (f : Group → Group) : (s.modGroup gid f).revoked = s.revoked := rfl
@[simp] theorem modGroup_keyHashes (s : State) (gid : Nat) (f : Group → Group) : (s.modGroup gid f).keyHashes = s.keyHashes := rfl
@[simp] theorem modGroup_deviceSecret (s : State) (gid : Nat) (f : Group → Group) : (s.modGroup gid f).deviceSecret = s.deviceSecret := rfl
@[simp] theorem modGroup_identitySeed (s : State) (gid : Nat) (f : Group → Group) : (s.modGroup gid f).identitySeed = s.identitySeed := rfl
@[simp] theorem modGroup_serial (s : State) (gid : Nat) (f : Group → Group) : (s.modGroup gid f).serial = s.serial := rfl
@[simp] theorem modGroup_fusesLocked (s : State) (gid : Nat) (f : Group → Group) : (s.modGroup gid f).fusesLocked = s.fusesLocked := rfl
@[simp] theorem modGroup_attestationSeed (s : State) (gid : Nat) (f : Group → Group) : (s.modGroup gid f).attestationSeed = s.attestationSeed := rfl
@[simp] theorem modGroup_imageDigest (s : State) (gid : Nat) (f : Group → Group) : (s.modGroup gid f).imageDigest = s.imageDigest := rfl
@[simp] theorem modGroup_imageSvn (s : State) (gid : Nat) (f : Group → Group) : (s.modGroup gid f).imageSvn = s.imageSvn := rfl
@[simp] theorem modGroup_moduleCap (s : State) (gid : Nat) (f : Group → Group) : (s.modGroup gid f).moduleCap = s.moduleCap := rfl
@[simp] theorem modGroup_now (s : State) (gid : Nat) (f : Group → Group) : (s.modGroup gid f).now = s.now := rfl
@[simp] theorem modGroup_nanos (s : State) (gid : Nat) (f : Group → Group) : (s.modGroup gid f).nanos = s.nanos := rfl
@[simp] theorem modGroup_nextGid (s : State) (gid : Nat) (f : Group → Group) : (s.modGroup gid f).nextGid = s.nextGid := rfl
@[simp] theorem modGroup_nextUid (s : State) (gid : Nat) (f : Group → Group) : (s.modGroup gid f).nextUid = s.nextUid := rfl
@[simp] theorem modGroup_nextStamp (s : State) (gid : Nat) (f : Group → Group) : (s.modGroup gid f).nextStamp = s.nextStamp := rfl
@[simp] theorem modGroup_nextCopy (s : State) (gid : Nat) (f : Group → Group) : (s.modGroup gid f).nextCopy = s.nextCopy := rfl
@[simp] theorem modGroup_nextLaunch (s : State) (gid : Nat) (f : Group → Group) : (s.modGroup gid f).nextLaunch = s.nextLaunch := rfl
@[simp] theorem modGroup_links (s : State) (gid : Nat) (f : Group → Group) : (s.modGroup gid f).links = s.links := rfl
@[simp] theorem modGroup_routes (s : State) (gid : Nat) (f : Group → Group) : (s.modGroup gid f).routes = s.routes := rfl
@[simp] theorem modGroup_package (s : State) (gid : Nat) (f : Group → Group) : (s.modGroup gid f).package = s.package := rfl
@[simp] theorem modGroup_outNext (s : State) (gid : Nat) (f : Group → Group) : (s.modGroup gid f).outNext = s.outNext := rfl
@[simp] theorem modGroup_kept (s : State) (gid : Nat) (f : Group → Group) : (s.modGroup gid f).kept = s.kept := rfl
@[simp] theorem modGroup_inflow (s : State) (gid : Nat) (f : Group → Group) : (s.modGroup gid f).inflow = s.inflow := rfl
@[simp] theorem modGroup_clearPackets (s : State) (gid : Nat) (f : Group → Group) : (s.modGroup gid f).clearPackets = s.clearPackets := rfl
@[simp] theorem modGroup_parkedPackets (s : State) (gid : Nat) (f : Group → Group) : (s.modGroup gid f).parkedPackets = s.parkedPackets := rfl
@[simp] theorem modGroup_coordinator (s : State) (gid : Nat) (f : Group → Group) : (s.modGroup gid f).coordinator = s.coordinator := rfl
@[simp] theorem modGroup_jobWaiting (s : State) (gid : Nat) (f : Group → Group) : (s.modGroup gid f).jobWaiting = s.jobWaiting := rfl
@[simp] theorem modGroup_jobMessages (s : State) (gid : Nat) (f : Group → Group) : (s.modGroup gid f).jobMessages = s.jobMessages := rfl
@[simp] theorem modGroup_jobAnswers (s : State) (gid : Nat) (f : Group → Group) : (s.modGroup gid f).jobAnswers = s.jobAnswers := rfl
@[simp] theorem modGroup_deviceLog (s : State) (gid : Nat) (f : Group → Group) : (s.modGroup gid f).deviceLog = s.deviceLog := rfl
@[simp] theorem modGroup_asks (s : State) (gid : Nat) (f : Group → Group) : (s.modGroup gid f).asks = s.asks := rfl
@[simp] theorem modGroup_ucie (s : State) (gid : Nat) (f : Group → Group) : (s.modGroup gid f).ucie = s.ucie := rfl
@[simp] theorem modGroup_hostLines (s : State) (gid : Nat) (f : Group → Group) : (s.modGroup gid f).hostLines = s.hostLines := rfl
@[simp] theorem modGroup_backInvalidates (s : State) (gid : Nat) (f : Group → Group) : (s.modGroup gid f).backInvalidates = s.backInvalidates := rfl
@[simp] theorem modGroup_replies (s : State) (gid : Nat) (f : Group → Group) : (s.modGroup gid f).replies = s.replies := rfl
@[simp] theorem modGroup_msix (s : State) (gid : Nat) (f : Group → Group) : (s.modGroup gid f).msix = s.msix := rfl

@[simp] theorem modSlice_parks (s : State) (r : SliceRef) (f : Slice → Slice) : (s.modSlice r f).parks = s.parks := rfl
@[simp] theorem modSlice_remotes (s : State) (r : SliceRef) (f : Slice → Slice) : (s.modSlice r f).remotes = s.remotes := rfl
@[simp] theorem modSlice_barriers (s : State) (r : SliceRef) (f : Slice → Slice) : (s.modSlice r f).barriers = s.barriers := rfl
@[simp] theorem modSlice_hbarWaiting (s : State) (r : SliceRef) (f : Slice → Slice) : (s.modSlice r f).hbarWaiting = s.hbarWaiting := rfl
@[simp] theorem modSlice_ended (s : State) (r : SliceRef) (f : Slice → Slice) : (s.modSlice r f).ended = s.ended := rfl
@[simp] theorem modSlice_queued (s : State) (r : SliceRef) (f : Slice → Slice) : (s.modSlice r f).queued = s.queued := rfl
@[simp] theorem modSlice_levels (s : State) (r : SliceRef) (f : Slice → Slice) : (s.modSlice r f).levels = s.levels := rfl
@[simp] theorem modSlice_enqueues (s : State) (r : SliceRef) (f : Slice → Slice) : (s.modSlice r f).enqueues = s.enqueues := rfl
@[simp] theorem modSlice_launchClusters (s : State) (r : SliceRef) (f : Slice → Slice) : (s.modSlice r f).launchClusters = s.launchClusters := rfl
@[simp] theorem modSlice_counterAccesses (s : State) (r : SliceRef) (f : Slice → Slice) : (s.modSlice r f).counterAccesses = s.counterAccesses := rfl
@[simp] theorem modSlice_regions (s : State) (r : SliceRef) (f : Slice → Slice) : (s.modSlice r f).regions = s.regions := rfl
@[simp] theorem modSlice_oldRegions (s : State) (r : SliceRef) (f : Slice → Slice) : (s.modSlice r f).oldRegions = s.oldRegions := rfl
@[simp] theorem modSlice_generation (s : State) (r : SliceRef) (f : Slice → Slice) : (s.modSlice r f).generation = s.generation := rfl
@[simp] theorem modSlice_rewrite (s : State) (r : SliceRef) (f : Slice → Slice) : (s.modSlice r f).rewrite = s.rewrite := rfl
@[simp] theorem modSlice_bases (s : State) (r : SliceRef) (f : Slice → Slice) : (s.modSlice r f).bases = s.bases := rfl
@[simp] theorem modSlice_sems (s : State) (r : SliceRef) (f : Slice → Slice) : (s.modSlice r f).sems = s.sems := rfl
@[simp] theorem modSlice_semLastLoser (s : State) (r : SliceRef) (f : Slice → Slice) : (s.modSlice r f).semLastLoser = s.semLastLoser := rfl
@[simp] theorem modSlice_bootstat (s : State) (r : SliceRef) (f : Slice → Slice) : (s.modSlice r f).bootstat = s.bootstat := rfl
@[simp] theorem modSlice_portsUp (s : State) (r : SliceRef) (f : Slice → Slice) : (s.modSlice r f).portsUp = s.portsUp := rfl
@[simp] theorem modSlice_flashA (s : State) (r : SliceRef) (f : Slice → Slice) : (s.modSlice r f).flashA = s.flashA := rfl
@[simp] theorem modSlice_flashB (s : State) (r : SliceRef) (f : Slice → Slice) : (s.modSlice r f).flashB = s.flashB := rfl
@[simp] theorem modSlice_preferB (s : State) (r : SliceRef) (f : Slice → Slice) : (s.modSlice r f).preferB = s.preferB := rfl
@[simp] theorem modSlice_pendingCommit (s : State) (r : SliceRef) (f : Slice → Slice) : (s.modSlice r f).pendingCommit = s.pendingCommit := rfl
@[simp] theorem modSlice_mailbox (s : State) (r : SliceRef) (f : Slice → Slice) : (s.modSlice r f).mailbox = s.mailbox := rfl
@[simp] theorem modSlice_flashEvents (s : State) (r : SliceRef) (f : Slice → Slice) : (s.modSlice r f).flashEvents = s.flashEvents := rfl
@[simp] theorem modSlice_rollback (s : State) (r : SliceRef) (f : Slice → Slice) : (s.modSlice r f).rollback = s.rollback := rfl
@[simp] theorem modSlice_revoked (s : State) (r : SliceRef) (f : Slice → Slice) : (s.modSlice r f).revoked = s.revoked := rfl
@[simp] theorem modSlice_keyHashes (s : State) (r : SliceRef) (f : Slice → Slice) : (s.modSlice r f).keyHashes = s.keyHashes := rfl
@[simp] theorem modSlice_deviceSecret (s : State) (r : SliceRef) (f : Slice → Slice) : (s.modSlice r f).deviceSecret = s.deviceSecret := rfl
@[simp] theorem modSlice_identitySeed (s : State) (r : SliceRef) (f : Slice → Slice) : (s.modSlice r f).identitySeed = s.identitySeed := rfl
@[simp] theorem modSlice_serial (s : State) (r : SliceRef) (f : Slice → Slice) : (s.modSlice r f).serial = s.serial := rfl
@[simp] theorem modSlice_fusesLocked (s : State) (r : SliceRef) (f : Slice → Slice) : (s.modSlice r f).fusesLocked = s.fusesLocked := rfl
@[simp] theorem modSlice_attestationSeed (s : State) (r : SliceRef) (f : Slice → Slice) : (s.modSlice r f).attestationSeed = s.attestationSeed := rfl
@[simp] theorem modSlice_imageDigest (s : State) (r : SliceRef) (f : Slice → Slice) : (s.modSlice r f).imageDigest = s.imageDigest := rfl
@[simp] theorem modSlice_imageSvn (s : State) (r : SliceRef) (f : Slice → Slice) : (s.modSlice r f).imageSvn = s.imageSvn := rfl
@[simp] theorem modSlice_moduleCap (s : State) (r : SliceRef) (f : Slice → Slice) : (s.modSlice r f).moduleCap = s.moduleCap := rfl
@[simp] theorem modSlice_now (s : State) (r : SliceRef) (f : Slice → Slice) : (s.modSlice r f).now = s.now := rfl
@[simp] theorem modSlice_nanos (s : State) (r : SliceRef) (f : Slice → Slice) : (s.modSlice r f).nanos = s.nanos := rfl
@[simp] theorem modSlice_nextGid (s : State) (r : SliceRef) (f : Slice → Slice) : (s.modSlice r f).nextGid = s.nextGid := rfl
@[simp] theorem modSlice_nextUid (s : State) (r : SliceRef) (f : Slice → Slice) : (s.modSlice r f).nextUid = s.nextUid := rfl
@[simp] theorem modSlice_nextStamp (s : State) (r : SliceRef) (f : Slice → Slice) : (s.modSlice r f).nextStamp = s.nextStamp := rfl
@[simp] theorem modSlice_nextCopy (s : State) (r : SliceRef) (f : Slice → Slice) : (s.modSlice r f).nextCopy = s.nextCopy := rfl
@[simp] theorem modSlice_nextLaunch (s : State) (r : SliceRef) (f : Slice → Slice) : (s.modSlice r f).nextLaunch = s.nextLaunch := rfl
@[simp] theorem modSlice_links (s : State) (r : SliceRef) (f : Slice → Slice) : (s.modSlice r f).links = s.links := rfl
@[simp] theorem modSlice_routes (s : State) (r : SliceRef) (f : Slice → Slice) : (s.modSlice r f).routes = s.routes := rfl
@[simp] theorem modSlice_package (s : State) (r : SliceRef) (f : Slice → Slice) : (s.modSlice r f).package = s.package := rfl
@[simp] theorem modSlice_outNext (s : State) (r : SliceRef) (f : Slice → Slice) : (s.modSlice r f).outNext = s.outNext := rfl
@[simp] theorem modSlice_kept (s : State) (r : SliceRef) (f : Slice → Slice) : (s.modSlice r f).kept = s.kept := rfl
@[simp] theorem modSlice_inflow (s : State) (r : SliceRef) (f : Slice → Slice) : (s.modSlice r f).inflow = s.inflow := rfl
@[simp] theorem modSlice_clearPackets (s : State) (r : SliceRef) (f : Slice → Slice) : (s.modSlice r f).clearPackets = s.clearPackets := rfl
@[simp] theorem modSlice_parkedPackets (s : State) (r : SliceRef) (f : Slice → Slice) : (s.modSlice r f).parkedPackets = s.parkedPackets := rfl
@[simp] theorem modSlice_coordinator (s : State) (r : SliceRef) (f : Slice → Slice) : (s.modSlice r f).coordinator = s.coordinator := rfl
@[simp] theorem modSlice_jobWaiting (s : State) (r : SliceRef) (f : Slice → Slice) : (s.modSlice r f).jobWaiting = s.jobWaiting := rfl
@[simp] theorem modSlice_jobMessages (s : State) (r : SliceRef) (f : Slice → Slice) : (s.modSlice r f).jobMessages = s.jobMessages := rfl
@[simp] theorem modSlice_jobAnswers (s : State) (r : SliceRef) (f : Slice → Slice) : (s.modSlice r f).jobAnswers = s.jobAnswers := rfl
@[simp] theorem modSlice_deviceLog (s : State) (r : SliceRef) (f : Slice → Slice) : (s.modSlice r f).deviceLog = s.deviceLog := rfl
@[simp] theorem modSlice_asks (s : State) (r : SliceRef) (f : Slice → Slice) : (s.modSlice r f).asks = s.asks := rfl
@[simp] theorem modSlice_ucie (s : State) (r : SliceRef) (f : Slice → Slice) : (s.modSlice r f).ucie = s.ucie := rfl
@[simp] theorem modSlice_hostLines (s : State) (r : SliceRef) (f : Slice → Slice) : (s.modSlice r f).hostLines = s.hostLines := rfl
@[simp] theorem modSlice_backInvalidates (s : State) (r : SliceRef) (f : Slice → Slice) : (s.modSlice r f).backInvalidates = s.backInvalidates := rfl
@[simp] theorem modSlice_replies (s : State) (r : SliceRef) (f : Slice → Slice) : (s.modSlice r f).replies = s.replies := rfl
@[simp] theorem modSlice_msix (s : State) (r : SliceRef) (f : Slice → Slice) : (s.modSlice r f).msix = s.msix := rfl
@[simp] theorem modSlice_agenda (s : State) (r : SliceRef) (f : Slice → Slice) : (s.modSlice r f).agenda = s.agenda := rfl

@[simp] theorem modDie_parks (s : State) (n : Nat) (f : Die → Die) : (s.modDie n f).parks = s.parks := rfl
@[simp] theorem modDie_remotes (s : State) (n : Nat) (f : Die → Die) : (s.modDie n f).remotes = s.remotes := rfl
@[simp] theorem modDie_barriers (s : State) (n : Nat) (f : Die → Die) : (s.modDie n f).barriers = s.barriers := rfl
@[simp] theorem modDie_hbarWaiting (s : State) (n : Nat) (f : Die → Die) : (s.modDie n f).hbarWaiting = s.hbarWaiting := rfl
@[simp] theorem modDie_partitions (s : State) (n : Nat) (f : Die → Die) : (s.modDie n f).partitions = s.partitions := rfl
@[simp] theorem modDie_ended (s : State) (n : Nat) (f : Die → Die) : (s.modDie n f).ended = s.ended := rfl
@[simp] theorem modDie_units (s : State) (n : Nat) (f : Die → Die) : (s.modDie n f).units = s.units := rfl
@[simp] theorem modDie_queued (s : State) (n : Nat) (f : Die → Die) : (s.modDie n f).queued = s.queued := rfl
@[simp] theorem modDie_levels (s : State) (n : Nat) (f : Die → Die) : (s.modDie n f).levels = s.levels := rfl
@[simp] theorem modDie_enqueues (s : State) (n : Nat) (f : Die → Die) : (s.modDie n f).enqueues = s.enqueues := rfl
@[simp] theorem modDie_launchClusters (s : State) (n : Nat) (f : Die → Die) : (s.modDie n f).launchClusters = s.launchClusters := rfl
@[simp] theorem modDie_counterAccesses (s : State) (n : Nat) (f : Die → Die) : (s.modDie n f).counterAccesses = s.counterAccesses := rfl
@[simp] theorem modDie_regions (s : State) (n : Nat) (f : Die → Die) : (s.modDie n f).regions = s.regions := rfl
@[simp] theorem modDie_oldRegions (s : State) (n : Nat) (f : Die → Die) : (s.modDie n f).oldRegions = s.oldRegions := rfl
@[simp] theorem modDie_generation (s : State) (n : Nat) (f : Die → Die) : (s.modDie n f).generation = s.generation := rfl
@[simp] theorem modDie_rewrite (s : State) (n : Nat) (f : Die → Die) : (s.modDie n f).rewrite = s.rewrite := rfl
@[simp] theorem modDie_bases (s : State) (n : Nat) (f : Die → Die) : (s.modDie n f).bases = s.bases := rfl
@[simp] theorem modDie_sems (s : State) (n : Nat) (f : Die → Die) : (s.modDie n f).sems = s.sems := rfl
@[simp] theorem modDie_semLastLoser (s : State) (n : Nat) (f : Die → Die) : (s.modDie n f).semLastLoser = s.semLastLoser := rfl
@[simp] theorem modDie_bootstat (s : State) (n : Nat) (f : Die → Die) : (s.modDie n f).bootstat = s.bootstat := rfl
@[simp] theorem modDie_portsUp (s : State) (n : Nat) (f : Die → Die) : (s.modDie n f).portsUp = s.portsUp := rfl
@[simp] theorem modDie_flashA (s : State) (n : Nat) (f : Die → Die) : (s.modDie n f).flashA = s.flashA := rfl
@[simp] theorem modDie_flashB (s : State) (n : Nat) (f : Die → Die) : (s.modDie n f).flashB = s.flashB := rfl
@[simp] theorem modDie_preferB (s : State) (n : Nat) (f : Die → Die) : (s.modDie n f).preferB = s.preferB := rfl
@[simp] theorem modDie_pendingCommit (s : State) (n : Nat) (f : Die → Die) : (s.modDie n f).pendingCommit = s.pendingCommit := rfl
@[simp] theorem modDie_mailbox (s : State) (n : Nat) (f : Die → Die) : (s.modDie n f).mailbox = s.mailbox := rfl
@[simp] theorem modDie_flashEvents (s : State) (n : Nat) (f : Die → Die) : (s.modDie n f).flashEvents = s.flashEvents := rfl
@[simp] theorem modDie_rollback (s : State) (n : Nat) (f : Die → Die) : (s.modDie n f).rollback = s.rollback := rfl
@[simp] theorem modDie_revoked (s : State) (n : Nat) (f : Die → Die) : (s.modDie n f).revoked = s.revoked := rfl
@[simp] theorem modDie_keyHashes (s : State) (n : Nat) (f : Die → Die) : (s.modDie n f).keyHashes = s.keyHashes := rfl
@[simp] theorem modDie_deviceSecret (s : State) (n : Nat) (f : Die → Die) : (s.modDie n f).deviceSecret = s.deviceSecret := rfl
@[simp] theorem modDie_identitySeed (s : State) (n : Nat) (f : Die → Die) : (s.modDie n f).identitySeed = s.identitySeed := rfl
@[simp] theorem modDie_serial (s : State) (n : Nat) (f : Die → Die) : (s.modDie n f).serial = s.serial := rfl
@[simp] theorem modDie_fusesLocked (s : State) (n : Nat) (f : Die → Die) : (s.modDie n f).fusesLocked = s.fusesLocked := rfl
@[simp] theorem modDie_attestationSeed (s : State) (n : Nat) (f : Die → Die) : (s.modDie n f).attestationSeed = s.attestationSeed := rfl
@[simp] theorem modDie_imageDigest (s : State) (n : Nat) (f : Die → Die) : (s.modDie n f).imageDigest = s.imageDigest := rfl
@[simp] theorem modDie_imageSvn (s : State) (n : Nat) (f : Die → Die) : (s.modDie n f).imageSvn = s.imageSvn := rfl
@[simp] theorem modDie_moduleCap (s : State) (n : Nat) (f : Die → Die) : (s.modDie n f).moduleCap = s.moduleCap := rfl
@[simp] theorem modDie_now (s : State) (n : Nat) (f : Die → Die) : (s.modDie n f).now = s.now := rfl
@[simp] theorem modDie_nanos (s : State) (n : Nat) (f : Die → Die) : (s.modDie n f).nanos = s.nanos := rfl
@[simp] theorem modDie_nextGid (s : State) (n : Nat) (f : Die → Die) : (s.modDie n f).nextGid = s.nextGid := rfl
@[simp] theorem modDie_nextUid (s : State) (n : Nat) (f : Die → Die) : (s.modDie n f).nextUid = s.nextUid := rfl
@[simp] theorem modDie_nextStamp (s : State) (n : Nat) (f : Die → Die) : (s.modDie n f).nextStamp = s.nextStamp := rfl
@[simp] theorem modDie_nextCopy (s : State) (n : Nat) (f : Die → Die) : (s.modDie n f).nextCopy = s.nextCopy := rfl
@[simp] theorem modDie_nextLaunch (s : State) (n : Nat) (f : Die → Die) : (s.modDie n f).nextLaunch = s.nextLaunch := rfl
@[simp] theorem modDie_links (s : State) (n : Nat) (f : Die → Die) : (s.modDie n f).links = s.links := rfl
@[simp] theorem modDie_routes (s : State) (n : Nat) (f : Die → Die) : (s.modDie n f).routes = s.routes := rfl
@[simp] theorem modDie_package (s : State) (n : Nat) (f : Die → Die) : (s.modDie n f).package = s.package := rfl
@[simp] theorem modDie_outNext (s : State) (n : Nat) (f : Die → Die) : (s.modDie n f).outNext = s.outNext := rfl
@[simp] theorem modDie_kept (s : State) (n : Nat) (f : Die → Die) : (s.modDie n f).kept = s.kept := rfl
@[simp] theorem modDie_inflow (s : State) (n : Nat) (f : Die → Die) : (s.modDie n f).inflow = s.inflow := rfl
@[simp] theorem modDie_clearPackets (s : State) (n : Nat) (f : Die → Die) : (s.modDie n f).clearPackets = s.clearPackets := rfl
@[simp] theorem modDie_parkedPackets (s : State) (n : Nat) (f : Die → Die) : (s.modDie n f).parkedPackets = s.parkedPackets := rfl
@[simp] theorem modDie_coordinator (s : State) (n : Nat) (f : Die → Die) : (s.modDie n f).coordinator = s.coordinator := rfl
@[simp] theorem modDie_jobWaiting (s : State) (n : Nat) (f : Die → Die) : (s.modDie n f).jobWaiting = s.jobWaiting := rfl
@[simp] theorem modDie_jobMessages (s : State) (n : Nat) (f : Die → Die) : (s.modDie n f).jobMessages = s.jobMessages := rfl
@[simp] theorem modDie_jobAnswers (s : State) (n : Nat) (f : Die → Die) : (s.modDie n f).jobAnswers = s.jobAnswers := rfl
@[simp] theorem modDie_deviceLog (s : State) (n : Nat) (f : Die → Die) : (s.modDie n f).deviceLog = s.deviceLog := rfl
@[simp] theorem modDie_asks (s : State) (n : Nat) (f : Die → Die) : (s.modDie n f).asks = s.asks := rfl
@[simp] theorem modDie_ucie (s : State) (n : Nat) (f : Die → Die) : (s.modDie n f).ucie = s.ucie := rfl
@[simp] theorem modDie_hostLines (s : State) (n : Nat) (f : Die → Die) : (s.modDie n f).hostLines = s.hostLines := rfl
@[simp] theorem modDie_backInvalidates (s : State) (n : Nat) (f : Die → Die) : (s.modDie n f).backInvalidates = s.backInvalidates := rfl
@[simp] theorem modDie_replies (s : State) (n : Nat) (f : Die → Die) : (s.modDie n f).replies = s.replies := rfl
@[simp] theorem modDie_msix (s : State) (n : Nat) (f : Die → Die) : (s.modDie n f).msix = s.msix := rfl
@[simp] theorem modDie_agenda (s : State) (n : Nat) (f : Die → Die) : (s.modDie n f).agenda = s.agenda := rfl
@[simp] theorem modDie_issuer (s : State) (n : Nat) (f : Die → Die) : (s.modDie n f).issuer = s.issuer := rfl
@[simp] theorem modDie_fresh (s : State) (n : Nat) (f : Die → Die) : (s.modDie n f).fresh = s.fresh := rfl

@[simp] theorem modCore_parks (s : State) (c : CoreRef) (f : Core → Core) : (s.modCore c f).parks = s.parks := rfl
@[simp] theorem modCore_remotes (s : State) (c : CoreRef) (f : Core → Core) : (s.modCore c f).remotes = s.remotes := rfl
@[simp] theorem modCore_barriers (s : State) (c : CoreRef) (f : Core → Core) : (s.modCore c f).barriers = s.barriers := rfl
@[simp] theorem modCore_hbarWaiting (s : State) (c : CoreRef) (f : Core → Core) : (s.modCore c f).hbarWaiting = s.hbarWaiting := rfl
@[simp] theorem modCore_partitions (s : State) (c : CoreRef) (f : Core → Core) : (s.modCore c f).partitions = s.partitions := rfl
@[simp] theorem modCore_ended (s : State) (c : CoreRef) (f : Core → Core) : (s.modCore c f).ended = s.ended := rfl
@[simp] theorem modCore_units (s : State) (c : CoreRef) (f : Core → Core) : (s.modCore c f).units = s.units := rfl
@[simp] theorem modCore_queued (s : State) (c : CoreRef) (f : Core → Core) : (s.modCore c f).queued = s.queued := rfl
@[simp] theorem modCore_levels (s : State) (c : CoreRef) (f : Core → Core) : (s.modCore c f).levels = s.levels := rfl
@[simp] theorem modCore_enqueues (s : State) (c : CoreRef) (f : Core → Core) : (s.modCore c f).enqueues = s.enqueues := rfl
@[simp] theorem modCore_launchClusters (s : State) (c : CoreRef) (f : Core → Core) : (s.modCore c f).launchClusters = s.launchClusters := rfl
@[simp] theorem modCore_counterAccesses (s : State) (c : CoreRef) (f : Core → Core) : (s.modCore c f).counterAccesses = s.counterAccesses := rfl
@[simp] theorem modCore_regions (s : State) (c : CoreRef) (f : Core → Core) : (s.modCore c f).regions = s.regions := rfl
@[simp] theorem modCore_oldRegions (s : State) (c : CoreRef) (f : Core → Core) : (s.modCore c f).oldRegions = s.oldRegions := rfl
@[simp] theorem modCore_generation (s : State) (c : CoreRef) (f : Core → Core) : (s.modCore c f).generation = s.generation := rfl
@[simp] theorem modCore_rewrite (s : State) (c : CoreRef) (f : Core → Core) : (s.modCore c f).rewrite = s.rewrite := rfl
@[simp] theorem modCore_bases (s : State) (c : CoreRef) (f : Core → Core) : (s.modCore c f).bases = s.bases := rfl
@[simp] theorem modCore_sems (s : State) (c : CoreRef) (f : Core → Core) : (s.modCore c f).sems = s.sems := rfl
@[simp] theorem modCore_semLastLoser (s : State) (c : CoreRef) (f : Core → Core) : (s.modCore c f).semLastLoser = s.semLastLoser := rfl
@[simp] theorem modCore_bootstat (s : State) (c : CoreRef) (f : Core → Core) : (s.modCore c f).bootstat = s.bootstat := rfl
@[simp] theorem modCore_portsUp (s : State) (c : CoreRef) (f : Core → Core) : (s.modCore c f).portsUp = s.portsUp := rfl
@[simp] theorem modCore_flashA (s : State) (c : CoreRef) (f : Core → Core) : (s.modCore c f).flashA = s.flashA := rfl
@[simp] theorem modCore_flashB (s : State) (c : CoreRef) (f : Core → Core) : (s.modCore c f).flashB = s.flashB := rfl
@[simp] theorem modCore_preferB (s : State) (c : CoreRef) (f : Core → Core) : (s.modCore c f).preferB = s.preferB := rfl
@[simp] theorem modCore_pendingCommit (s : State) (c : CoreRef) (f : Core → Core) : (s.modCore c f).pendingCommit = s.pendingCommit := rfl
@[simp] theorem modCore_mailbox (s : State) (c : CoreRef) (f : Core → Core) : (s.modCore c f).mailbox = s.mailbox := rfl
@[simp] theorem modCore_flashEvents (s : State) (c : CoreRef) (f : Core → Core) : (s.modCore c f).flashEvents = s.flashEvents := rfl
@[simp] theorem modCore_rollback (s : State) (c : CoreRef) (f : Core → Core) : (s.modCore c f).rollback = s.rollback := rfl
@[simp] theorem modCore_revoked (s : State) (c : CoreRef) (f : Core → Core) : (s.modCore c f).revoked = s.revoked := rfl
@[simp] theorem modCore_keyHashes (s : State) (c : CoreRef) (f : Core → Core) : (s.modCore c f).keyHashes = s.keyHashes := rfl
@[simp] theorem modCore_deviceSecret (s : State) (c : CoreRef) (f : Core → Core) : (s.modCore c f).deviceSecret = s.deviceSecret := rfl
@[simp] theorem modCore_identitySeed (s : State) (c : CoreRef) (f : Core → Core) : (s.modCore c f).identitySeed = s.identitySeed := rfl
@[simp] theorem modCore_serial (s : State) (c : CoreRef) (f : Core → Core) : (s.modCore c f).serial = s.serial := rfl
@[simp] theorem modCore_fusesLocked (s : State) (c : CoreRef) (f : Core → Core) : (s.modCore c f).fusesLocked = s.fusesLocked := rfl
@[simp] theorem modCore_attestationSeed (s : State) (c : CoreRef) (f : Core → Core) : (s.modCore c f).attestationSeed = s.attestationSeed := rfl
@[simp] theorem modCore_imageDigest (s : State) (c : CoreRef) (f : Core → Core) : (s.modCore c f).imageDigest = s.imageDigest := rfl
@[simp] theorem modCore_imageSvn (s : State) (c : CoreRef) (f : Core → Core) : (s.modCore c f).imageSvn = s.imageSvn := rfl
@[simp] theorem modCore_moduleCap (s : State) (c : CoreRef) (f : Core → Core) : (s.modCore c f).moduleCap = s.moduleCap := rfl
@[simp] theorem modCore_now (s : State) (c : CoreRef) (f : Core → Core) : (s.modCore c f).now = s.now := rfl
@[simp] theorem modCore_nanos (s : State) (c : CoreRef) (f : Core → Core) : (s.modCore c f).nanos = s.nanos := rfl
@[simp] theorem modCore_nextGid (s : State) (c : CoreRef) (f : Core → Core) : (s.modCore c f).nextGid = s.nextGid := rfl
@[simp] theorem modCore_nextUid (s : State) (c : CoreRef) (f : Core → Core) : (s.modCore c f).nextUid = s.nextUid := rfl
@[simp] theorem modCore_nextStamp (s : State) (c : CoreRef) (f : Core → Core) : (s.modCore c f).nextStamp = s.nextStamp := rfl
@[simp] theorem modCore_nextCopy (s : State) (c : CoreRef) (f : Core → Core) : (s.modCore c f).nextCopy = s.nextCopy := rfl
@[simp] theorem modCore_nextLaunch (s : State) (c : CoreRef) (f : Core → Core) : (s.modCore c f).nextLaunch = s.nextLaunch := rfl
@[simp] theorem modCore_links (s : State) (c : CoreRef) (f : Core → Core) : (s.modCore c f).links = s.links := rfl
@[simp] theorem modCore_routes (s : State) (c : CoreRef) (f : Core → Core) : (s.modCore c f).routes = s.routes := rfl
@[simp] theorem modCore_package (s : State) (c : CoreRef) (f : Core → Core) : (s.modCore c f).package = s.package := rfl
@[simp] theorem modCore_outNext (s : State) (c : CoreRef) (f : Core → Core) : (s.modCore c f).outNext = s.outNext := rfl
@[simp] theorem modCore_kept (s : State) (c : CoreRef) (f : Core → Core) : (s.modCore c f).kept = s.kept := rfl
@[simp] theorem modCore_inflow (s : State) (c : CoreRef) (f : Core → Core) : (s.modCore c f).inflow = s.inflow := rfl
@[simp] theorem modCore_clearPackets (s : State) (c : CoreRef) (f : Core → Core) : (s.modCore c f).clearPackets = s.clearPackets := rfl
@[simp] theorem modCore_parkedPackets (s : State) (c : CoreRef) (f : Core → Core) : (s.modCore c f).parkedPackets = s.parkedPackets := rfl
@[simp] theorem modCore_coordinator (s : State) (c : CoreRef) (f : Core → Core) : (s.modCore c f).coordinator = s.coordinator := rfl
@[simp] theorem modCore_jobWaiting (s : State) (c : CoreRef) (f : Core → Core) : (s.modCore c f).jobWaiting = s.jobWaiting := rfl
@[simp] theorem modCore_jobMessages (s : State) (c : CoreRef) (f : Core → Core) : (s.modCore c f).jobMessages = s.jobMessages := rfl
@[simp] theorem modCore_jobAnswers (s : State) (c : CoreRef) (f : Core → Core) : (s.modCore c f).jobAnswers = s.jobAnswers := rfl
@[simp] theorem modCore_deviceLog (s : State) (c : CoreRef) (f : Core → Core) : (s.modCore c f).deviceLog = s.deviceLog := rfl
@[simp] theorem modCore_asks (s : State) (c : CoreRef) (f : Core → Core) : (s.modCore c f).asks = s.asks := rfl
@[simp] theorem modCore_ucie (s : State) (c : CoreRef) (f : Core → Core) : (s.modCore c f).ucie = s.ucie := rfl
@[simp] theorem modCore_hostLines (s : State) (c : CoreRef) (f : Core → Core) : (s.modCore c f).hostLines = s.hostLines := rfl
@[simp] theorem modCore_backInvalidates (s : State) (c : CoreRef) (f : Core → Core) : (s.modCore c f).backInvalidates = s.backInvalidates := rfl
@[simp] theorem modCore_replies (s : State) (c : CoreRef) (f : Core → Core) : (s.modCore c f).replies = s.replies := rfl
@[simp] theorem modCore_msix (s : State) (c : CoreRef) (f : Core → Core) : (s.modCore c f).msix = s.msix := rfl
@[simp] theorem modCore_agenda (s : State) (c : CoreRef) (f : Core → Core) : (s.modCore c f).agenda = s.agenda := rfl
@[simp] theorem modCore_issuer (s : State) (c : CoreRef) (f : Core → Core) : (s.modCore c f).issuer = s.issuer := rfl
@[simp] theorem modCore_fresh (s : State) (c : CoreRef) (f : Core → Core) : (s.modCore c f).fresh = s.fresh := rfl

@[simp] theorem modPart_mem (s : State) (n : Nat) (f : Partition → Partition) : (s.modPart n f).mem = s.mem := rfl
@[simp] theorem modPart_groups (s : State) (n : Nat) (f : Partition → Partition) : (s.modPart n f).groups = s.groups := rfl
@[simp] theorem modPart_dies (s : State) (n : Nat) (f : Partition → Partition) : (s.modPart n f).dies = s.dies := rfl
@[simp] theorem modPart_parks (s : State) (n : Nat) (f : Partition → Partition) : (s.modPart n f).parks = s.parks := rfl
@[simp] theorem modPart_remotes (s : State) (n : Nat) (f : Partition → Partition) : (s.modPart n f).remotes = s.remotes := rfl
@[simp] theorem modPart_barriers (s : State) (n : Nat) (f : Partition → Partition) : (s.modPart n f).barriers = s.barriers := rfl
@[simp] theorem modPart_hbarWaiting (s : State) (n : Nat) (f : Partition → Partition) : (s.modPart n f).hbarWaiting = s.hbarWaiting := rfl
@[simp] theorem modPart_ended (s : State) (n : Nat) (f : Partition → Partition) : (s.modPart n f).ended = s.ended := rfl
@[simp] theorem modPart_units (s : State) (n : Nat) (f : Partition → Partition) : (s.modPart n f).units = s.units := rfl
@[simp] theorem modPart_queued (s : State) (n : Nat) (f : Partition → Partition) : (s.modPart n f).queued = s.queued := rfl
@[simp] theorem modPart_levels (s : State) (n : Nat) (f : Partition → Partition) : (s.modPart n f).levels = s.levels := rfl
@[simp] theorem modPart_enqueues (s : State) (n : Nat) (f : Partition → Partition) : (s.modPart n f).enqueues = s.enqueues := rfl
@[simp] theorem modPart_launchClusters (s : State) (n : Nat) (f : Partition → Partition) : (s.modPart n f).launchClusters = s.launchClusters := rfl
@[simp] theorem modPart_counterAccesses (s : State) (n : Nat) (f : Partition → Partition) : (s.modPart n f).counterAccesses = s.counterAccesses := rfl
@[simp] theorem modPart_regions (s : State) (n : Nat) (f : Partition → Partition) : (s.modPart n f).regions = s.regions := rfl
@[simp] theorem modPart_oldRegions (s : State) (n : Nat) (f : Partition → Partition) : (s.modPart n f).oldRegions = s.oldRegions := rfl
@[simp] theorem modPart_generation (s : State) (n : Nat) (f : Partition → Partition) : (s.modPart n f).generation = s.generation := rfl
@[simp] theorem modPart_rewrite (s : State) (n : Nat) (f : Partition → Partition) : (s.modPart n f).rewrite = s.rewrite := rfl
@[simp] theorem modPart_bases (s : State) (n : Nat) (f : Partition → Partition) : (s.modPart n f).bases = s.bases := rfl
@[simp] theorem modPart_sems (s : State) (n : Nat) (f : Partition → Partition) : (s.modPart n f).sems = s.sems := rfl
@[simp] theorem modPart_semLastLoser (s : State) (n : Nat) (f : Partition → Partition) : (s.modPart n f).semLastLoser = s.semLastLoser := rfl
@[simp] theorem modPart_bootstat (s : State) (n : Nat) (f : Partition → Partition) : (s.modPart n f).bootstat = s.bootstat := rfl
@[simp] theorem modPart_portsUp (s : State) (n : Nat) (f : Partition → Partition) : (s.modPart n f).portsUp = s.portsUp := rfl
@[simp] theorem modPart_flashA (s : State) (n : Nat) (f : Partition → Partition) : (s.modPart n f).flashA = s.flashA := rfl
@[simp] theorem modPart_flashB (s : State) (n : Nat) (f : Partition → Partition) : (s.modPart n f).flashB = s.flashB := rfl
@[simp] theorem modPart_preferB (s : State) (n : Nat) (f : Partition → Partition) : (s.modPart n f).preferB = s.preferB := rfl
@[simp] theorem modPart_pendingCommit (s : State) (n : Nat) (f : Partition → Partition) : (s.modPart n f).pendingCommit = s.pendingCommit := rfl
@[simp] theorem modPart_mailbox (s : State) (n : Nat) (f : Partition → Partition) : (s.modPart n f).mailbox = s.mailbox := rfl
@[simp] theorem modPart_flashEvents (s : State) (n : Nat) (f : Partition → Partition) : (s.modPart n f).flashEvents = s.flashEvents := rfl
@[simp] theorem modPart_rollback (s : State) (n : Nat) (f : Partition → Partition) : (s.modPart n f).rollback = s.rollback := rfl
@[simp] theorem modPart_revoked (s : State) (n : Nat) (f : Partition → Partition) : (s.modPart n f).revoked = s.revoked := rfl
@[simp] theorem modPart_keyHashes (s : State) (n : Nat) (f : Partition → Partition) : (s.modPart n f).keyHashes = s.keyHashes := rfl
@[simp] theorem modPart_deviceSecret (s : State) (n : Nat) (f : Partition → Partition) : (s.modPart n f).deviceSecret = s.deviceSecret := rfl
@[simp] theorem modPart_identitySeed (s : State) (n : Nat) (f : Partition → Partition) : (s.modPart n f).identitySeed = s.identitySeed := rfl
@[simp] theorem modPart_serial (s : State) (n : Nat) (f : Partition → Partition) : (s.modPart n f).serial = s.serial := rfl
@[simp] theorem modPart_fusesLocked (s : State) (n : Nat) (f : Partition → Partition) : (s.modPart n f).fusesLocked = s.fusesLocked := rfl
@[simp] theorem modPart_attestationSeed (s : State) (n : Nat) (f : Partition → Partition) : (s.modPart n f).attestationSeed = s.attestationSeed := rfl
@[simp] theorem modPart_imageDigest (s : State) (n : Nat) (f : Partition → Partition) : (s.modPart n f).imageDigest = s.imageDigest := rfl
@[simp] theorem modPart_imageSvn (s : State) (n : Nat) (f : Partition → Partition) : (s.modPart n f).imageSvn = s.imageSvn := rfl
@[simp] theorem modPart_moduleCap (s : State) (n : Nat) (f : Partition → Partition) : (s.modPart n f).moduleCap = s.moduleCap := rfl
@[simp] theorem modPart_now (s : State) (n : Nat) (f : Partition → Partition) : (s.modPart n f).now = s.now := rfl
@[simp] theorem modPart_nanos (s : State) (n : Nat) (f : Partition → Partition) : (s.modPart n f).nanos = s.nanos := rfl
@[simp] theorem modPart_nextGid (s : State) (n : Nat) (f : Partition → Partition) : (s.modPart n f).nextGid = s.nextGid := rfl
@[simp] theorem modPart_nextUid (s : State) (n : Nat) (f : Partition → Partition) : (s.modPart n f).nextUid = s.nextUid := rfl
@[simp] theorem modPart_nextStamp (s : State) (n : Nat) (f : Partition → Partition) : (s.modPart n f).nextStamp = s.nextStamp := rfl
@[simp] theorem modPart_nextCopy (s : State) (n : Nat) (f : Partition → Partition) : (s.modPart n f).nextCopy = s.nextCopy := rfl
@[simp] theorem modPart_nextLaunch (s : State) (n : Nat) (f : Partition → Partition) : (s.modPart n f).nextLaunch = s.nextLaunch := rfl
@[simp] theorem modPart_links (s : State) (n : Nat) (f : Partition → Partition) : (s.modPart n f).links = s.links := rfl
@[simp] theorem modPart_routes (s : State) (n : Nat) (f : Partition → Partition) : (s.modPart n f).routes = s.routes := rfl
@[simp] theorem modPart_package (s : State) (n : Nat) (f : Partition → Partition) : (s.modPart n f).package = s.package := rfl
@[simp] theorem modPart_outNext (s : State) (n : Nat) (f : Partition → Partition) : (s.modPart n f).outNext = s.outNext := rfl
@[simp] theorem modPart_kept (s : State) (n : Nat) (f : Partition → Partition) : (s.modPart n f).kept = s.kept := rfl
@[simp] theorem modPart_inflow (s : State) (n : Nat) (f : Partition → Partition) : (s.modPart n f).inflow = s.inflow := rfl
@[simp] theorem modPart_clearPackets (s : State) (n : Nat) (f : Partition → Partition) : (s.modPart n f).clearPackets = s.clearPackets := rfl
@[simp] theorem modPart_parkedPackets (s : State) (n : Nat) (f : Partition → Partition) : (s.modPart n f).parkedPackets = s.parkedPackets := rfl
@[simp] theorem modPart_coordinator (s : State) (n : Nat) (f : Partition → Partition) : (s.modPart n f).coordinator = s.coordinator := rfl
@[simp] theorem modPart_jobWaiting (s : State) (n : Nat) (f : Partition → Partition) : (s.modPart n f).jobWaiting = s.jobWaiting := rfl
@[simp] theorem modPart_jobMessages (s : State) (n : Nat) (f : Partition → Partition) : (s.modPart n f).jobMessages = s.jobMessages := rfl
@[simp] theorem modPart_jobAnswers (s : State) (n : Nat) (f : Partition → Partition) : (s.modPart n f).jobAnswers = s.jobAnswers := rfl
@[simp] theorem modPart_deviceLog (s : State) (n : Nat) (f : Partition → Partition) : (s.modPart n f).deviceLog = s.deviceLog := rfl
@[simp] theorem modPart_asks (s : State) (n : Nat) (f : Partition → Partition) : (s.modPart n f).asks = s.asks := rfl
@[simp] theorem modPart_ucie (s : State) (n : Nat) (f : Partition → Partition) : (s.modPart n f).ucie = s.ucie := rfl
@[simp] theorem modPart_hostLines (s : State) (n : Nat) (f : Partition → Partition) : (s.modPart n f).hostLines = s.hostLines := rfl
@[simp] theorem modPart_backInvalidates (s : State) (n : Nat) (f : Partition → Partition) : (s.modPart n f).backInvalidates = s.backInvalidates := rfl
@[simp] theorem modPart_replies (s : State) (n : Nat) (f : Partition → Partition) : (s.modPart n f).replies = s.replies := rfl
@[simp] theorem modPart_msix (s : State) (n : Nat) (f : Partition → Partition) : (s.modPart n f).msix = s.msix := rfl
@[simp] theorem modPart_agenda (s : State) (n : Nat) (f : Partition → Partition) : (s.modPart n f).agenda = s.agenda := rfl
@[simp] theorem modPart_issuer (s : State) (n : Nat) (f : Partition → Partition) : (s.modPart n f).issuer = s.issuer := rfl
@[simp] theorem modPart_fresh (s : State) (n : Nat) (f : Partition → Partition) : (s.modPart n f).fresh = s.fresh := rfl

end Sys2Proof.Machine
end

