-- ==== Sys2Proof/Laws/Issue.lean ====
section
/-! SUPPORT. What the issue of an instruction group does to the slices that perform it, once and for every instruction: statements about one instruction cite these lemmas instead of unfolding the issue. -/

namespace Sys2Proof.Machine

/-! ### Dividing a gang (R132) -/

theorem Group.divide_gid (g : Group) (k : Nat) : (g.divide k).gid = g.gid := by
  unfold Group.divide
  dsimp only
  split
  · rfl
  · split <;> rfl

theorem Group.divide_rest (g : Group) (k : Nat) : { g.divide k with slices := g.slices, gangs := g.gangs } = g := by
  unfold Group.divide
  dsimp only
  split
  · rfl
  · split <;> rfl

theorem Group.divide_gsat (g : Group) (k : Nat) : (g.divide k).gsat = g.gsat := by
  have := congrArg Group.gsat (g.divide_rest k)
  exact this

theorem Group.divide_slices (g : Group) (k : Nat) :
    (g.divide k).slices = g.slices.mapIdx (fun i (sl : Slice) =>
      match ((g.unended k).map (fun i => (i, g.newLabel (g.unended k) i))).find? (fun l => l.1 == i) with
      | some l => { sl with sub := l.2 }
      | none => sl) := by
  unfold Group.divide
  dsimp only
  split
  · rfl
  · split <;> rfl

theorem Group.divide_count (g : Group) (k : Nat) : (g.divide k).slices.length = g.slices.length := by
  rw [g.divide_slices k]; simp

/-- A division gives each slice a label and nothing else. -/
theorem Group.divide_slice (g : Group) (k i : Nat) (h : i < g.slices.length) : ∃ l, (g.divide k).slice i = { g.slice i with sub := l } := by
  unfold Group.slice
  rw [g.divide_slices k]
  simp only [List.getD_eq_getElem?_getD, List.getElem?_mapIdx, List.getElem?_eq_getElem h, Option.map_some, Option.getD_some]
  split
  · exact ⟨_, rfl⟩
  · exact ⟨_, rfl⟩

theorem Group.divide_gang (g : Group) (k j : Nat) : { (g.divide k).gang j with parted := (g.gang j).parted } = g.gang j := by
  have hm : ∀ (g : Group), { (g.modGang k (fun (x : Gang) => { x with parted := true })).gang j with parted := (g.gang j).parted } = g.gang j := by
    intro g
    unfold Group.modGang Group.gang
    simp only [List.getD_eq_getElem?_getD, List.getElem?_modify]
    cases g.gangs[j]? with
    | none => rfl
    | some x => by_cases e : k = j <;> simp [e]
  unfold Group.divide
  dsimp only
  split
  · rfl
  · split
    · rfl
    · exact hm _

/-! ### Local parts -/

/-- The fate of a slice that goes on after the group, or at an address. -/
def fateTo : Option Dword → Fate
  | none => .next
  | some pc => .goto pc

/-- An instruction whose every slice changes by `f` alone and goes on where `to` says, and sets GSAT where `sat` says. -/
def Local (act : Ctx → State → State × Fate) (f : Ctx → Slice → Slice) (tgt : Ctx → Slice → Option Dword) (sat : Ctx → Slice → Bool) : Prop :=
  ∀ c s, c.ref.idx < (s.group c.ref.gid).slices.length →
    (act c s).2 = fateTo (tgt c (s.slice c.ref)) ∧ ((act c s).1).slice c.ref = f c (s.slice c.ref) ∧ (∀ r, r ≠ c.ref → ((act c s).1).slice r = s.slice r) ∧
      SameDevice s (act c s).1 ∧ (∀ k, k ≠ c.ref.gid → ((act c s).1).group k = s.group k) ∧
      { ((act c s).1).group c.ref.gid with slices := (s.group c.ref.gid).slices, gsat := (s.group c.ref.gid).gsat } = s.group c.ref.gid ∧
      (((act c s).1).group c.ref.gid).slices.length = (s.group c.ref.gid).slices.length ∧
      (((act c s).1).group c.ref.gid).gsat = ((s.group c.ref.gid).gsat || sat c (s.slice c.ref))

/-- A change of one slice, with GSAT set where `sat` says, is a local part. -/
theorem local_of {act f tgt sat} (h : ∀ c s, ∃ h : Slice → Slice, h (s.slice c.ref) = f c (s.slice c.ref) ∧ act c s =
    (if sat c (s.slice c.ref) then (s.modSlice c.ref h).modGroup c.ref.gid (fun g => { g with gsat := true }) else s.modSlice c.ref h, fateTo (tgt c (s.slice c.ref)))) :
    Local act f tgt sat := by
  intro c s hi
  have hx : (s.group? c.ref.gid).isSome := group?_of_slice hi
  obtain ⟨h, hh, e⟩ := h c s
  rw [e]
  by_cases hs : sat c (s.slice c.ref) = true
  · simp only [hs, if_true]
    have hx2 : ((s.modSlice c.ref h).group? c.ref.gid).isSome := by
      have := modGroup_group?_isSome s c.ref.gid (fun g => g.modSlice c.ref.idx h) (fun _ => rfl) c.ref.gid
      rw [show s.modSlice c.ref h = s.modGroup c.ref.gid (fun g => g.modSlice c.ref.idx h) from rfl, this]
      exact hx
    have hg : ((s.modSlice c.ref h).modGroup c.ref.gid (fun g => { g with gsat := true })).group c.ref.gid
        = { (s.group c.ref.gid).modSlice c.ref.idx h with gsat := true } := by
      rw [group_modGroup_self _ _ (fun g => { g with gsat := true }) (fun _ => rfl) hx2, group_modSlice_self s c.ref h hi]
    have ho : ∀ k, k ≠ c.ref.gid → ((s.modSlice c.ref h).modGroup c.ref.gid (fun g => { g with gsat := true })).group k = s.group k := by
      intro k hk
      rw [group_modGroup_ne _ _ (fun g => { g with gsat := true }) (fun _ => rfl) k hk, group_modSlice_ne s c.ref h k hk]
    refine ⟨trivial, ?_, ?_, rfl, ho, ?_, ?_, ?_⟩
    · rw [← hh]
      unfold State.slice
      rw [hg]
      exact Group.slice_modSlice_self _ _ _ hi
    · intro r hr
      rw [← slice_modSlice_ne s c.ref r h hr]
      unfold State.slice
      by_cases e : r.gid = c.ref.gid
      · rw [e, hg, group_modSlice_self s c.ref h hi]; rfl
      · rw [ho _ e, group_modSlice_ne s c.ref h _ e]
    · rw [hg]; rfl
    · rw [hg]; exact Group.modSlice_length _ _ _
    · rw [hg]; simp
  · have hs' : sat c (s.slice c.ref) = false := by simpa using hs
    simp only [hs', Bool.false_eq_true, if_false]
    have hg := group_modSlice_self s c.ref h hi
    refine ⟨trivial, by rw [← hh]; exact slice_modSlice_self s c.ref h hi, fun r hr => slice_modSlice_ne s c.ref r h hr, rfl,
      fun k hk => group_modSlice_ne s c.ref h k hk, ?_, ?_, ?_⟩
    · rw [hg]; rfl
    · rw [hg]; exact Group.modSlice_length _ _ _
    · rw [hg]; simp [Group.modSlice]

theorem SameDevice.trans {s t u : State} (h : SameDevice s t) (k : SameDevice t u) : SameDevice s u :=
  (congrArg (fun (x : State) => { x with groups := s.groups }) k).trans h

/-- A group apart from its slices and GSAT. -/
theorem same_shell {g h k : Group} (a : { h with slices := g.slices, gsat := g.gsat } = g) (b : { k with slices := h.slices, gsat := h.gsat } = h) :
    { k with slices := g.slices, gsat := g.gsat } = g :=
  (congrArg (fun (x : Group) => { x with slices := g.slices, gsat := g.gsat }) b).trans a

/-- What the slices of a subgang leave when each performs its part of a local instruction. -/
theorem eachSlice_local {act f tgt sat} (h : Local act f tgt sat) (gid : Nat) : ∀ (cs : List Ctx) (s : State),
    (∀ c ∈ cs, c.ref.gid = gid ∧ c.ref.idx < (s.group gid).slices.length) → (cs.map (fun c => c.ref.idx)).Nodup →
    let r := eachSlice act cs s
    r.fates = cs.map (fun c => (c.ref.idx, fateTo (tgt c (s.slice c.ref)))) ∧ (∀ c ∈ cs, r.s.slice c.ref = f c (s.slice c.ref)) ∧
      (∀ q, (∀ c ∈ cs, q ≠ c.ref) → r.s.slice q = s.slice q) ∧ SameDevice s r.s ∧ (∀ k, k ≠ gid → r.s.group k = s.group k) ∧
      { r.s.group gid with slices := (s.group gid).slices, gsat := (s.group gid).gsat } = s.group gid ∧
      (r.s.group gid).slices.length = (s.group gid).slices.length ∧
      (r.s.group gid).gsat = ((s.group gid).gsat || cs.any (fun c => sat c (s.slice c.ref)))
  | [], s, _, _ => by simp [eachSlice, SameDevice]
  | c :: cs, s, hc, hn => by
    obtain ⟨hcg, hci⟩ := hc c (by simp)
    obtain ⟨h1, h2, h3, h4, h5, h6, h7, h8⟩ := h c s (by rw [hcg]; exact hci)
    rw [hcg] at h5 h6 h7 h8
    simp only [List.map_cons, List.nodup_cons] at hn
    have hne : ∀ d ∈ cs, d.ref ≠ c.ref := by
      intro d hd e
      exact hn.1 (List.mem_map.mpr ⟨d, hd, by rw [e]⟩)
    have hlen : ∀ d ∈ cs, d.ref.gid = gid ∧ d.ref.idx < (((act c s).1).group gid).slices.length := by
      intro d hd
      rw [h7]
      exact hc d (by simp [hd])
    obtain ⟨i1, i2, i3, i4, i5, i6, i7, i8⟩ := eachSlice_local h gid cs (act c s).1 hlen hn.2
    have hsame : ∀ d ∈ cs, ((act c s).1).slice d.ref = s.slice d.ref := fun d hd => h3 d.ref (hne d hd)
    refine ⟨?_, ?_, ?_, ?_, ?_, ?_, ?_, ?_⟩
    · simp only [eachSlice, List.map_cons, i1, h1]
      congr 1
      apply List.map_congr_left
      intro d hd
      rw [hsame d hd]
    · intro d hd
      rcases List.mem_cons.mp hd with rfl | hd
      · show (eachSlice act cs (act d s).1).s.slice d.ref = _
        rw [i3 d.ref (fun e he => (hne e he).symm), h2]
      · show (eachSlice act cs (act c s).1).s.slice d.ref = _
        rw [i2 d hd, hsame d hd]
    · intro q hq
      show (eachSlice act cs (act c s).1).s.slice q = _
      rw [i3 q (fun d hd => hq d (by simp [hd])), h3 q (hq c (by simp))]
    · exact h4.trans i4
    · intro k hk
      show (eachSlice act cs (act c s).1).s.group k = _
      rw [i5 k hk, h5 k hk]
    · exact same_shell h6 i6
    · show ((eachSlice act cs (act c s).1).s.group gid).slices.length = _
      rw [i7, h7]
    · show ((eachSlice act cs (act c s).1).s.group gid).gsat = _
      rw [i8, h8, List.any_cons, Bool.or_assoc]
      congr 2
      apply Bool.eq_iff_iff.mpr
      simp only [List.any_eq_true]
      constructor
      · rintro ⟨d, hd, e⟩; exact ⟨d, hd, by rw [← hsame d hd]; exact e⟩
      · rintro ⟨d, hd, e⟩; exact ⟨d, hd, by rw [hsame d hd]; exact e⟩

end Sys2Proof.Machine
end

