-- ==== Sys2Proof/Laws/Ready.lean ====
section
/-! SUPPORT. What the issue of a group does when nothing stops it: the verdict of a clear slice is to run, and the group's own part is all that happens before the slices go on. -/

namespace Sys2Proof.Machine

/-! ### The verdict of a clear slice -/

theorem anyEmpty_zero (sl : Slice) (eff : Mask) : ∀ (regs : List Nat) (m : Mask), (∀ x ∈ regs, sl.emptyIn x eff = 0) →
    regs.foldl (fun m x => m ||| sl.emptyIn x eff) m = m
  | [], _, _ => rfl
  | x :: xs, m, h => by
    rw [List.foldl_cons, h x (by simp), show m ||| (0 : Mask) = m by simp]
    exact anyEmpty_zero sl eff xs m (fun y hy => h y (by simp [hy]))

theorem Slice.anyEmpty_of {sl : Slice} {regs : List Nat} {eff : Mask} (h : ∀ x ∈ regs, sl.emptyIn x eff = 0) : sl.anyEmpty regs eff = 0 :=
  anyEmpty_zero sl eff regs 0 h

theorem Grp.operands_sub (g : Grp) : ∀ o ∈ g.operands, ∀ x ∈ o.1, x ∈ g.reads ++ g.writes := by
  intro o ho x hx
  simp only [Grp.operands, List.mem_cons, List.not_mem_nil, or_false] at ho
  rcases ho with rfl | rfl | rfl <;> simp only [Grp.reads, List.mem_append] at * <;> simp [hx]

theorem Grp.mustWait_of {g : Grp} {sl : Slice} {eff : Mask} (h : ∀ x ∈ g.reads ++ g.writes, sl.emptyIn x eff = 0) : g.mustWait sl eff = false := by
  unfold Grp.mustWait
  have hd : sl.anyEmpty (g.shape.d.reads g.w.d.toNat ++ g.writes) eff = 0 :=
    Slice.anyEmpty_of (fun x hx => h x (by simp only [Grp.reads, List.mem_append] at hx ⊢; rcases hx with hx | hx <;> simp [hx]))
  rw [hd]
  simp only [bne_self_eq_false, Bool.or_false]
  rw [List.any_eq_false]
  intro o ho
  rw [Slice.anyEmpty_of (fun x hx => h x (g.operands_sub o ho x hx))]
  simp

theorem Grp.emptyTrap_of {g : Grp} {sl : Slice} {eff : Mask} (h : ∀ x ∈ g.reads ++ g.writes, sl.emptyIn x eff = 0) : g.emptyTrap sl eff = none := by
  unfold Grp.emptyTrap
  rw [List.find?_eq_none.mpr]
  intro o ho
  rw [Slice.anyEmpty_of (fun x hx => h x (g.operands_sub o ho x hx))]
  simp

theorem Grp.poisonFate_of {g : Grp} {sl : Slice} {eff : Mask} (h : ∀ i ∈ eff.lanes, sl.poisonIn g.consumes i = none) : g.poisonFate sl eff = none := by
  unfold Grp.poisonFate
  rw [List.find?_eq_none.mpr]
  intro i hi
  simp [h i hi]

/-- A clear slice whose instruction has no check of its own that stops it runs (R56). -/
theorem Clear.run {own : Own} {s : State} {c : Ctx} (h : Clear s c) (ho : own s c = none) : verdictShadow own s c = .run := by
  obtain ⟨_, h0, h1, h2, h3, h4, h5, h6, h9, h7, h8⟩ := h
  have hv : verdict own s c = .run := by
    unfold verdict
    simp only [h0, h1, if_false, h2, h3, h4, ite_self, h5, Bool.false_eq_true, ho, Grp.mustWait_of h6, h9, Bool.or_self, Grp.emptyTrap_of h6, Grp.poisonFate_of h7]
  unfold verdictShadow
  rw [hv]
  simp [h8]

/-! ### The issue of a ready group -/

/-- The fates of slices that all ran. -/
def fatesOf (ran : Ran) (cs : List Ctx) : List (Nat × Fate) :=
  cs.map (fun c => (c.ref.idx, ((ran.fates.find? (fun f => f.1 == c.ref.idx)).map Prod.snd).getD .next))

theorem gangEmpty_run (s : State) (cs : List Ctx) : gangEmpty s (cs.map (fun c => (c, Verdict.run))) = cs.map (fun c => (c, Verdict.run)) := by
  unfold gangEmpty
  rw [if_neg]
  simp

/-- Nothing stops a ready group: its run is what happens, and its slices go on with the fates the run gives them. -/
theorem issueGrp_ready {s : State} {who : Issuer} {g : Grp} {own : Own} {run : Run} {cs : List Ctx} (hc : s.contexts who g = cs) (hne : cs ≠ [])
    (h : ∀ c ∈ cs, Clear s c) (ho : ∀ c ∈ cs, own s c = none)
    (hf : g.shape.fifo = .none ∨ cs.length ≤ (s.core (s.group who.gid).coreRef).room g.shape.fifo) :
    s.issueGrp who g own run =
      .next ((run cs (s.closing g cs)).s.conclude who g (fatesOf (run cs (s.closing g cs)) cs)) := by
  unfold State.issueGrp
  rw [hc]
  have hw : cs.any (fun c => (s.slice c.ref).wait.isSome) = false := by
    rw [List.any_eq_false]; intro c hm; simp [(h c hm).1]
  have hv : cs.map (fun c => (c, verdictShadow own s c)) = cs.map (fun c => (c, Verdict.run)) :=
    List.map_congr_left (fun c hm => by rw [(h c hm).run (ho c hm)])
  have hg : (if g.shape.gang then gangEmpty s (cs.map (fun c => (c, Verdict.run))) else cs.map (fun c => (c, Verdict.run)))
      = cs.map (fun c => (c, Verdict.run)) := by
    split
    · exact gangEmpty_run s cs
    · rfl
  have hr : ((cs.map (fun c => (c, Verdict.run))).filter (fun x => x.2 = .run)).map Prod.fst = cs := by
    rw [List.filter_eq_self.mpr (by simp)]; simp [Function.comp_def]
  have hfull : (g.shape.fifo != .none && decide ((s.core (s.group who.gid).coreRef).room g.shape.fifo < cs.length)) = false := by
    rcases hf with hf | hf
    · simp [hf]
    · simp [Nat.not_lt.mpr hf]
  have hh : (cs.map (fun c => (c, Verdict.run))).any (fun x => decide (x.2 = .hold)) = false := by simp
  have hem : cs.isEmpty = false := by simpa using hne
  simp only [hw, Bool.false_eq_true, if_false, hv, hg, hr, hfull, hh, Bool.or_false, hem, State.closing]
  have hl : ∀ (r : Ran), (cs.map (fun c => (c, Verdict.run))).map (verdictFate r.fates r.idle) = fatesOf r cs := by
    intro r
    simp [fatesOf, verdictFate, Function.comp_def]
  simp only [hl]

/-- The issue of an instruction that is ready. -/
theorem issue_ready {op : Nat} {wide : Bool} {p : List Prefix} {w : WForm} {own : Own} {run : Run} {s : State} {who : Issuer} {cs : List Ctx}
    (h : Ready s who op wide p w cs) (ho : ∀ c ∈ cs, own s c = none) :
    issue op wide p w own run s =
      .next ((run cs (s.closing (Grp.of op wide p w (s.issueAddr who)) cs)).s.conclude who (Grp.of op wide p w (s.issueAddr who))
          (fatesOf (run cs (s.closing (Grp.of op wide p w (s.issueAddr who)) cs)) cs)) := by
  obtain ⟨h1, h2, h3, h4, h5⟩ := h
  unfold issue
  rw [h1]
  exact issueGrp_ready h2 h3 h4 ho h5

/-! ### The slices of a subgang -/

theorem range_mul_nodup (n k : Nat) : ((List.range n).map (· + k)).Nodup := by
  rw [List.nodup_iff_pairwise_ne, List.pairwise_map]
  exact (List.nodup_range.imp (fun h e => h (Nat.add_right_cancel e)))

theorem contexts_refs (s : State) (who : Issuer) (g : Grp) :
    (∀ c ∈ s.contexts who g, c.ref.gid = who.gid ∧ c.ref.idx < (s.group who.gid).slices.length ∧ c.g = g ∧
      c.eff = effOf (s.slice c.ref) g) ∧ ((s.contexts who g).map (fun c => c.ref.idx)).Nodup := by
  constructor
  · intro c hc
    simp only [State.contexts, List.mem_map] at hc
    obtain ⟨i, hi, rfl⟩ := hc
    simp only [Group.subgang, Group.unended, List.mem_filter, Bool.and_eq_true, decide_eq_true_eq] at hi
    exact ⟨rfl, hi.1.2.1, rfl, rfl⟩
  · simp only [State.contexts, List.map_map, Function.comp_def, List.map_id']
    exact ((range_mul_nodup _ _).filter _).filter _

/-! ### Slices that all go on -/

/-- Slices that go on after a group: their pc. -/
theorem settle_next (g : Grp) (gid : Nat) (tgt : Ctx → Option Dword) : ∀ (cs : List Ctx) (s : State),
    (∀ c ∈ cs, c.ref.gid = gid ∧ c.ref.idx < (s.group gid).slices.length) → (cs.map (fun c => c.ref.idx)).Nodup →
    let t := (cs.map (fun c => (c.ref.idx, fateTo (tgt c)))).foldl (fun s f => s.settleFate g ⟨gid, f.1⟩ f.2) s
    (∀ c ∈ cs, t.slice c.ref = { s.slice c.ref with pc := (tgt c).getD g.next }) ∧ (∀ q, (∀ c ∈ cs, q ≠ c.ref) → t.slice q = s.slice q) ∧ SameDevice s t ∧
      (∀ k, k ≠ gid → t.group k = s.group k) ∧ { t.group gid with slices := (s.group gid).slices } = s.group gid ∧
      (t.group gid).slices.length = (s.group gid).slices.length
  | [], s, _, _ => by simp [SameDevice]
  | c :: cs, s, hc, hn => by
    obtain ⟨hcg, hci⟩ := hc c (by simp)
    have href : (⟨gid, c.ref.idx⟩ : SliceRef) = c.ref := by rw [← hcg]
    simp only [List.map_cons, List.nodup_cons] at hn
    have hi : c.ref.idx < (s.group c.ref.gid).slices.length := by rw [hcg]; exact hci
    let f : Slice → Slice := fun sl => { sl with pc := (tgt c).getD g.next }
    have hself : (s.modSlice c.ref f).group gid = (s.group gid).modSlice c.ref.idx f := by rw [← hcg]; exact group_modSlice_self s c.ref f hi
    have hlen : ((s.modSlice c.ref f).group gid).slices.length = (s.group gid).slices.length := by rw [hself]; exact Group.modSlice_length _ _ _
    have hne : ∀ d ∈ cs, d.ref ≠ c.ref := by
      intro d hd e
      exact hn.1 (List.mem_map.mpr ⟨d, hd, by rw [e]⟩)
    obtain ⟨i1, i2, i3, i4, i5, i6⟩ := settle_next g gid tgt cs (s.modSlice c.ref f) (fun d hd => by rw [hlen]; exact hc d (by simp [hd])) hn.2
    have he : ((c :: cs).map (fun c => (c.ref.idx, fateTo (tgt c)))).foldl (fun s f => s.settleFate g ⟨gid, f.1⟩ f.2) s =
        (cs.map (fun c => (c.ref.idx, fateTo (tgt c)))).foldl (fun s f => s.settleFate g ⟨gid, f.1⟩ f.2) (s.modSlice c.ref f) := by
      rw [List.map_cons, List.foldl_cons, href]
      cases hto : tgt c <;> (simp only [f, hto]; rfl)
    simp only [he]
    refine ⟨?_, ?_, ?_, ?_, ?_, ?_⟩
    · intro d hd
      rcases List.mem_cons.mp hd with rfl | hd
      · rw [i2 d.ref (fun e he => (hne e he).symm)]
        exact slice_modSlice_self s d.ref f hi
      · rw [i1 d hd, slice_modSlice_ne s c.ref d.ref f (hne d hd)]
    · intro q hq
      rw [i2 q (fun d hd => hq d (by simp [hd])), slice_modSlice_ne s c.ref q f (hq c (by simp))]
    · exact SameDevice.trans (modSlice_device s c.ref f) i3
    · intro k hk
      rw [i4 k hk, group_modSlice_ne s c.ref f k (by rw [hcg]; exact hk)]
    · have a : { (s.modSlice c.ref f).group gid with slices := (s.group gid).slices } = s.group gid := by rw [hself]; rfl
      exact (congrArg (fun (x : Group) => { x with slices := (s.group gid).slices }) i5).trans a
    · rw [i6, hlen]

/-- The fates of a subgang whose slices all go on. -/
theorem conclude_next (s : State) (who : Issuer) (g : Grp) (tgt : Ctx → Option Dword) (cs : List Ctx) :
    s.conclude who g (cs.map (fun c => (c.ref.idx, fateTo (tgt c)))) =
      ((cs.map (fun c => (c.ref.idx, fateTo (tgt c)))).foldl (fun s f => s.settleFate g ⟨who.gid, f.1⟩ f.2) s).divide who.gid who.gang := by
  unfold State.conclude
  have h : ∀ b (at_ : Nat → Slice), ((cs.map (fun c => (c.ref.idx, fateTo (tgt c)))).filter (fun f => f.2.leaves b (at_ f.1))) = [] := by
    intro b at_
    rw [List.filter_eq_nil_iff]
    intro x hx
    simp only [List.mem_map] at hx
    obtain ⟨c, _, rfl⟩ := hx
    cases tgt c <;> simp [fateTo, Fate.leaves, Fate.cause]
  dsimp only
  rw [h _ (fun i => s.slice ⟨who.gid, i⟩), List.foldl_nil]

/-- What a division of the issuer's gang leaves (R132). -/
theorem divide_only {s t : State} {gid : Nat} (k : Nat) {ids : List Nat} (hg : (t.group? gid).isSome) (hd : SameDevice s t)
    (ho : ∀ j, j ≠ gid → t.group j = s.group j) (hs : { t.group gid with slices := (s.group gid).slices, gsat := (s.group gid).gsat } = s.group gid)
    (hl : (t.group gid).slices.length = (s.group gid).slices.length) (hi : ∀ i, i ∉ ids → (t.group gid).slice i = (s.group gid).slice i) :
    OnlySlices s (t.divide gid k) gid ids ∧ (∀ i, i < (s.group gid).slices.length →
      ∃ l, (t.divide gid k).slice ⟨gid, i⟩ = { (t.group gid).slice i with sub := l }) ∧ ((t.divide gid k).group gid).gsat = (t.group gid).gsat := by
  have he : (t.divide gid k).group gid = (t.group gid).divide k := group_modGroup_self t gid (fun g => g.divide k) (fun g => g.divide_gid k) hg
  refine ⟨⟨hd, ?_, ?_, ?_, ?_, ?_⟩, ?_, ?_⟩
  · intro j hj
    rw [show (t.divide gid k).group j = t.group j from group_modGroup_ne t gid (fun g => g.divide k) (fun g => g.divide_gid k) j hj]
    exact ho j hj
  · rw [he]
    have := (t.group gid).divide_rest k
    exact ((congrArg (fun (x : Group) => { x with slices := (s.group gid).slices, gangs := (s.group gid).gangs, gsat := (s.group gid).gsat }) this).trans
      (congrArg (fun (x : Group) => { x with gangs := (s.group gid).gangs }) hs))
  · rw [he, Group.divide_count, hl]
  · intro j
    rw [he]
    have h1 := (t.group gid).divide_gang k j
    have h2 : (t.group gid).gang j = (s.group gid).gang j := by
      unfold Group.gang; rw [← hs]
    rw [← h2]
    exact h1
  · intro i hn
    rw [he]
    by_cases hlt : i < (t.group gid).slices.length
    · obtain ⟨l, e⟩ := (t.group gid).divide_slice k i hlt
      rw [e, hi i hn]
    · have h1 : ((t.group gid).divide k).slice i = Slice.start 0 0 := by
        unfold Group.slice
        rw [List.getD_eq_getElem?_getD, List.getElem?_eq_none (by rw [Group.divide_count]; omega)]; rfl
      have h2 : (s.group gid).slice i = Slice.start 0 0 := by
        unfold Group.slice
        rw [List.getD_eq_getElem?_getD, List.getElem?_eq_none (by omega)]; rfl
      rw [h1, h2]
  · intro i hlt
    obtain ⟨l, e⟩ := (t.group gid).divide_slice k i (by omega)
    exact ⟨l, by unfold State.slice; rw [he, e]⟩
  · rw [he, Group.divide_gsat]

/-- The fates a run of slices each doing its part gives, where all go on. -/
theorem fatesOf_next {ran : Ran} {tgt : Ctx → Option Dword} {cs : List Ctx} (hn : (cs.map (fun c => c.ref.idx)).Nodup) (h : ran.fates = cs.map (fun c => (c.ref.idx, fateTo (tgt c)))) :
    fatesOf ran cs = cs.map (fun c => (c.ref.idx, fateTo (tgt c))) := by
  unfold fatesOf
  rw [h]
  apply List.map_congr_left
  intro c hc
  have : ∀ (cs : List Ctx), (cs.map (fun c => c.ref.idx)).Nodup → c ∈ cs →
      (cs.map (fun c => (c.ref.idx, fateTo (tgt c)))).find? (fun f => f.1 == c.ref.idx) = some (c.ref.idx, fateTo (tgt c)) := by
    intro cs
    induction cs with
    | nil => intro _ h; simp at h
    | cons d cs ih =>
      intro hn hc
      simp only [List.map_cons, List.nodup_cons] at hn
      rcases List.mem_cons.mp hc with rfl | hc
      · simp
      · have hne : d.ref.idx ≠ c.ref.idx := fun e => hn.1 (List.mem_map.mpr ⟨c, hc, e.symm⟩)
        rw [List.map_cons, List.find?_cons_of_neg (by simpa using hne)]
        exact ih hn.2 hc
  rw [this cs hn hc]
  rfl

theorem same_gsat {g h k : Group} (a : { h with slices := g.slices, gsat := g.gsat } = g) (b : { k with slices := h.slices } = h) :
    { k with slices := g.slices, gsat := g.gsat } = g ∧ k.gsat = h.gsat :=
  ⟨(congrArg (fun (x : Group) => { x with slices := g.slices, gsat := g.gsat }) b).trans a, by rw [← b]⟩

/-- Slices that have done a local part and all go on. -/
theorem conclude_only {s r : State} {who : Issuer} {g : Grp} {tgt : Ctx → Option Dword} {cs : List Ctx} (hne : cs ≠ [])
    (hin : ∀ c ∈ cs, c.ref.gid = who.gid ∧ c.ref.idx < (s.group who.gid).slices.length) (hnd : (cs.map (fun c => c.ref.idx)).Nodup)
    (e3 : ∀ q, (∀ c ∈ cs, q ≠ c.ref) → r.slice q = s.slice q) (e4 : SameDevice s r) (e5 : ∀ k, k ≠ who.gid → r.group k = s.group k)
    (e6 : { r.group who.gid with slices := (s.group who.gid).slices, gsat := (s.group who.gid).gsat } = s.group who.gid)
    (e7 : (r.group who.gid).slices.length = (s.group who.gid).slices.length) :
    let t := r.conclude who g (cs.map (fun c => (c.ref.idx, fateTo (tgt c))))
    OnlySlices s t who.gid (cs.map (fun c => c.ref.idx)) ∧ (∀ c ∈ cs, ∃ l, t.slice c.ref = { r.slice c.ref with pc := (tgt c).getD g.next, sub := l }) ∧
      (t.group who.gid).gsat = (r.group who.gid).gsat := by
  have hs := settle_next g who.gid tgt cs r (fun c hc => ⟨(hin c hc).1, by rw [e7]; exact (hin c hc).2⟩) hnd
  rw [conclude_next]
  generalize (cs.map (fun c => (c.ref.idx, fateTo (tgt c)))).foldl (fun s f => s.settleFate g ⟨who.gid, f.1⟩ f.2) r = t at hs ⊢
  obtain ⟨n1, n2, n3, n4, n5, n6⟩ := hs
  obtain ⟨c0, hc0⟩ := List.exists_mem_of_ne_nil cs hne
  have hpos : 0 < (t.group who.gid).slices.length := by rw [n6, e7]; have := (hin c0 hc0).2; omega
  obtain ⟨m1, m2⟩ := same_gsat e6 n5
  obtain ⟨d1, d2, d3⟩ := divide_only (s := s) who.gang (ids := cs.map (fun c => c.ref.idx)) (group?_of_slice hpos) (e4.trans n3)
    (fun k hk => by rw [n4 k hk, e5 k hk]) m1 (by rw [n6, e7])
    (fun i hi => by
      have a := n2 ⟨who.gid, i⟩ (fun c hc he => hi (List.mem_map.mpr ⟨c, hc, by rw [← he]⟩))
      have b := e3 ⟨who.gid, i⟩ (fun c hc he => hi (List.mem_map.mpr ⟨c, hc, by rw [← he]⟩))
      exact a.trans b)
  refine ⟨d1, ?_, by rw [d3, m2]⟩
  intro c hc
  obtain ⟨l, hl⟩ := d2 c.ref.idx (hin c hc).2
  have href : (⟨who.gid, c.ref.idx⟩ : SliceRef) = c.ref := by rw [← (hin c hc).1]
  have h2 : (t.group who.gid).slice c.ref.idx = t.slice c.ref := by unfold State.slice; rw [(hin c hc).1]
  rw [href, h2, n1 c hc] at hl
  exact ⟨l, hl⟩

/-- The slices of a list each changed by `f`, and nothing else. -/
structure Changes (gid : Nat) (cs : List Ctx) (f : Slice → Slice) (s r : State) : Prop where
  own : ∀ c ∈ cs, r.slice c.ref = f (s.slice c.ref)
  others : ∀ q, (∀ c ∈ cs, q ≠ c.ref) → r.slice q = s.slice q
  device : SameDevice s r
  groups : ∀ k, k ≠ gid → r.group k = s.group k
  shell : { r.group gid with slices := (s.group gid).slices, gsat := (s.group gid).gsat } = s.group gid
  count : (r.group gid).slices.length = (s.group gid).slices.length
  gsat : (r.group gid).gsat = (s.group gid).gsat

theorem Changes.refl (gid : Nat) (cs : List Ctx) (s : State) : Changes gid cs (fun sl => sl) s s :=
  ⟨fun _ _ => rfl, fun _ _ => rfl, rfl, fun _ _ => rfl, rfl, rfl, rfl⟩

theorem Changes.trans {gid cs f h s r u} (a : Changes gid cs f s r) (b : Changes gid cs h r u) : Changes gid cs (fun sl => h (f sl)) s u :=
  ⟨fun c hc => by rw [b.own c hc, a.own c hc], fun q hq => by rw [b.others q hq, a.others q hq], a.device.trans b.device,
    fun k hk => by rw [b.groups k hk, a.groups k hk], same_shell a.shell b.shell, by rw [b.count, a.count], by rw [b.gsat, a.gsat]⟩

/-- Some slices changed one after another. -/
theorem foldl_changes (f : Slice → Slice) (gid : Nat) (cs : List Ctx) (s : State) (hc : ∀ c ∈ cs, c.ref.gid = gid ∧ c.ref.idx < (s.group gid).slices.length)
    (hn : (cs.map (fun c => c.ref.idx)).Nodup) : Changes gid cs f s (cs.foldl (fun s c => s.modSlice c.ref f) s) := by
  have hl : Local (fun c s => (s.modSlice c.ref f, .next)) (fun _ sl => f sl) (fun _ _ => none) (fun _ _ => false) := by
    apply local_of
    intro c s
    exact ⟨f, rfl, rfl⟩
  have he : ∀ (cs : List Ctx) (s : State), cs.foldl (fun s c => s.modSlice c.ref f) s = (eachSlice (fun c s => (s.modSlice c.ref f, .next)) cs s).s := by
    intro cs
    induction cs with
    | nil => intro s; rfl
    | cons c cs ih => intro s; simp only [List.foldl_cons, eachSlice]; exact ih _
  obtain ⟨_, e2, e3, e4, e5, e6, e7, e8⟩ := eachSlice_local hl gid cs s hc hn
  rw [he]
  exact ⟨e2, e3, e4, e5, e6, e7, by rw [e8]; simp⟩

/-- The regions of the slices closed, and their paths brought together, where the instruction does so (R149, R332). -/
theorem closing_run (gid : Nat) (g : Grp) (cs : List Ctx) (s : State) (hc : ∀ c ∈ cs, c.ref.gid = gid ∧ c.ref.idx < (s.group gid).slices.length)
    (hn : (cs.map (fun c => c.ref.idx)).Nodup) : Changes gid cs g.closed s (s.closing g cs) := by
  have h1 : ∀ s : State, (∀ c ∈ cs, c.ref.gid = gid ∧ c.ref.idx < (s.group gid).slices.length) →
      Changes gid cs (fun sl => if g.shape.closes then { sl with regpc := 0 } else sl) s (if g.shape.closes then cs.foldl (fun s c => s.closeRegion c.ref) s else s) := by
    intro s hc
    by_cases h : g.shape.closes = true
    · simp only [h, if_true]; exact foldl_changes _ gid cs s hc hn
    · simp only [h]; exact Changes.refl gid cs s
  have h2 : ∀ s : State, (∀ c ∈ cs, c.ref.gid = gid ∧ c.ref.idx < (s.group gid).slices.length) →
      Changes gid cs (fun sl => if g.shape.acquires then { sl with pathStores := [] } else sl) s (if g.shape.acquires then cs.foldl (fun s c => s.joinPaths c.ref) s else s) := by
    intro s hc
    by_cases h : g.shape.acquires = true
    · simp only [h, if_true]; exact foldl_changes _ gid cs s hc hn
    · simp only [h]; exact Changes.refl gid cs s
  have a := h1 s hc
  exact a.trans (h2 _ (fun c hm => by rw [a.count]; exact hc c hm))

/-- A ready group of an instruction whose every slice does a local part performs that part in each of its slices and does nothing else. -/
theorem lands_of_local {i : Instr} {op : Nat} {wide : Bool} {p : List Prefix} {w : WForm} {own : Own} {act f tgt sat} {s : State} {who : Issuer}
    {cs : List Ctx} (hi : exec i s = issue op wide p w own (eachSlice act) s) (hl : Local act f tgt sat) (ho : ∀ c ∈ cs, own s c = none)
    (h : Ready s who op wide p w cs) :
    Lands i s who cs (fun c sl => f c (c.g.closed sl)) (fun c sl => (tgt c (c.g.closed sl)).getD c.g.next) (fun c sl => sat c (c.g.closed sl)) := by
  have hcs := h.2.1
  obtain ⟨hrefs, hnd⟩ := contexts_refs s who (Grp.of op wide p w (s.issueAddr who))
  rw [hcs] at hrefs hnd
  have hin : ∀ c ∈ cs, c.ref.gid = who.gid ∧ c.ref.idx < (s.group who.gid).slices.length := fun c hc => ⟨(hrefs c hc).1, (hrefs c hc).2.1⟩
  have hcl := closing_run who.gid (Grp.of op wide p w (s.issueAddr who)) cs s hin hnd
  generalize hr : s.closing (Grp.of op wide p w (s.issueAddr who)) cs = r at hcl
  obtain ⟨c2, c3, c4, c5, c6, c7, c8⟩ := hcl
  have hin' : ∀ c ∈ cs, c.ref.gid = who.gid ∧ c.ref.idx < (r.group who.gid).slices.length := fun c hc => by rw [c7]; exact hin c hc
  obtain ⟨e1, e2, e3, e4, e5, e6, e7, e8⟩ := eachSlice_local hl who.gid cs r hin' hnd
  obtain ⟨d1, d2, d3⟩ := conclude_only (s := s) (g := Grp.of op wide p w (s.issueAddr who)) (tgt := fun c => tgt c (r.slice c.ref)) h.2.2.1 hin hnd
    (fun q hq => by rw [e3 q hq, c3 q hq]) (c4.trans e4) (fun k hk => by rw [e5 k hk, c5 k hk]) (same_shell c6 e6) (by rw [e7, c7])
  refine ⟨_, ?_, d1, ?_, ?_⟩
  · rw [hi, issue_ready h ho, hr, fatesOf_next (tgt := fun c => tgt c (r.slice c.ref)) hnd e1]
  · intro c hc
    obtain ⟨l, hl⟩ := d2 c hc
    refine ⟨l, ?_⟩
    rw [hl, e2 c hc, c2 c hc]
    simp only [(hrefs c hc).2.2.1]
  · rw [d3, e8, c8]
    congr 1
    apply Bool.eq_iff_iff.mpr
    simp only [List.any_eq_true]
    constructor
    · rintro ⟨c, hc, e⟩; exact ⟨c, hc, by rw [c2 c hc] at e; rw [(hrefs c hc).2.2.1]; exact e⟩
    · rintro ⟨c, hc, e⟩; exact ⟨c, hc, by rw [c2 c hc]; rw [(hrefs c hc).2.2.1] at e; exact e⟩

/-- Two descriptions of what the slices become that agree on the subgang. -/
theorem Lands.congr {i s who cs f f' pc pc' sat sat'} (h : Lands i s who cs f pc sat) (hf : ∀ c ∈ cs, f' c (s.slice c.ref) = f c (s.slice c.ref))
    (hp : ∀ c ∈ cs, pc' c (s.slice c.ref) = pc c (s.slice c.ref)) (hs : ∀ c ∈ cs, sat' c (s.slice c.ref) = sat c (s.slice c.ref)) :
    Lands i s who cs f' pc' sat' := by
  obtain ⟨t, h1, h2, h3, h4⟩ := h
  refine ⟨t, h1, h2, fun c hc => by rw [hf c hc, hp c hc]; exact h3 c hc, ?_⟩
  rw [h4]
  congr 1
  apply Bool.eq_iff_iff.mpr
  simp only [List.any_eq_true]
  constructor
  · rintro ⟨c, hc, e⟩; exact ⟨c, hc, by rw [hs c hc]; exact e⟩
  · rintro ⟨c, hc, e⟩; exact ⟨c, hc, by rw [← hs c hc]; exact e⟩

/-- Where the instruction closes no region, acquires nothing, and its slices go on after it. -/
theorem performs_of_local {i : Instr} {op : Nat} {wide : Bool} {p : List Prefix} {w : WForm} {act f sat} {s : State} {who : Issuer} {cs : List Ctx}
    (hi : exec i s = issueEach op wide p w act s) (hl : Local act f (fun _ _ => none) sat)
    (hcl : (Grp.of op wide p w (s.issueAddr who)).shape.closes = false) (hac : (Grp.of op wide p w (s.issueAddr who)).shape.acquires = false) (h : Ready s who op wide p w cs) : Performs i s who cs f sat := by
  have hrefs := (contexts_refs s who (Grp.of op wide p w (s.issueAddr who))).1
  rw [h.2.1] at hrefs
  have hc : ∀ c ∈ cs, ∀ sl, c.g.closed sl = sl := by
    intro c hm sl
    rw [(hrefs c hm).2.2.1]; unfold Grp.closed; rw [hcl, hac]; rfl
  refine Lands.congr (lands_of_local (own := ownNone) hi hl (fun _ _ => rfl) h) ?_ ?_ ?_
  · intro c hm; rw [hc c hm]
  · intro c hm; rfl
  · intro c hm; rw [hc c hm]

end Sys2Proof.Machine
end

