-- ==== Sys2Proof/Laws/Effects.lean ====
section
/-! SUPPORT. What a ready group does when its slices each carry out a part that is not local to the slice: all go on, or the one slice of a subgang goes on, traps or parks. -/

namespace Sys2Proof.Machine

/-- Slices that all go on, from the state that their parts left. -/
theorem conclude_goes {u : State} {who : Issuer} {g : Grp} {cs : List Ctx} (hc : ∀ c ∈ cs, c.ref.gid = who.gid ∧ c.g = g) :
    u.conclude who g (cs.map (fun c => (c.ref.idx, Fate.next))) = u.goingOn who cs := by
  have h := conclude_next u who g (fun _ => none) cs
  simp only [fateTo] at h
  rw [h]
  unfold State.goingOn
  congr 1
  rw [List.foldl_map]
  clear h
  induction cs generalizing u with
  | nil => rfl
  | cons c cs ih =>
    simp only [List.foldl_cons]
    obtain ⟨h1, h2⟩ := hc c (by simp)
    have : u.settleFate g ⟨who.gid, c.ref.idx⟩ Fate.next = u.modSlice c.ref (fun sl => { sl with pc := c.g.next }) := by
      rw [← h1, h2]; rfl
    rw [this]
    exact ih (fun d hd => hc d (by simp [hd]))

/-- Wherever an instruction's action carries out the part of each slice and lets it go on, a ready group goes on whole. -/
theorem goes_of {i : Instr} {op : Nat} {wide : Bool} {p : List Prefix} {w : WForm} {own : Own} {act : Ctx → State → State × Fate} {part} {s : State} {who : Issuer}
    {cs : List Ctx} (hi : exec i s = issue op wide p w own (eachSlice act) s) (hp : ∀ c s u, part c s u → act c s = (u, .next))
    (ho : ∀ c ∈ cs, own s c = none) (h : Ready s who op wide p w cs) : Goes part i s who cs := by
  intro g u hg hu
  obtain ⟨hrefs, hnd⟩ := contexts_refs s who (Grp.of op wide p w (s.issueAddr who))
  rw [h.2.1] at hrefs hnd
  obtain ⟨c0, hc0⟩ := List.exists_mem_of_ne_nil cs h.2.2.1
  have he : g = Grp.of op wide p w (s.issueAddr who) := (hg c0 hc0).symm.trans (hrefs c0 hc0).2.2.1
  subst he
  have hrun : ∀ (cs : List Ctx) (s u : State), Chain part cs s u → eachSlice act cs s = ⟨u, cs.map (fun c => (c.ref.idx, Fate.next)), .next⟩ := by
    intro cs
    induction cs with
    | nil => intro s u h; cases h; rfl
    | cons c cs ih =>
      rintro s u ⟨v, h1, h2⟩
      simp only [eachSlice, hp c s v h1, ih v u h2, List.map_cons]
  rw [hi]
  rw [issue_ready h ho, hrun _ _ _ hu]
  have hf := fatesOf_next (ran := ⟨u, cs.map (fun c => (c.ref.idx, Fate.next)), .next⟩) (tgt := fun _ => none) hnd rfl
  simp only [fateTo] at hf
  simp only [hf]
  rw [conclude_goes (fun c hc => ⟨(hrefs c hc).1, (hrefs c hc).2.2.1⟩)]

/-- What a ready group of a subgang of one slice does, by the fate its action gives the slice. -/
theorem one_of {i : Instr} {op : Nat} {wide : Bool} {p : List Prefix} {w : WForm} {own : Own} {act : Ctx → State → State × Fate} {s u : State} {who : Issuer}
    {c : Ctx} {f : Fate} (hi : exec i s = issue op wide p w own (eachSlice act) s) (ha : act c (s.closing c.g [c]) = (u, f))
    (ho : own s c = none) (h : Ready s who op wide p w [c]) : exec i s = .next (u.conclude who c.g [(c.ref.idx, f)]) ∧ c.ref.gid = who.gid := by
  obtain ⟨hrefs, hnd⟩ := contexts_refs s who (Grp.of op wide p w (s.issueAddr who))
  rw [h.2.1] at hrefs hnd
  obtain ⟨h1, _, h3, _⟩ := hrefs c (by simp)
  rw [h3] at ha ⊢
  refine ⟨?_, h1⟩
  rw [hi]
  rw [issue_ready h (fun d hd => by rw [List.mem_singleton.mp hd]; exact ho)]
  simp only [eachSlice, ha]
  simp [fatesOf]

/-- Whether a fate makes the one slice of a subgang park or part. -/
def Fate.parts : Fate → Bool
  | .park _ => true
  | .alone => true
  | _ => false

/-- The end of a group for the one slice of a subgang: a trap leaves it in its subgang (R133). -/
theorem conclude_one (u : State) (who : Issuer) (g : Grp) (i : Nat) (f : Fate) :
    u.conclude who g [(i, f)] = (if f.parts then (u.settleFate g ⟨who.gid, i⟩ f).modSlice ⟨who.gid, i⟩ (fun sl => { sl with sub := loneLabel i })
      else u.settleFate g ⟨who.gid, i⟩ f).divide who.gid who.gang := by
  have h : ∀ sl, f.leaves (sameTrap (fun j => u.slice ⟨who.gid, j⟩) [(i, f)]) sl = (f.parts || !(f.cause (u.slice ⟨who.gid, i⟩)).isSome && (f.cause sl).isSome) := by
    intro sl
    cases f <;> simp [Fate.leaves, sameTrap, Fate.parts, Fate.cause]
  unfold State.conclude
  simp only [List.filter_cons, List.filter_nil, List.foldl_cons, List.foldl_nil, h]
  cases f.parts <;> cases (f.cause (u.slice ⟨who.gid, i⟩)).isSome <;> rfl

theorem leaves_of {i : Instr} {op : Nat} {wide : Bool} {p : List Prefix} {w : WForm} {own : Own} {act : Ctx → State → State × Fate} {s u : State} {who : Issuer}
    {c : Ctx} (hi : exec i s = issue op wide p w own (eachSlice act) s) (ha : act c (s.closing c.g [c]) = (u, .next))
    (ho : own s c = none) (h : Ready s who op wide p w [c]) : Leaves i s who c u c.g.next := by
  obtain ⟨h1, h2⟩ := one_of hi ha ho h
  have hr : (⟨who.gid, c.ref.idx⟩ : SliceRef) = c.ref := by rw [← h2]
  unfold Leaves
  rw [h1]
  simp [conclude_one, Fate.parts, State.settleFate, hr]

theorem traps_of {i : Instr} {op : Nat} {wide : Bool} {p : List Prefix} {w : WForm} {own : Own} {act : Ctx → State → State × Fate} {s u : State} {who : Issuer}
    {c : Ctx} {t : Trap} (hi : exec i s = issue op wide p w own (eachSlice act) s) (ha : act c (s.closing c.g [c]) = (u, .trap t))
    (ho : own s c = none) (h : Ready s who op wide p w [c]) : Traps i s who c u t := by
  obtain ⟨h1, h2⟩ := one_of hi ha ho h
  have hr : (⟨who.gid, c.ref.idx⟩ : SliceRef) = c.ref := by rw [← h2]
  unfold Traps
  rw [h1]
  simp [hr, conclude_one, Fate.parts, State.settleFate]

theorem parks_of {i : Instr} {op : Nat} {wide : Bool} {p : List Prefix} {w : WForm} {own : Own} {act : Ctx → State → State × Fate} {s u : State} {who : Issuer}
    {c : Ctx} {x : Wait} (hi : exec i s = issue op wide p w own (eachSlice act) s) (ha : act c (s.closing c.g [c]) = (u, .park x))
    (ho : own s c = none) (h : Ready s who op wide p w [c]) : Parks i s who c u x := by
  obtain ⟨h1, h2⟩ := one_of hi ha ho h
  have hr : (⟨who.gid, c.ref.idx⟩ : SliceRef) = c.ref := by rw [← h2]
  unfold Parks
  rw [h1]
  simp [conclude_one, Fate.parts, State.settleFate, hr]

end Sys2Proof.Machine
end

