-- ==== Sys2Proof/Laws/Access.lean ====
section
/-! SUPPORT. What the issue of a memory instruction does where every lane reaches a place, once for every instruction whose lanes are all performed, and what the notes of a SPLIT's paths can do. -/

namespace Sys2Proof.Machine

theorem deniedLanes_at (is : List Nat) (p : Nat → Place) : deniedLanes (is.map (fun i => (i, Spot.at_ (p i)))) = none := by
  unfold deniedLanes
  dsimp only
  have : ∀ (f : Nat × Spot → Option (Nat × Nat)), (∀ i, f (i, Spot.at_ (p i)) = none) → (is.map (fun i => (i, Spot.at_ (p i)))).filterMap f = [] := by
    intro f hf
    induction is with
    | nil => rfl
    | cons i is ih => simp only [List.map_cons, List.filterMap_cons, hf]; exact ih
  rw [this _ (fun _ => rfl)]; rfl

theorem unresolvable_at (is : List Nat) (p : Nat → Place) : unresolvableLanes (is.map (fun i => (i, Spot.at_ (p i)))) = 0 := by
  unfold unresolvableLanes
  rw [List.foldl_map]
  induction is with
  | nil => rfl
  | cons i is ih => simp only [List.foldl_cons]; simp only [reduceCtorEq, if_false]; exact ih

theorem mask_set (a : Access) (ls : Lanes LaneState) (i : Nat) (hi : i < 4) (h : ls.get i ≠ .off) (x : LaneState) (hx : x ≠ .off) :
    ({ a with lanes := ls.set i x } : Access).mask = ({ a with lanes := ls } : Access).mask := by
  have : ∀ j, j < 4 → ((ls.set i x).get j ≠ .off ↔ ls.get j ≠ .off) := by
    intro j hj
    rcases (by omega : i = 0 ∨ i = 1 ∨ i = 2 ∨ i = 3) with rfl | rfl | rfl | rfl <;>
      rcases (by omega : j = 0 ∨ j = 1 ∨ j = 2 ∨ j = 3) with rfl | rfl | rfl | rfl <;>
      simp_all [Lanes.set, Lanes.get]
  unfold Access.mask Mask.ofFn
  dsimp only
  simp only [this 0 (by omega), this 1 (by omega), this 2 (by omega), this 3 (by omega)]

/-- An access whose lanes all reach places performs them in ascending order and completes (R157, R165). -/
theorem advance_of {a : Access} {c : Ctx} {s v : State} {p : Nat → Place} {lane : State → Nat → State} (h : a.Reaches c s v p)
    (hat : a.op.isAtomic = false) (ht : ∀ i, i < 4 → a.lanes.get i = .todo ∨ a.lanes.get i = .off)
    (hl : ∀ x ls i, i < 4 → ({ a with lanes := ls } : Access).mask = a.mask →
      x.presentLane c.ref { a with lanes := ls } i (p i) = (lane x i, { a with lanes := ls.set i .done })) :
    s.advance c.ref a = ((a.todo.foldl lane v).finishAccess c.ref a, .next) := by
  obtain ⟨_, h2, h3⟩ := h
  have hs : ∀ x : State, x.slotMissing c.ref a = false := by
    intro x
    unfold State.slotMissing
    split
    · rename_i heq; rw [heq] at hat; simp [AccessOp.isAtomic] at hat
    · rfl
  unfold State.advance
  simp only [hs, h2, h3, deniedLanes_at, unresolvable_at, Bool.false_eq_true, if_false, ne_eq, not_true, State.poisonedTargets, hat]
  simp only [State.placeLanes, hat, Bool.false_eq_true, if_false, Bool.false_and]
  rw [List.foldl_map]
  have hf : ∀ (is : List Nat) (x : State) (ls : Lanes LaneState), (∀ i ∈ is, i < 4 ∧ ls.get i ≠ .off) → ({ a with lanes := ls } : Access).mask = a.mask →
      is.foldl (fun x i => State.placeLane c.ref x (i, Spot.at_ (p i))) (x, { a with lanes := ls }) =
        (is.foldl lane x, { a with lanes := is.foldl (fun ls i => ls.set i .done) ls }) := by
    intro is
    induction is with
    | nil => intro x ls _ _; rfl
    | cons i is ih =>
      intro x ls hi hm
      obtain ⟨h4, h5⟩ := hi i (by simp)
      simp only [List.foldl_cons, State.placeLane]
      rw [hl x ls i h4 hm]
      refine ih _ _ ?_ ?_
      · intro j hj
        obtain ⟨j4, j5⟩ := hi j (by simp [hj])
        refine ⟨j4, ?_⟩
        rcases (by omega : i = 0 ∨ i = 1 ∨ i = 2 ∨ i = 3) with rfl | rfl | rfl | rfl <;>
          rcases (by omega : j = 0 ∨ j = 1 ∨ j = 2 ∨ j = 3) with rfl | rfl | rfl | rfl <;>
          simp_all [Lanes.set, Lanes.get]
      · rw [mask_set a ls i h4 h5 _ (by simp), hm]
  have ha : ∀ i ∈ a.todo, i < 4 ∧ a.lanes.get i ≠ .off := by
    intro i hi
    simp only [Access.todo, List.mem_filter, List.mem_range, Bool.or_eq_true, decide_eq_true_eq] at hi
    refine ⟨hi.1, ?_⟩
    rcases hi.2 with h | h <;> rw [h] <;> simp
  rw [hf a.todo v a.lanes ha rfl]
  have hleft : ({ a with lanes := a.todo.foldl (fun ls i => ls.set i .done) a.lanes } : Access).left = 0 := by
    have : ∀ i, i < 4 → (a.todo.foldl (fun ls i => ls.set i .done) a.lanes).get i = .off ∨ (a.todo.foldl (fun ls i => ls.set i .done) a.lanes).get i = .done := by
      have e0 := ht 0 (by omega); have e1 := ht 1 (by omega); have e2 := ht 2 (by omega); have e3 := ht 3 (by omega)
      have er : (List.range 4) = [0, 1, 2, 3] := rfl
      unfold Access.todo
      rw [er]
      intro i hi
      rcases (by omega : i = 0 ∨ i = 1 ∨ i = 2 ∨ i = 3) with rfl | rfl | rfl | rfl <;>
      rcases e0 with e0 | e0 <;> rcases e1 with e1 | e1 <;> rcases e2 with e2 | e2 <;> rcases e3 with e3 | e3 <;>
        simp [List.filter, e0, e1, e2, e3, Lanes.set] <;> (simp [Lanes.get] at e0 e1 e2 e3 ⊢) <;> simp [e0, e1, e2, e3]
    have hz : Mask.ofFn (fun i => decide ((a.todo.foldl (fun ls i => ls.set i .done) a.lanes).get i ≠ .off) &&
        decide ((a.todo.foldl (fun ls i => ls.set i .done) a.lanes).get i ≠ .done)) = 0 := by
      unfold Mask.ofFn
      have g : ∀ i, i < 4 → (decide ((a.todo.foldl (fun ls i => ls.set i .done) a.lanes).get i ≠ .off) &&
        decide ((a.todo.foldl (fun ls i => ls.set i .done) a.lanes).get i ≠ .done)) = false := by
        intro i hi
        rcases this i hi with e | e <;> simp [e]
      dsimp only
      simp only [g 0 (by omega), g 1 (by omega), g 2 (by omega), g 3 (by omega)]
      rfl
    unfold Access.left
    simp only [hz]
    rfl
  unfold Access.noteWritten
  simp only [hleft, or_true, if_true]
  unfold State.restAccess
  rw [if_pos hleft]
  rfl

theorem memAccess_lanes (op size regs sg ret acq rel once dflt c sl) : ∀ i, i < 4 →
    (memAccess op size regs sg ret acq rel once dflt c sl).lanes.get i = .todo ∨ (memAccess op size regs sg ret acq rel once dflt c sl).lanes.get i = .off := by
  intro i hi
  unfold memAccess
  dsimp only
  rcases (by omega : i = 0 ∨ i = 1 ∨ i = 2 ∨ i = 3) with rfl | rfl | rfl | rfl <;> simp only [Lanes.ofFn, Lanes.get] <;> split <;> simp

theorem targets_mask (a : Access) (ls) (h : ({ a with lanes := ls } : Access).mask = a.mask) (i : Nat) : ({ a with lanes := ls } : Access).targets i = a.targets i := by
  unfold Access.targets
  rw [h]

/-! ### The two paths of a SPLIT (R130) -/

/-- What a slice has met changes its notes of the other path's stores alone. -/
theorem Slice.meets_frame (sl : Slice) (cut : Nat) (sp : Space) (home a n : Nat) : { sl.meets cut sp home a n with pathStores := sl.pathStores } = sl := rfl

/-- A store noted changes the notes alone. -/
theorem Slice.stores_frame (sl : Slice) (sp : Space) (home a : Nat) (was : List Byte) : { sl.stores sp home a was with pathStores := sl.pathStores } = sl := by
  unfold Slice.stores
  dsimp only
  split <;> rfl

theorem apart_drop {sl : Slice} (h : ∀ x ∈ sl.pathStores, x.apart = false) (cut : Nat) (f : PathStore → Bool) :
    (sl.pathStores.drop cut).find? (fun x => x.apart && f x) = none := by
  rw [List.find?_eq_none]
  intro x hx
  simp [h x (List.mem_of_mem_drop hx)]

/-- Where no store of another path stands on the bytes of a load, it finds them as they are. -/
theorem Slice.sees_now (sl : Slice) (cut : Nat) (sp : Space) (home a : Nat) (now : List Byte) (h : ∀ x ∈ sl.pathStores, x.apart = false) :
    sl.sees cut sp home a now = now := by
  unfold Slice.sees
  split
  · rfl
  · simp [apart_drop h cut, List.mapIdx_eq_zipIdx_map]

/-- Where no store of another path stands on the bytes of a store, it leaves what it writes. -/
theorem Slice.overtaken_data (sl : Slice) (cut : Nat) (sp : Space) (home a : Nat) (now data : List Byte) (h : ∀ x ∈ sl.pathStores, x.apart = false) :
    sl.overtaken cut sp home a now data = data := by
  unfold Slice.overtaken
  split
  · rfl
  · have (f : PathStore → Bool) : (sl.pathStores.drop cut).any (fun x => x.apart && f x) = false := by
      rw [List.any_eq_false]
      intro x hx
      simp [h x (List.mem_of_mem_drop hx)]
    simp [this, List.mapIdx_eq_zipIdx_map]

end Sys2Proof.Machine
end

