-- ==== Sys2Proof/Laws/Base.lean ====
section
/-! SUPPORT. What a change of a base die, a request at one and a line of an L2 leave of the state. -/

namespace Sys2Proof.Machine

/-! ### Base dies -/

@[simp] theorem modBase_mem (s : State) (n : Nat) (f : BaseDie → BaseDie) : (s.modBase n f).mem = s.mem := rfl
@[simp] theorem modBase_groups (s : State) (n : Nat) (f : BaseDie → BaseDie) : (s.modBase n f).groups = s.groups := rfl
@[simp] theorem modBase_dies (s : State) (n : Nat) (f : BaseDie → BaseDie) : (s.modBase n f).dies = s.dies := rfl
@[simp] theorem modBase_parks (s : State) (n : Nat) (f : BaseDie → BaseDie) : (s.modBase n f).parks = s.parks := rfl
@[simp] theorem modBase_remotes (s : State) (n : Nat) (f : BaseDie → BaseDie) : (s.modBase n f).remotes = s.remotes := rfl
@[simp] theorem modBase_barriers (s : State) (n : Nat) (f : BaseDie → BaseDie) : (s.modBase n f).barriers = s.barriers := rfl
@[simp] theorem modBase_hbarWaiting (s : State) (n : Nat) (f : BaseDie → BaseDie) : (s.modBase n f).hbarWaiting = s.hbarWaiting := rfl
@[simp] theorem modBase_partitions (s : State) (n : Nat) (f : BaseDie → BaseDie) : (s.modBase n f).partitions = s.partitions := rfl
@[simp] theorem modBase_ended (s : State) (n : Nat) (f : BaseDie → BaseDie) : (s.modBase n f).ended = s.ended := rfl
@[simp] theorem modBase_units (s : State) (n : Nat) (f : BaseDie → BaseDie) : (s.modBase n f).units = s.units := rfl
@[simp] theorem modBase_queued (s : State) (n : Nat) (f : BaseDie → BaseDie) : (s.modBase n f).queued = s.queued := rfl
@[simp] theorem modBase_levels (s : State) (n : Nat) (f : BaseDie → BaseDie) : (s.modBase n f).levels = s.levels := rfl
@[simp] theorem modBase_enqueues (s : State) (n : Nat) (f : BaseDie → BaseDie) : (s.modBase n f).enqueues = s.enqueues := rfl
@[simp] theorem modBase_launchClusters (s : State) (n : Nat) (f : BaseDie → BaseDie) : (s.modBase n f).launchClusters = s.launchClusters := rfl
@[simp] theorem modBase_counterAccesses (s : State) (n : Nat) (f : BaseDie → BaseDie) : (s.modBase n f).counterAccesses = s.counterAccesses := rfl
@[simp] theorem modBase_regions (s : State) (n : Nat) (f : BaseDie → BaseDie) : (s.modBase n f).regions = s.regions := rfl
@[simp] theorem modBase_oldRegions (s : State) (n : Nat) (f : BaseDie → BaseDie) : (s.modBase n f).oldRegions = s.oldRegions := rfl
@[simp] theorem modBase_generation (s : State) (n : Nat) (f : BaseDie → BaseDie) : (s.modBase n f).generation = s.generation := rfl
@[simp] theorem modBase_rewrite (s : State) (n : Nat) (f : BaseDie → BaseDie) : (s.modBase n f).rewrite = s.rewrite := rfl
@[simp] theorem modBase_sems (s : State) (n : Nat) (f : BaseDie → BaseDie) : (s.modBase n f).sems = s.sems := rfl
@[simp] theorem modBase_semLastLoser (s : State) (n : Nat) (f : BaseDie → BaseDie) : (s.modBase n f).semLastLoser = s.semLastLoser := rfl
@[simp] theorem modBase_bootstat (s : State) (n : Nat) (f : BaseDie → BaseDie) : (s.modBase n f).bootstat = s.bootstat := rfl
@[simp] theorem modBase_portsUp (s : State) (n : Nat) (f : BaseDie → BaseDie) : (s.modBase n f).portsUp = s.portsUp := rfl
@[simp] theorem modBase_flashA (s : State) (n : Nat) (f : BaseDie → BaseDie) : (s.modBase n f).flashA = s.flashA := rfl
@[simp] theorem modBase_flashB (s : State) (n : Nat) (f : BaseDie → BaseDie) : (s.modBase n f).flashB = s.flashB := rfl
@[simp] theorem modBase_preferB (s : State) (n : Nat) (f : BaseDie → BaseDie) : (s.modBase n f).preferB = s.preferB := rfl
@[simp] theorem modBase_pendingCommit (s : State) (n : Nat) (f : BaseDie → BaseDie) : (s.modBase n f).pendingCommit = s.pendingCommit := rfl
@[simp] theorem modBase_mailbox (s : State) (n : Nat) (f : BaseDie → BaseDie) : (s.modBase n f).mailbox = s.mailbox := rfl
@[simp] theorem modBase_flashEvents (s : State) (n : Nat) (f : BaseDie → BaseDie) : (s.modBase n f).flashEvents = s.flashEvents := rfl
@[simp] theorem modBase_rollback (s : State) (n : Nat) (f : BaseDie → BaseDie) : (s.modBase n f).rollback = s.rollback := rfl
@[simp] theorem modBase_revoked (s : State) (n : Nat) (f : BaseDie → BaseDie) : (s.modBase n f).revoked = s.revoked := rfl
@[simp] theorem modBase_keyHashes (s : State) (n : Nat) (f : BaseDie → BaseDie) : (s.modBase n f).keyHashes = s.keyHashes := rfl
@[simp] theorem modBase_deviceSecret (s : State) (n : Nat) (f : BaseDie → BaseDie) : (s.modBase n f).deviceSecret = s.deviceSecret := rfl
@[simp] theorem modBase_identitySeed (s : State) (n : Nat) (f : BaseDie → BaseDie) : (s.modBase n f).identitySeed = s.identitySeed := rfl
@[simp] theorem modBase_serial (s : State) (n : Nat) (f : BaseDie → BaseDie) : (s.modBase n f).serial = s.serial := rfl
@[simp] theorem modBase_fusesLocked (s : State) (n : Nat) (f : BaseDie → BaseDie) : (s.modBase n f).fusesLocked = s.fusesLocked := rfl
@[simp] theorem modBase_attestationSeed (s : State) (n : Nat) (f : BaseDie → BaseDie) : (s.modBase n f).attestationSeed = s.attestationSeed := rfl
@[simp] theorem modBase_imageDigest (s : State) (n : Nat) (f : BaseDie → BaseDie) : (s.modBase n f).imageDigest = s.imageDigest := rfl
@[simp] theorem modBase_imageSvn (s : State) (n : Nat) (f : BaseDie → BaseDie) : (s.modBase n f).imageSvn = s.imageSvn := rfl
@[simp] theorem modBase_moduleCap (s : State) (n : Nat) (f : BaseDie → BaseDie) : (s.modBase n f).moduleCap = s.moduleCap := rfl
@[simp] theorem modBase_now (s : State) (n : Nat) (f : BaseDie → BaseDie) : (s.modBase n f).now = s.now := rfl
@[simp] theorem modBase_nanos (s : State) (n : Nat) (f : BaseDie → BaseDie) : (s.modBase n f).nanos = s.nanos := rfl
@[simp] theorem modBase_nextGid (s : State) (n : Nat) (f : BaseDie → BaseDie) : (s.modBase n f).nextGid = s.nextGid := rfl
@[simp] theorem modBase_nextUid (s : State) (n : Nat) (f : BaseDie → BaseDie) : (s.modBase n f).nextUid = s.nextUid := rfl
@[simp] theorem modBase_nextStamp (s : State) (n : Nat) (f : BaseDie → BaseDie) : (s.modBase n f).nextStamp = s.nextStamp := rfl
@[simp] theorem modBase_nextCopy (s : State) (n : Nat) (f : BaseDie → BaseDie) : (s.modBase n f).nextCopy = s.nextCopy := rfl
@[simp] theorem modBase_nextLaunch (s : State) (n : Nat) (f : BaseDie → BaseDie) : (s.modBase n f).nextLaunch = s.nextLaunch := rfl
@[simp] theorem modBase_links (s : State) (n : Nat) (f : BaseDie → BaseDie) : (s.modBase n f).links = s.links := rfl
@[simp] theorem modBase_routes (s : State) (n : Nat) (f : BaseDie → BaseDie) : (s.modBase n f).routes = s.routes := rfl
@[simp] theorem modBase_package (s : State) (n : Nat) (f : BaseDie → BaseDie) : (s.modBase n f).package = s.package := rfl
@[simp] theorem modBase_outNext (s : State) (n : Nat) (f : BaseDie → BaseDie) : (s.modBase n f).outNext = s.outNext := rfl
@[simp] theorem modBase_kept (s : State) (n : Nat) (f : BaseDie → BaseDie) : (s.modBase n f).kept = s.kept := rfl
@[simp] theorem modBase_inflow (s : State) (n : Nat) (f : BaseDie → BaseDie) : (s.modBase n f).inflow = s.inflow := rfl
@[simp] theorem modBase_clearPackets (s : State) (n : Nat) (f : BaseDie → BaseDie) : (s.modBase n f).clearPackets = s.clearPackets := rfl
@[simp] theorem modBase_parkedPackets (s : State) (n : Nat) (f : BaseDie → BaseDie) : (s.modBase n f).parkedPackets = s.parkedPackets := rfl
@[simp] theorem modBase_coordinator (s : State) (n : Nat) (f : BaseDie → BaseDie) : (s.modBase n f).coordinator = s.coordinator := rfl
@[simp] theorem modBase_jobAnswers (s : State) (n : Nat) (f : BaseDie → BaseDie) : (s.modBase n f).jobAnswers = s.jobAnswers := rfl
@[simp] theorem modBase_jobWaiting (s : State) (n : Nat) (f : BaseDie → BaseDie) : (s.modBase n f).jobWaiting = s.jobWaiting := rfl
@[simp] theorem modBase_jobMessages (s : State) (n : Nat) (f : BaseDie → BaseDie) : (s.modBase n f).jobMessages = s.jobMessages := rfl
@[simp] theorem modBase_ucie (s : State) (n : Nat) (f : BaseDie → BaseDie) : (s.modBase n f).ucie = s.ucie := rfl
@[simp] theorem modBase_hostLines (s : State) (n : Nat) (f : BaseDie → BaseDie) : (s.modBase n f).hostLines = s.hostLines := rfl
@[simp] theorem modBase_backInvalidates (s : State) (n : Nat) (f : BaseDie → BaseDie) : (s.modBase n f).backInvalidates = s.backInvalidates := rfl
@[simp] theorem modBase_replies (s : State) (n : Nat) (f : BaseDie → BaseDie) : (s.modBase n f).replies = s.replies := rfl
@[simp] theorem modBase_msix (s : State) (n : Nat) (f : BaseDie → BaseDie) : (s.modBase n f).msix = s.msix := rfl
@[simp] theorem modBase_deviceLog (s : State) (n : Nat) (f : BaseDie → BaseDie) : (s.modBase n f).deviceLog = s.deviceLog := rfl
@[simp] theorem modBase_agenda (s : State) (n : Nat) (f : BaseDie → BaseDie) : (s.modBase n f).agenda = s.agenda := rfl
@[simp] theorem modBase_asks (s : State) (n : Nat) (f : BaseDie → BaseDie) : (s.modBase n f).asks = s.asks := rfl
@[simp] theorem modBase_issuer (s : State) (n : Nat) (f : BaseDie → BaseDie) : (s.modBase n f).issuer = s.issuer := rfl
@[simp] theorem modBase_fresh (s : State) (n : Nat) (f : BaseDie → BaseDie) : (s.modBase n f).fresh = s.fresh := rfl

theorem base_modBase_self (s : State) (n : Nat) (f : BaseDie → BaseDie) (h : n < 16) : (s.modBase n f).base n = f (s.base n) :=
  Bank.getD_modify_self _ _ _ _ h

theorem base_modBase_ne (s : State) (n k : Nat) (f : BaseDie → BaseDie) (h : k ≠ n) : (s.modBase n f).base k = s.base k :=
  Bank.getD_modify_ne _ _ _ _ _ h

/-! ### Requests -/

/-- A request that arrives changes its base die, memory, and whether its line is clean in an L2. -/
theorem takeRequest_frame (s : State) (kind : Nat) (q : BaseRequest) :
    { s.takeRequest kind q with bases := s.bases, mem := s.mem, dies := s.dies } = s := by
  unfold State.takeRequest
  split <;> rfl

/-- A read that arrives changes no memory, nor an L2. -/
theorem takeRequest_read (s : State) (q : BaseRequest) : (s.takeRequest 1 q).mem = s.mem ∧ (s.takeRequest 1 q).dies = s.dies := by
  unfold State.takeRequest
  split <;> exact ⟨rfl, rfl⟩

/-- A base die in reset takes no request (R419). -/
theorem takeRequest_down (s : State) (kind : Nat) (q : BaseRequest) (h : (s.base q.stack).up = false) : s.takeRequest kind q = s := by
  simp [State.takeRequest, h]

/-- The device's own requests change the base dies, or a rewrite's list, and nothing else. -/
theorem askBases_frame (s : State) (xs : List OwnRequest) : { s.askBases xs with bases := s.bases, rewrite := s.rewrite } = s := rfl

@[simp] theorem askBases_mem (s : State) (xs : List OwnRequest) : (s.askBases xs).mem = s.mem := rfl
@[simp] theorem askBases_groups (s : State) (xs : List OwnRequest) : (s.askBases xs).groups = s.groups := rfl
@[simp] theorem askBases_dies (s : State) (xs : List OwnRequest) : (s.askBases xs).dies = s.dies := rfl
@[simp] theorem askBases_partitions (s : State) (xs : List OwnRequest) : (s.askBases xs).partitions = s.partitions := rfl

/-- While a rewrite drains the old table no request of the device reaches a base die (R398). -/
theorem askBases_drain (s : State) (xs : List OwnRequest) (h : s.rewrite.isSome = true) : (s.askBases xs).bases = s.bases := by
  simp [State.askBases, h]

/-- A line used in an L2 changes the L2s, the base dies, or a rewrite's list, and nothing else. -/
theorem l2Touch_frame (s : State) (pa : Nat) (u : L2Use) : { s.l2Touch pa u with dies := s.dies, bases := s.bases, rewrite := s.rewrite } = s := rfl

@[simp] theorem l2Touch_mem (s : State) (pa : Nat) (u : L2Use) : (s.l2Touch pa u).mem = s.mem := rfl
@[simp] theorem l2Touch_groups (s : State) (pa : Nat) (u : L2Use) : (s.l2Touch pa u).groups = s.groups := rfl

end Sys2Proof.Machine
end

