-- ==== Sys2Proof/Laws/Lane.lean ====
section
/-! SUPPORT. What lane instructions write: results, flags and mask bits as a local part of each slice. -/

namespace Sys2Proof.Machine

/-! ### Changes of one slice in a row -/

theorem Group.modSlice_modSlice (g : Group) (i : Nat) (f h : Slice → Slice) : (g.modSlice i f).modSlice i h = g.modSlice i (fun sl => h (f sl)) := by
  unfold Group.modSlice
  congr 1
  apply List.ext_getElem?
  intro n
  simp only [List.getElem?_modify]
  cases g.slices[n]? with
  | none => rfl
  | some x => by_cases e : i = n <;> simp [e]

theorem modGroup_modGroup (s : State) (gid : Nat) (f h : Group → Group) (hf : ∀ g, (f g).gid = g.gid) :
    (s.modGroup gid f).modGroup gid h = s.modGroup gid (fun g => h (f g)) := by
  unfold State.modGroup
  congr 1
  rw [List.map_map]
  apply List.map_congr_left
  intro g _
  simp only [Function.comp]
  by_cases e : g.gid = gid
  · simp [e, hf]
  · simp [e]

theorem modSlice_modSlice (s : State) (r : SliceRef) (f h : Slice → Slice) : (s.modSlice r f).modSlice r h = s.modSlice r (fun sl => h (f sl)) := by
  unfold State.modSlice
  rw [modGroup_modGroup s r.gid (fun g => g.modSlice r.idx f) (fun g => g.modSlice r.idx h) (fun _ => rfl)]
  congr 1
  funext g
  exact g.modSlice_modSlice _ _ _

theorem modSlice_id (s : State) (r : SliceRef) : s.modSlice r (fun sl => sl) = s := by
  have h : ∀ g : Group, g.modSlice r.idx (fun sl => sl) = g := by
    intro g; unfold Group.modSlice
    have : g.slices.modify r.idx (fun sl => sl) = g.slices := by
      apply List.ext_getElem?
      intro n
      simp only [List.getElem?_modify]
      cases g.slices[n]? with
      | none => rfl
      | some x => by_cases e : r.idx = n <;> simp [e]
    rw [this]
  unfold State.modSlice State.modGroup
  have : s.groups.map (fun g => if g.gid = r.gid then g.modSlice r.idx (fun sl => sl) else g) = s.groups := by
    conv => rhs; rw [← List.map_id s.groups]
    apply List.map_congr_left
    intro g _
    rw [h]; simp
  rw [this]

/-! ### Results -/

/-- A result written to d in the effective lanes, with the flags it raises, is a local part. -/
theorem laneResult_local (n : Ctx → Nat) (v : Ctx → Slice → Nat → Dword × Flags) :
    Local (fun c s => laneResult (n c) v c s)
      (fun c sl => (sl.put (n c) c.g.w.d.toNat c.eff (Lanes.ofFn (fun i => (v c sl i).1))).raise c (Lanes.ofFn (fun i => (v c sl i).2)))
      (fun _ _ => none) (fun c sl => saturates c (Lanes.ofFn (fun i => (v c sl i).2))) := by
  apply local_of
  intro c s
  let x := Lanes.ofFn (v c (s.slice c.ref))
  refine ⟨fun sl => (sl.put (n c) c.g.w.d.toNat c.eff (Lanes.ofFn (fun i => (v c (s.slice c.ref) i).1))).raise c (Lanes.ofFn (fun i => (v c (s.slice c.ref) i).2)),
    rfl, ?_⟩
  have h1 : Lanes.ofFn (fun i => (x.get i).1) = Lanes.ofFn (fun i => (v c (s.slice c.ref) i).1) := rfl
  have h2 : Lanes.ofFn (fun i => (x.get i).2) = Lanes.ofFn (fun i => (v c (s.slice c.ref) i).2) := rfl
  unfold laneResult writeLanes
  dsimp only
  rw [h1, h2]
  unfold Slice.raise saturates
  by_cases hn : c.g.w.nf = true
  · simp only [hn, if_true, Bool.not_true, Bool.false_and, Bool.false_eq_true, if_false]
    rfl
  · have hn' : c.g.w.nf = false := by simpa using hn
    simp only [hn', Bool.false_eq_true, if_false, Bool.not_false, Bool.true_and]
    unfold State.raiseFlags
    dsimp only
    rw [modSlice_modSlice]
    rfl

theorem Lanes.ofFn_congr {α : Type} {f g : Nat → α} (h : ∀ i, i < 4 → f i = g i) : Lanes.ofFn f = Lanes.ofFn g := by
  unfold Lanes.ofFn; rw [h 0 (by omega), h 1 (by omega), h 2 (by omega), h 3 (by omega)]

/-- An instruction that writes one result per lane gives the results that its values are. -/
theorem results_of {i : Instr} {op wide p w} {n : Ctx → Nat} {v : Ctx → Slice → Nat → Dword × Flags} {val flags} {s : State} {who : Issuer} {cs : List Ctx}
    (hi : exec i s = issueEach op wide p w (fun c s => laneResult (n c) v c s) s)
    (hcl : (Grp.of op wide p w (s.issueAddr who)).shape.closes = false) (hac : (Grp.of op wide p w (s.issueAddr who)).shape.acquires = false)
    (hv : ∀ c ∈ cs, ∀ i, i < 4 → v c (s.slice c.ref) i = (val c (s.slice c.ref) i, flags c (s.slice c.ref) i))
    (h : Ready s who op wide p w cs) : Results n val flags i s who cs := by
  unfold Results Performs
  refine Lands.congr (performs_of_local hi (laneResult_local n v) hcl hac h) ?_ (fun _ _ => rfl) ?_
  · intro c hc
    rw [Lanes.ofFn_congr (f := val c (s.slice c.ref)) (g := fun i => (v c (s.slice c.ref) i).1) (fun i hi => by rw [hv c hc i hi]),
      Lanes.ofFn_congr (f := flags c (s.slice c.ref)) (g := fun i => (v c (s.slice c.ref) i).2) (fun i hi => by rw [hv c hc i hi])]
  · intro c hc
    rw [Lanes.ofFn_congr (f := flags c (s.slice c.ref)) (g := fun i => (v c (s.slice c.ref) i).2) (fun i hi => by rw [hv c hc i hi])]

theorem lowWord_zeroExtend (x : Word) : lowWord (x.zeroExtend 64) = x := by
  unfold lowWord
  apply BitVec.eq_of_getLsbD_eq
  intro i hi
  simp [hi]
  omega

/-- A one-word operand has no bits above its word. -/
theorem operandN_word (sl : Slice) {n : Nat} (g0 spec lane : Nat) (h : n ≠ 2) :
    sl.operandN n g0 spec lane = (lowWord (sl.operandN n g0 spec lane)).zeroExtend 64 := by
  unfold Slice.operandN
  rw [if_neg h, lowWord_zeroExtend]

theorem operandB_word (sl : Slice) (p : Prefixes) {n : Nat} (g0 spec lane : Nat) (h : n ≠ 2) :
    sl.operandB p n g0 spec lane = (lowWord (sl.operandB p n g0 spec lane)).zeroExtend 64 := by
  unfold Slice.operandB
  cases p.xi with
  | none => exact operandN_word sl g0 spec lane h
  | some v =>
    simp only [if_neg h, lowWord_zeroExtend]

end Sys2Proof.Machine
end

