-- ==== Sys2Proof/Laws/Memory.lean ====
section
/-! SUPPORT. Reading after writing, what a write leaves alone, and the canonical form that every memory operation keeps (R10, R39, R413). -/

namespace Sys2Proof.Machine

/-! ### Lists of cells and of numbers -/

theorem cellInsert_find (l : List Host.Cell) (a : Nat) (x : Byte) (b : Nat) (h : ∀ c ∈ l, c.1 ≠ a) :
    (cellInsert l a x).find? (fun c => c.1 == b) = if b = a then some (a, x) else l.find? (fun c => c.1 == b) := by
  induction l with
  | nil =>
    by_cases e : b = a
    · subst e; simp [cellInsert]
    · simp [cellInsert, e, Ne.symm e]
  | cons c l ih =>
    have hc : c.1 ≠ a := h c (by simp)
    have ih := ih (fun d hd => h d (by simp [hd]))
    unfold cellInsert
    split
    · by_cases e : b = a
      · subst e; simp
      · simp [e, Ne.symm e]
    · by_cases e : c.1 = b
      · have : b ≠ a := fun k => hc (e.trans k)
        simp [e, this]
      · have e' : (c.1 == b) = false := by simpa using e
        simp only [List.find?_cons, e', ih]

theorem filter_find (l : List Host.Cell) (a b : Nat) :
    (l.filter (fun c => c.1 != a)).find? (fun c => c.1 == b) = if b = a then none else l.find? (fun c => c.1 == b) := by
  induction l with
  | nil => simp
  | cons c l ih =>
    by_cases e : c.1 = a
    · rw [List.filter_cons_of_neg (by simp [e]), ih]
      by_cases k : b = a
      · simp [k]
      · simp [k, e, Ne.symm k]
    · rw [List.filter_cons_of_pos (by simp [e])]
      by_cases k : c.1 = b
      · have : b ≠ a := fun h => e (k.trans h)
        simp [k, this]
      · simp [k, ih]

/-- A byte read after a byte written. -/
theorem cellGet_cellSet (l : List Host.Cell) (a : Nat) (x : Byte) (b : Nat) : cellGet (cellSet l a x) b = if b = a then x else cellGet l b := by
  unfold cellSet cellGet
  by_cases hx : x = 0
  · rw [if_pos hx, filter_find]
    by_cases k : b = a
    · rw [if_pos k, if_pos k, hx]
    · rw [if_neg k, if_neg k]
  · rw [if_neg hx, cellInsert_find _ _ _ _ (by simp), filter_find]
    by_cases k : b = a
    · rw [if_pos k, if_pos k]
    · rw [if_neg k, if_neg k, if_neg k]

theorem risingInsert_any (l : List Nat) (a b : Nat) : risingMem (risingInsert l a) b = (decide (b = a) || risingMem l b) := by
  induction l with
  | nil => simp [risingInsert, risingMem, eq_comm, Bool.beq_eq_decide_eq]
  | cons c l ih =>
    unfold risingInsert
    split
    · simp [risingMem, eq_comm, Bool.beq_eq_decide_eq]
    · simp only [risingMem, List.any_cons] at ih ⊢
      rw [ih]
      cases (c == b) <;> simp

theorem risingMem_add (l : List Nat) (a b : Nat) : risingMem (risingAdd l a) b = (decide (b = a) || risingMem l b) := by
  unfold risingAdd
  split
  · rename_i h
    by_cases k : b = a
    · subst k; simp [h]
    · simp [k]
  · exact risingInsert_any l a b

theorem risingMem_del (l : List Nat) (a b : Nat) : risingMem (risingDel l a) b = (decide (b ≠ a) && risingMem l b) := by
  unfold risingDel risingMem
  rw [List.any_filter]
  by_cases k : b = a
  · subst k
    simp only [ne_eq, not_true, decide_false, Bool.false_and]
    rw [List.any_eq_false]
    intro x _
    simp
  · simp only [ne_eq, k, not_false_eq_true, decide_true, Bool.true_and]
    congr 1
    funext x
    by_cases e : x = b
    · subst e; simp [k]
    · simp [e]

/-! ### Reading after writing -/

@[simp] theorem Memory.byte_setByte (m : Memory) (a : Nat) (x : Byte) (b : Nat) : (m.setByte a x).byte b = if b = a then x else m.byte b :=
  cellGet_cellSet m.bytes a x b

theorem Memory.setBytes_sets (m : Memory) (a : Nat) (l : List Byte) : (m.setBytes a l).empties = m.empties ∧ (m.setBytes a l).poison = m.poison := by
  induction l generalizing m a with
  | nil => exact ⟨rfl, rfl⟩
  | cons x l ih => exact ih (m.setByte a x) (a + 1)

/-- A write of bytes reaches exactly its bytes. -/
theorem Memory.byte_setBytes (m : Memory) (a : Nat) (l : List Byte) (b : Nat) :
    (m.setBytes a l).byte b = if a ≤ b ∧ b < a + l.length then l.getD (b - a) 0 else m.byte b := by
  induction l generalizing m a with
  | nil =>
    have h : ¬ (a ≤ b ∧ b < a + ([] : List Byte).length) := by simp only [List.length_nil]; omega
    rw [if_neg h]; rfl
  | cons x l ih =>
    show ((m.setByte a x).setBytes (a + 1) l).byte b = _
    rw [ih, Memory.byte_setByte, List.length_cons]
    by_cases h1 : b = a
    · subst h1
      rw [if_neg (by omega), if_pos rfl, if_pos (by omega), Nat.sub_self]; rfl
    · by_cases h2 : a + 1 ≤ b ∧ b < a + 1 + l.length
      · rw [if_pos h2, if_pos (by omega), show b - a = (b - (a + 1)) + 1 from by omega]; rfl
      · rw [if_neg h2, if_neg h1, if_neg (by omega)]

theorem Memory.byte_setFull (m : Memory) (a : Nat) (f : Bool) (b : Nat) : (m.setFull a f).byte b = m.byte b := rfl

/-- A full/empty bit read after one is set. -/
theorem Memory.full_setFull (m : Memory) (a : Nat) (f : Bool) (b : Nat) : (m.setFull a f).full b = if b / 8 = a / 8 then f else m.full b := by
  unfold Memory.full Memory.setFull
  cases f
  · simp only [Bool.false_eq_true, if_false, risingMem_add]
    by_cases h : b / 8 = a / 8 <;> simp [h]
  · simp only [if_true, risingMem_del]
    by_cases h : b / 8 = a / 8 <;> simp [h]

theorem Memory.byte_addPoison (m : Memory) (u a n b : Nat) : (m.addPoison u a n).byte b = m.byte b := by unfold Memory.addPoison; split <;> rfl

theorem Memory.byte_clearPoison (m : Memory) (u a n b : Nat) : (m.clearPoison u a n).byte b = m.byte b := rfl

/-- A store reaches exactly its bytes, and no full/empty bit (R168). -/
theorem Memory.byte_store (m : Memory) (u a : Nat) (l : List Byte) (p : Bool) (b : Nat) :
    (m.store u a l p).byte b = if a ≤ b ∧ b < a + l.length then l.getD (b - a) 0 else m.byte b := by
  unfold Memory.store
  dsimp only
  split
  · rw [Memory.byte_addPoison, Memory.byte_setBytes]
  · rw [Memory.byte_clearPoison, Memory.byte_setBytes]

theorem Memory.full_store (m : Memory) (u a : Nat) (l : List Byte) (p : Bool) (b : Nat) : (m.store u a l p).full b = m.full b := by
  unfold Memory.store Memory.full
  dsimp only
  split
  · unfold Memory.addPoison; split <;> simp [(m.setBytes_sets a l).1]
  · simp [Memory.clearPoison, (m.setBytes_sets a l).1]

/-! ### The canonical form -/

theorem cellsWf_iff (l : List Host.Cell) : cellsWf l = true ↔ l.Pairwise (fun a b => a.1 < b.1) ∧ ∀ c ∈ l, c.2 ≠ 0 := by
  unfold cellsWf; simp

theorem risingWf_iff (l : List Nat) : risingWf l = true ↔ l.Pairwise (· < ·) := by unfold risingWf; simp

theorem Memory.wf_iff (m : Memory) : m.wf = true ↔ cellsWf m.bytes = true ∧ risingWf m.empties = true ∧ risingWf m.poison = true := by
  unfold Memory.wf; simp [and_assoc]

theorem cellInsert_mem (l : List Host.Cell) (a : Nat) (x : Byte) (c : Host.Cell) : c ∈ cellInsert l a x ↔ c = (a, x) ∨ c ∈ l := by
  induction l with
  | nil => simp [cellInsert]
  | cons d l ih =>
    unfold cellInsert
    split
    · simp
    · simp only [List.mem_cons, ih]
      constructor
      · rintro (h | h | h) <;> simp [h]
      · rintro (h | h | h) <;> simp [h]

theorem cellInsert_pairwise (l : List Host.Cell) (a : Nat) (x : Byte) (h : l.Pairwise (fun c d => c.1 < d.1)) (ha : ∀ c ∈ l, c.1 ≠ a) :
    (cellInsert l a x).Pairwise (fun c d => c.1 < d.1) := by
  induction l with
  | nil => simp [cellInsert]
  | cons d l ih =>
    obtain ⟨h1, h2⟩ := List.pairwise_cons.mp h
    have hd := ha d (by simp)
    unfold cellInsert
    split
    · rename_i hlt
      refine List.pairwise_cons.mpr ⟨?_, h⟩
      intro c hc
      rcases List.mem_cons.mp hc with rfl | hc
      · exact hlt
      · exact Nat.lt_trans hlt (h1 c hc)
    · rename_i hge
      refine List.pairwise_cons.mpr ⟨?_, ih h2 (fun c hc => ha c (by simp [hc]))⟩
      intro c hc
      rcases (cellInsert_mem l a x c).mp hc with rfl | hc
      · show d.1 < a; omega
      · exact h1 c hc

theorem cellSet_wf (l : List Host.Cell) (a : Nat) (x : Byte) (h : cellsWf l = true) : cellsWf (cellSet l a x) = true := by
  rw [cellsWf_iff] at h ⊢
  have hf : (l.filter (fun c => c.1 != a)).Pairwise (fun c d => c.1 < d.1) ∧ ∀ c ∈ l.filter (fun c => c.1 != a), c.2 ≠ 0 :=
    ⟨h.1.filter _, fun c hc => h.2 c ((List.mem_filter.mp hc).1)⟩
  unfold cellSet
  split
  · exact hf
  · refine ⟨cellInsert_pairwise _ a x hf.1 (by simp), ?_⟩
    intro c hc
    rcases (cellInsert_mem _ a x c).mp hc with rfl | hc
    · assumption
    · exact hf.2 c hc

theorem risingInsert_mem (l : List Nat) (a c : Nat) : c ∈ risingInsert l a ↔ c = a ∨ c ∈ l := by
  induction l with
  | nil => simp [risingInsert]
  | cons d l ih =>
    unfold risingInsert
    split
    · simp
    · simp only [List.mem_cons, ih]
      constructor
      · rintro (h | h | h) <;> simp [h]
      · rintro (h | h | h) <;> simp [h]

theorem risingAdd_wf (l : List Nat) (a : Nat) (h : risingWf l = true) : risingWf (risingAdd l a) = true := by
  rw [risingWf_iff] at h ⊢
  unfold risingAdd
  split
  · exact h
  · rename_i hm
    have ha : ∀ c ∈ l, c ≠ a := by
      intro c hc e
      exact hm (by unfold risingMem; rw [List.any_eq_true]; exact ⟨c, hc, by simp [e]⟩)
    clear hm
    induction l with
    | nil => simp [risingInsert]
    | cons d l ih =>
      obtain ⟨h1, h2⟩ := List.pairwise_cons.mp h
      have hd := ha d (by simp)
      unfold risingInsert
      split
      · rename_i hlt
        refine List.pairwise_cons.mpr ⟨?_, h⟩
        intro c hc
        rcases List.mem_cons.mp hc with rfl | hc
        · exact hlt
        · exact Nat.lt_trans hlt (h1 c hc)
      · refine List.pairwise_cons.mpr ⟨?_, ih h2 (fun c hc => ha c (by simp [hc]))⟩
        intro c hc
        rcases (risingInsert_mem l a c).mp hc with rfl | hc
        · omega
        · exact h1 c hc

theorem risingDel_wf (l : List Nat) (a : Nat) (h : risingWf l = true) : risingWf (risingDel l a) = true := by
  rw [risingWf_iff] at h ⊢
  exact h.filter _

theorem Memory.blank_wf : Memory.blank.wf = true := by decide

theorem Memory.setByte_wf {m : Memory} (a : Nat) (x : Byte) (h : m.wf = true) : (m.setByte a x).wf = true := by
  rw [Memory.wf_iff] at h ⊢
  exact ⟨cellSet_wf _ _ _ h.1, h.2⟩

theorem Memory.setBytes_wf {m : Memory} (a : Nat) (l : List Byte) (h : m.wf = true) : (m.setBytes a l).wf = true := by
  induction l generalizing m a with
  | nil => exact h
  | cons x l ih => exact ih (a + 1) (Memory.setByte_wf a x h)

theorem Memory.setNum_wf {m : Memory} (a n x : Nat) (h : m.wf = true) : (m.setNum a n x).wf = true := Memory.setBytes_wf _ _ h

theorem Memory.setFull_wf {m : Memory} (a : Nat) (f : Bool) (h : m.wf = true) : (m.setFull a f).wf = true := by
  rw [Memory.wf_iff] at h ⊢
  refine ⟨h.1, ?_, h.2.2⟩
  unfold Memory.setFull
  cases f
  · exact risingAdd_wf _ _ h.2.1
  · exact risingDel_wf _ _ h.2.1

theorem foldl_wf {f : List Nat → Nat → List Nat} (hf : ∀ l a, risingWf l = true → risingWf (f l a) = true) (xs l : List Nat)
    (h : risingWf l = true) : risingWf (xs.foldl f l) = true := by
  induction xs generalizing l with
  | nil => exact h
  | cons x xs ih => exact ih _ (hf _ _ h)

theorem Memory.addPoison_wf {m : Memory} (u a n : Nat) (h : m.wf = true) : (m.addPoison u a n).wf = true := by
  unfold Memory.addPoison
  split
  · exact h
  · rw [Memory.wf_iff] at h ⊢
    exact ⟨h.1, h.2.1, foldl_wf (fun l a => risingAdd_wf l a) _ _ h.2.2⟩

theorem Memory.clearPoison_wf {m : Memory} (u a n : Nat) (h : m.wf = true) : (m.clearPoison u a n).wf = true := by
  rw [Memory.wf_iff] at h ⊢
  exact ⟨h.1, h.2.1, foldl_wf (fun l a => risingDel_wf l a) _ _ h.2.2⟩

theorem Memory.store_wf {m : Memory} (u a : Nat) (l : List Byte) (p : Bool) (h : m.wf = true) : (m.store u a l p).wf = true := by
  unfold Memory.store
  dsimp only
  split
  · exact Memory.addPoison_wf _ _ _ (Memory.setBytes_wf a l h)
  · exact Memory.clearPoison_wf _ _ _ (Memory.setBytes_wf a l h)

theorem Memory.eraseSpan_wf {m : Memory} (u a n : Nat) (h : m.wf = true) : (m.eraseSpan u a n).wf = true := by
  rw [Memory.wf_iff, cellsWf_iff, risingWf_iff, risingWf_iff] at h ⊢
  exact ⟨⟨h.1.1.filter _, fun c hc => h.1.2 c ((List.mem_filter.mp hc).1)⟩, h.2.1.filter _, h.2.2.filter _⟩

theorem Memory.copySpan_wf {d m : Memory} (a n b v : Nat) (h : d.wf = true) : (d.copySpan m a n b v).wf = true := by
  unfold Memory.copySpan
  dsimp only
  have h1 : ∀ (cs : List Host.Cell) (d : Memory), d.wf = true → (cs.foldr (fun c (d : Memory) => d.setByte (c.1 - a + b) c.2) d).wf = true := by
    intro cs
    induction cs with
    | nil => intro d h; exact h
    | cons c cs ih => intro d h; exact Memory.setByte_wf _ _ (ih d h)
  have h2 : ∀ (ws : List Nat) (d : Memory), d.wf = true → (ws.foldl (fun (d : Memory) w => d.setFull (8 * w - a + b) false) d).wf = true := by
    intro ws
    induction ws with
    | nil => intro d h; exact h
    | cons w ws ih => intro d h; exact ih _ (Memory.setFull_wf _ _ h)
  exact h2 _ _ (h1 _ _ (Memory.eraseSpan_wf v b n h))

theorem Memory.movePart_wf {d m : Memory} (a n : Nat) (h : d.wf = true) : (d.movePart m a n).wf = true := by
  unfold Memory.movePart
  dsimp only
  have h2 : ∀ (us : List Nat) (d : Memory), d.wf = true → (us.foldl (fun (d : Memory) u => { d with poison := risingAdd d.poison u }) d).wf = true := by
    intro us
    induction us with
    | nil => intro d h; exact h
    | cons u us ih =>
      intro d h
      refine ih _ ?_
      rw [Memory.wf_iff] at h ⊢
      exact ⟨h.1, h.2.1, risingAdd_wf _ _ h.2.2⟩
  exact h2 _ _ (Memory.copySpan_wf a n a 8 h)

theorem Memory.storeUnits_wf {m : Memory} (a : Nat) (l : List (Nat × Bool)) (h : m.wf = true) : (m.storeUnits a l).wf = true := by
  induction l generalizing m a with
  | nil => exact h
  | cons x l ih => exact ih (a + 8) (Memory.store_wf 8 a _ _ h)

end Sys2Proof.Machine
end

