-- ==== Sys2Proof/Laws/Shadow.lean ====
section
/-! SUPPORT. What keeping shadows with their primaries may change: the shadows and the groups they have still to execute, and nothing else. -/

namespace Sys2Proof.Machine

/-- Nothing of a group but its shadows and their trail differs. -/
abbrev OnlyShadows (g h : Group) : Prop := { h with shadows := g.shadows, trail := g.trail } = g

theorem OnlyShadows.trans {g h k : Group} (a : OnlyShadows g h) (b : OnlyShadows h k) : OnlyShadows g k := by
  unfold OnlyShadows at *
  rw [← a, ← b]

theorem foldl_only {f : Group → Nat → Group} (h : ∀ g i, OnlyShadows g (f g i)) : ∀ (l : List Nat) (g : Group), OnlyShadows g (l.foldl f g)
  | [], _ => rfl
  | i :: l, g => (h g i).trans (foldl_only h l (f g i))

theorem followSlice_only (before g : Group) (i : Nat) : OnlyShadows g (Group.followSlice before g i) := by
  unfold Group.followSlice
  split
  · rfl
  · split <;> rfl

/-- What happens to a pair when its primary is taken from its path moves no primary. -/
theorem followFrom_only (before g : Group) : OnlyShadows g (Group.followFrom before g) := by
  unfold Group.followFrom
  split
  · rfl
  · exact foldl_only (followSlice_only before) _ g

/-- The end of a step moves no primary. -/
theorem follow_only (before g : Group) : OnlyShadows g (Group.follow before g) := by
  unfold Group.follow
  split
  · rfl
  · exact (followFrom_only before g).trans rfl

@[simp] theorem followFrom_slices (before g : Group) : (Group.followFrom before g).slices = g.slices := by
  have h := congrArg Group.slices (followFrom_only before g)
  exact h

@[simp] theorem follow_slices (before g : Group) : (Group.follow before g).slices = g.slices := by
  have h := congrArg Group.slices (follow_only before g)
  exact h

@[simp] theorem followFrom_dies (s before : State) : (State.followFrom s before).dies = s.dies := rfl

@[simp] theorem followFrom_mem (s before : State) : (State.followFrom s before).mem = s.mem := rfl

@[simp] theorem followFrom_units (s before : State) : (State.followFrom s before).units = s.units := rfl

@[simp] theorem followShadows_dies (s before : State) : (State.followShadows s before).dies = s.dies := rfl

@[simp] theorem followShadows_mem (s before : State) : (State.followShadows s before).mem = s.mem := rfl

@[simp] theorem followShadows_units (s before : State) : (State.followShadows s before).units = s.units := rfl

end Sys2Proof.Machine
end

