-- ==== Sys2Proof/Laws/Work.lean ====
section
/-! SUPPORT. The number that a unit gets when it starts is its own (R37). -/
namespace Sys2Proof.Machine

/-- A list without repeats whose members all stand in another list is no longer than it. -/
theorem length_le_of_nodup_mem : ∀ (l u : List Nat), l.Nodup → (∀ x ∈ l, x ∈ u) → l.length ≤ u.length
  | [], _, _, _ => Nat.zero_le _
  | a :: l, u, hn, hm => by
    have hn := List.nodup_cons.1 hn
    have ha : a ∈ u := hm a (by simp)
    have := length_le_of_nodup_mem l (u.erase a) hn.2 (fun x hx => (List.mem_erase_of_ne (by rintro rfl; exact hn.1 hx)).2 (hm x (by simp [hx])))
    have := List.length_erase_of_mem ha
    have := List.length_pos_of_mem ha
    simp only [List.length_cons]
    omega

/-- R37: a fresh unit number is a number of 32 bits, not 0, that no unit of the partition has. -/
theorem State.freeUnitId_spec (s : State) (part : Nat) : 0 < s.freeUnitId part ∧ s.freeUnitId part < 2 ^ 32 ∧
    (s.units.length < 2 ^ 32 - 1 → ∀ v ∈ s.units, v.part = part → v.unitId ≠ s.freeUnitId part) := by
  unfold State.freeUnitId
  generalize hx : (Config.openValue s.fresh 0).toNat = x
  generalize hu : (s.units.filter (fun u => u.part == part)).map (fun u => u.unitId) = used
  simp only
  cases hf : ((List.range (used.length + 1)).map (fun k => (x + k) % (2 ^ 32 - 1) + 1)).find? (fun n => !used.contains n) with
  | some n =>
    obtain ⟨k, -, rfl⟩ := List.mem_map.1 (List.mem_of_find?_eq_some hf)
    have hp := List.find?_some hf
    refine ⟨by simp, by simp only [Option.getD_some]; omega, fun _ v hv hp' => ?_⟩
    rintro he
    have : v.unitId ∈ used := hu ▸ List.mem_map.2 ⟨v, List.mem_filter.2 ⟨hv, by simp [hp']⟩, rfl⟩
    simp_all
  | none =>
    refine ⟨by simp, by simp, fun hl => ?_⟩
    exfalso
    have hlen : used.length ≤ s.units.length := by
      rw [← hu, List.length_map]; exact List.length_filter_le ..
    have h := length_le_of_nodup_mem _ used ?_ (fun y hy => by simpa using List.find?_eq_none.1 hf y hy)
    · simp only [List.length_map, List.length_range] at h; omega
    · refine List.pairwise_map.2 (List.Pairwise.imp_of_mem (R := (· < ·)) ?_ List.pairwise_lt_range)
      intro a b ha hb hab
      have := List.mem_range.1 hb
      omega

end Sys2Proof.Machine
end

