-- ==== Sys2Proof/Tests/Slice0.lean ====
section
/-! SUPPORT. Tests of the model against the spec, and a witness for the hypotheses of each statement. -/

namespace Sys2Proof.Tests

open Sys2Proof Sys2Proof.Machine

set_option Elab.async false


/-! ### Decoding (R39, R43, R45, R50, R58) -/

/-- A wide instruction laid out as R45 says, each field with a value of its own. -/
def wideWords (op : BitVec 8) : List Word :=
  [((0xA6#8).extractLsb' 0 2 ++ 0x11#8 ++ 0x22#8 ++ 1#1 ++ 5#3 ++ op ++ 1#2), (0x2345#14 ++ 1#1 ++ 0#1 ++ 1#1 ++ 0#1 ++ 0x33#8 ++ (0xA6#8).extractLsb' 2 6)]

/-- The fields of `wideWords`. -/
def wideValue : WForm := ⟨0x2345, true, false, true, false, 0x33, 0xA6, 0x11, 0x22, true, 5⟩

/-- A compact instruction laid out as R43 says. -/
def compactWords (op : BitVec 8) : List Word := [(0x2A#6 ++ 0x11#8 ++ 0x22#8 ++ op ++ 0#2)]

/-- Whether words decode to just one instruction. -/
def decodesTo (ws : List Word) (i : Instr) : Bool :=
  match decodeWords ws with
  | .ok (j, []) => decide (j = i)
  | _ => false

theorem test_decode_00 : ([(0x00, .nop), (0x01, .mov), (0x02, .sel), (0x03, .iadd), (0x04, .isub), (0x05, .imul), (0x06, .imulh), (0x07, .imad), (0x08, .idiv), (0x09,
    .irem), (0x0A, .imin), (0x0B, .imax), (0x0C, .iabs), (0x0D, .icmp), (0x0E, .and), (0x0F, .or)] :
    List (BitVec 8 × (List Prefix → WForm → Instr))).all (fun x => decodesTo (wideWords x.1) (x.2 [] wideValue)) = true := by decide +kernel

theorem test_decode_10 : ([(0x10, .xor), (0x11, .not), (0x12, .shl), (0x13, .shr), (0x14, .sar), (0x15, .rot), (0x16, .bfx), (0x17, .bfi), (0x18, .popc), (0x19, .clz),
    (0x1A, .brev), (0x1B, .lea), (0x1C, .lxch), (0x1D, .poll), (0x1E, .gfold), (0x1F, .bperm)] :
    List (BitVec 8 × (List Prefix → WForm → Instr))).all (fun x => decodesTo (wideWords x.1) (x.2 [] wideValue)) = true := by decide +kernel

theorem test_decode_20 : ([(0x20, .fadd), (0x21, .fsub), (0x22, .fmul), (0x23, .ffma), (0x24, .fmin), (0x25, .fmax), (0x26, .fdiv), (0x27, .fsqrt), (0x28, .frcp), (0x29,
    .frsq), (0x2A, .fexp2), (0x2B, .flog2), (0x2C, .fsin), (0x2D, .fcos), (0x2E, .fcmp), (0x2F, .fclass)] :
    List (BitVec 8 × (List Prefix → WForm → Instr))).all (fun x => decodesTo (wideWords x.1) (x.2 [] wideValue)) = true := by decide +kernel

theorem test_decode_30 : ([(0x30, .cvt), (0x31, .cvtn), (0x32, .packbx), (0x33, .unpkbx), (0x34, .frnd), (0x35, .fscale), (0x36, .fdot2), (0x37, .fdot4), (0x38, .idot4),
    (0x39, .rsplit), (0x3A, .rnext), (0x3B, .runif), (0x3C, .iaddx)] :
    List (BitVec 8 × (List Prefix → WForm → Instr))).all (fun x => decodesTo (wideWords x.1) (x.2 [] wideValue)) = true := by decide +kernel

theorem test_decode_40 : ([(0x40, .bra), (0x41, .brx), (0x42, .cbr), (0x43, .call), (0x44, .ret), (0x45, .split), (0x46, .join), (0x47, .loop), (0x48, .part), (0x49,
    .regang), (0x4A, .elect), (0x4B, .exit), (0x4C, .trap), (0x4D, .bkpt), (0x4E, .srd), (0x4F, .swr)] :
    List (BitVec 8 × (List Prefix → WForm → Instr))).all (fun x => decodesTo (wideWords x.1) (x.2 [] wideValue)) = true := by decide +kernel

theorem test_decode_50 : ([(0x50, .setfmt), (0x51, .region), (0x52, .yield), (0x53, .lease), (0x54, .leaseq)] :
    List (BitVec 8 × (List Prefix → WForm → Instr))).all (fun x => decodesTo (wideWords x.1) (x.2 [] wideValue)) = true := by decide +kernel

theorem test_decode_60 : ([(0x60, .ld), (0x61, .st), (0x62, .ldw), (0x63, .ldc), (0x64, .stf), (0x65, .feq), (0x66, .feset), (0x67, .bwin), (0x68, .bwrel), (0x69,
    .pref), (0x6A, .fence), (0x6B, .lds)] :
    List (BitVec 8 × (List Prefix → WForm → Instr))).all (fun x => decodesTo (wideWords x.1) (x.2 [] wideValue)) = true := by decide +kernel

theorem test_decode_70 : ([(0x70, .cpy), (0x71, .cpyg), (0x72, .cpyr), (0x73, .cseal), (0x74, .cwait), (0x75, .qinit), (0x76, .qpush), (0x77, .qpop), (0x78, .qpeek),
    (0x79, .binit), (0x7A, .bexp), (0x7B, .barv), (0x7C, .bwait), (0x7D, .gsync), (0x7E, .sppin), (0x7F, .spunp)] :
    List (BitVec 8 × (List Prefix → WForm → Instr))).all (fun x => decodesTo (wideWords x.1) (x.2 [] wideValue)) = true := by decide +kernel

theorem test_decode_80 : ([(0x80, .mcast), (0x81, .hbar)] :
    List (BitVec 8 × (List Prefix → WForm → Instr))).all (fun x => decodesTo (wideWords x.1) (x.2 [] wideValue)) = true := by decide +kernel

theorem test_decode_90 : ([(0x90, .mlay), (0x91, .mldb), (0x92, .mlda), (0x93, .mzero), (0x94, .mma), (0x95, .mmam), (0x96, .mmask), (0x97, .mst), (0x98, .mldc), (0x99,
    .mtrans), (0x9A, .mgather), (0x9B, .mbatch), (0x9C, .mwait), (0x9D, .stc), (0x9E, .maccr)] :
    List (BitVec 8 × (List Prefix → WForm → Instr))).all (fun x => decodesTo (wideWords x.1) (x.2 [] wideValue)) = true := by decide +kernel

theorem test_decode_B0 : ([(0xB0, .mncpl), (0xB1, .mnbias), (0xB2, .mnclamp), (0xB3, .mnfree), (0xB4, .mnbeta), (0xB5, .mnmode), (0xB6, .mnsweep), (0xB7, .mnpick),
    (0xB8, .mnread), (0xB9, .mnstate), (0xBA, .mnwait), (0xBB, .mnreset)] :
    List (BitVec 8 × (List Prefix → WForm → Instr))).all (fun x => decodesTo (wideWords x.1) (x.2 [] wideValue)) = true := by decide +kernel

theorem test_decode_C0 : ([(0xC0, .atom), (0xC1, .atomr), (0xC2, .atomp), (0xC3, .bfins), (0xC4, .bffcs), (0xC5, .bfpls), (0xC6, .txb), (0xC7, .txc), (0xC8, .txa),
    (0xC9, .atomw)] :
    List (BitVec 8 × (List Prefix → WForm → Instr))).all (fun x => decodesTo (wideWords x.1) (x.2 [] wideValue)) = true := by decide +kernel

theorem test_decode_D0 : ([(0xD0, .spawn), (0xD1, .jdec), (0xD2, .jwait), (0xD3, .launch), (0xD4, .cancel), (0xD5, .tdone), (0xD6, .twait), (0xD7, .prio)] :
    List (BitVec 8 × (List Prefix → WForm → Instr))).all (fun x => decodesTo (wideWords x.1) (x.2 [] wideValue)) = true := by decide +kernel

theorem test_decode_E0 : ([(0xE0, .puts), (0xE1, .getr), (0xE2, .sigw)] :
    List (BitVec 8 × (List Prefix → WForm → Instr))).all (fun x => decodesTo (wideWords x.1) (x.2 [] wideValue)) = true := by decide +kernel

theorem test_decode_compact : ([(0x00, .nopC), (0x01, .movC), (0x03, .iaddC), (0x04, .isubC), (0x05, .imulC), (0x0A, .iminC), (0x0B, .imaxC), (0x0E, .andC), (0x0F,
    .orC), (0x10, .xorC), (0x11, .notC), (0x12, .shlC), (0x13, .shrC), (0x14, .sarC), (0x20, .faddC), (0x21, .fsubC), (0x22, .fmulC), (0x24, .fminC), (0x25, .fmaxC),
    (0x46, .joinC), (0x4B, .exitC), (0x52, .yieldC), (0x7D, .gsyncC)] :
    List (BitVec 8 × (List Prefix → CForm → Instr))).all (fun x => decodesTo (compactWords x.1) (x.2 [] ⟨0x2A, 0x11, 0x22⟩)) = true := by decide +kernel

theorem test_decode_unassigned : ([0x3D, 0x3E, 0x3F, 0x55, 0x56, 0x57, 0x58, 0x59, 0x5A, 0x5B, 0x5C, 0x5D, 0x5E, 0x5F, 0x6C, 0x6D, 0x6E, 0x6F, 0x82, 0x83, 0x84, 0x85,
    0x86, 0x87, 0x88, 0x89, 0x8A, 0x8B, 0x8C, 0x8D, 0x8E, 0x8F, 0x9F, 0xA0, 0xA1, 0xA2, 0xA3, 0xA4, 0xA5, 0xA6, 0xA7, 0xA8, 0xA9, 0xAA, 0xAB, 0xAC, 0xAD, 0xAE, 0xAF,
    0xBC, 0xBD, 0xBE, 0xBF, 0xCA, 0xCB, 0xCC, 0xCD, 0xCE, 0xCF, 0xD8, 0xD9, 0xDA, 0xDB, 0xDC, 0xDD, 0xDE, 0xDF, 0xE3, 0xE4, 0xE5, 0xE6, 0xE7, 0xE8, 0xE9, 0xEA, 0xEB,
    0xEC, 0xED, 0xEE, 0xEF, 0xF0, 0xF1, 0xF2, 0xF3, 0xF4, 0xF5, 0xF6, 0xF7, 0xF8, 0xF9, 0xFA, 0xFB, 0xFC, 0xFD, 0xFE, 0xFF] : List (BitVec 8)).all (fun op =>
    decodesTo (wideWords op) (.illegalInstructionGroup ⟨[], true,
    (0x2345#14 ++ 1#1 ++ 0#1 ++ 1#1 ++ 0#1 ++ 0x33#8 ++ (0xA6#8) ++ 0x11#8 ++ 0x22#8 ++ 1#1 ++ 5#3 ++ op ++ 1#2)⟩)) = true := by decide +kernel

theorem test_decode_not_compact : ((List.range 256).map (BitVec.ofNat 8)).all (fun op => ([0x00#8, 0x01#8, 0x03#8, 0x04#8, 0x05#8, 0x0A#8, 0x0B#8, 0x0E#8, 0x0F#8,
    0x10#8, 0x11#8, 0x12#8, 0x13#8, 0x14#8, 0x20#8, 0x21#8, 0x22#8, 0x24#8, 0x25#8, 0x46#8, 0x4B#8, 0x52#8, 0x7D#8].contains op) ||
    decodesTo (compactWords op) (.illegalInstructionGroup ⟨[], false, (0#32 ++ 0x2A#6 ++ 0x11#8 ++ 0x22#8 ++ op ++ 0#2)⟩)) = true := by decide +kernel

/-- The examples of the spec: `?!m2 fadd.nf v5, v4!, s3`; `iadd v2, v2, -1`; `cvtn.f16.f32.pk.ovf=sat v8, v2, v3` (R118); `icmp.lt m3, v2, v7` (R104); `split m1, other, done` (R131); `ldc.b64.scope=die.acq v4, [w1+v2*8]` (R176). -/
theorem test_decode_examples :
    decodesTo [0xC1016881, 0x00024020] (.fadd [] ⟨0, true, false, false, true, 0, 0x83, 0x04, 0x05, true, 2⟩) = true ∧
    decodesTo [0xFC08080C] (.iaddC [] ⟨0x3F, 0x02, 0x02⟩) = true ∧
    decodesTo [0x00000006, 0xC08200C5, 0x06280000] (.cvtn [⟨.ovf, 0⟩] ⟨0x018A, false, false, false, false, 0, 0x03, 0x02, 0x08, false, 0⟩) = true ∧
    decodesTo [0xC0800035, 0x01A00001] (.icmp [] ⟨0x0068, false, false, false, false, 0, 0x07, 0x02, 0x00, false, 0⟩) = true ∧
    decodesTo [0x80010115, 0x00040001] (.split [] ⟨1, false, false, false, false, 0, 0x06, 0x00, 0x04, false, 0⟩) = true ∧
    decodesTo [0x0000016E, 0x8041018D, 0x005C0000] (.ldc [⟨.scp, 11⟩] ⟨0x0017, false, false, false, false, 0, 0x02, 0x01, 0x04, false, 0⟩) = true := by decide +kernel

/-- The prefix kinds of R50, each with its value field, and a word after them. -/
theorem test_decode_prefixes :
    decodesTo [(0x1234567#27 ++ 0#3 ++ 2#2), 0] (.nopC [⟨.rnd, 0x1234567⟩] ⟨0, 0, 0⟩) = true ∧
    decodesTo [(0x1234567#27 ++ 1#3 ++ 2#2), 0] (.nopC [⟨.ovf, 0x1234567⟩] ⟨0, 0, 0⟩) = true ∧
    decodesTo [(0x1234567#27 ++ 2#3 ++ 2#2), 0] (.nopC [⟨.xi, 0x1234567⟩] ⟨0, 0, 0⟩) = true ∧
    decodesTo [(0x1234567#27 ++ 3#3 ++ 2#2), 0] (.nopC [⟨.scp, 0x1234567⟩] ⟨0, 0, 0⟩) = true ∧
    decodesTo [(0x1234567#27 ++ 4#3 ++ 2#2), 0] (.nopC [⟨.spc, 0x1234567⟩] ⟨0, 0, 0⟩) = true ∧
    decodesTo [(0x1234567#27 ++ 5#3 ++ 2#2), 0] (.illegalInstructionGroup ⟨[(0x1234567#27 ++ 5#3 ++ 2#2)], false, 0⟩) = true := by decide +kernel

/-! ### Well-formed terms -/

/-- A raw group whose prefix is none, whose last word is a prefix, whose width does not fit its kind, whose upper word is not zero, or whose words are an instruction. -/
theorem test_wf_raw_groups : ([⟨[0#32], false, 3#64⟩, ⟨[], false, 2#64⟩, ⟨[], false, 1#64⟩, ⟨[], true, 3#64⟩, ⟨[], false, (1#32 ++ 3#32)⟩, ⟨[], true, 5#64⟩, ⟨[], false, 4#64⟩, ⟨[2#32], true, 1#64⟩] :
    List RawGroup).all (fun g => !(Instr.illegalInstructionGroup g).wellFormed) = true ∧
    ([⟨[], false, 3#64⟩, ⟨[2#32], true, (0xFF#62 ++ 1#2)⟩, ⟨[(5#30 ++ 2#2)], false, 4#64⟩] : List RawGroup).all (fun g => (Instr.illegalInstructionGroup g).wellFormed) = true := by
  decide +kernel

/-- Region-table entries of a reserved kind, a die, port, offset, size or base beyond its field, or device memory on no stack. -/
theorem test_wf_region_entries : ([⟨3, 1, 0, 0, 0, 0, 0⟩, ⟨0, 1, 8, 0, 0, 0, 0⟩, ⟨0, 1, 0, 2, 0, 0, 0⟩, ⟨0, 1, 0, 0, 2 ^ 24, 0, 0⟩, ⟨0, 1, 0, 0, 0, 2 ^ 22, 0⟩, ⟨0, 1, 0, 0, 0, 0, 2 ^ 22⟩,
    ⟨0, 0, 0, 0, 0, 0, 0⟩] : List RegionEntry).all (fun e => !(Instr.regionTableRewrite [e]).wellFormed) = true ∧
    (Instr.regionTableRewrite (List.replicate 1025 ⟨0, 1, 0, 0, 0, 0, 0⟩)).wellFormed = false ∧
    (Instr.regionTableRewrite [⟨2, 0, 7, 1, 2 ^ 24 - 1, 2 ^ 22 - 1, 2 ^ 22 - 1⟩]).wellFormed = true := by decide +kernel

/-- Base-die requests outside their fields, or of a line that is not aligned. -/
theorem test_wf_base_requests : ([⟨16, 0, 0, 0, 0, 0, [], 0⟩, ⟨0, 0, 8, 0, 0, 0, [], 0⟩, ⟨0, 0, 0, 256, 0, 0, [], 0⟩, ⟨0, 0, 0, 0, 2 ^ 36, 0, [], 0⟩, ⟨0, 0, 0, 0, 64, 0, [], 0⟩] : List BaseRequest).all
    (fun q => !(Instr.rd q).wellFormed && !(Instr.wr q).wellFormed && !(Instr.wrm q).wellFormed) = true ∧ (Instr.rd ⟨15, 0, 7, 255, 2 ^ 36 - 128, 0, [], 0⟩).wellFormed = true ∧ (Instr.wr ⟨0, 0, 0, 0, 0, 0, [0], 0⟩).wellFormed = false := by
  decide +kernel

/-- MAP commands of a size code, an address or a frame that is none. -/
theorem test_wf_maps : ([⟨0, 8, 0, ⟨true, true, true, true⟩, false, .dev, false⟩, ⟨8, 0, 0, ⟨true, true, true, true⟩, false, .dev, false⟩, ⟨0, 0, 8, ⟨true, true, true, true⟩, false, .dev, false⟩,
    ⟨0, 0, 2 ^ 52, ⟨true, true, true, true⟩, false, .dev, false⟩] : List MapCommand).all (fun m => !(Instr.map 0 m).wellFormed) = true ∧
    (Instr.map 8 ⟨0, 0, 0, ⟨true, true, true, true⟩, false, .dev, false⟩).wellFormed = false ∧ (Instr.map 7 ⟨4096, 7, 4096, ⟨true, true, true, true⟩, false, .dev, false⟩).wellFormed = true := by
  decide +kernel

/-- Level keys outside their widths, and partitions that are none. -/
theorem test_wf_level_keys : ([⟨5, 0, 0, 0, 0⟩, ⟨0, 256, 0, 0, 0⟩, ⟨0, 0, 256, 0, 0⟩, ⟨0, 0, 0, 65536, 0⟩, ⟨0, 0, 0, 0, 2 ^ 32⟩] : List LevelKey).all
    (fun k => !(Instr.hostCancel 0 k).wellFormed && !(Instr.tokenRound 0 k).wellFormed) = true ∧ (Instr.hostCancel 8 ⟨1, 0, 0, 0, 0⟩).wellFormed = false ∧
    (Instr.tokenRound 8 ⟨1, 0, 0, 0, 0⟩).wellFormed = false ∧ (Instr.hostCancel 7 ⟨4, 255, 255, 65535, 2 ^ 32 - 1⟩).wellFormed = true := by decide +kernel

/-- Places where no error can strike. -/
theorem test_wf_error_sites : ([.memory (2 ^ 52), .scr 0 (128 * 4096), .cls 8 0 0, .cls 0 12 0, .cls 0 0 (2 ^ 20), .chp 8 0, .chp 0 (2 ^ 25), .laneStore ⟨0, 0⟩ 4 0, .laneStore ⟨0, 0⟩ 0 256,
    .register ⟨0, 0⟩ 192 0, .register ⟨0, 0⟩ 0 4, .tile ⟨8, 0⟩ 0 0 0, .tile ⟨0, 0⟩ 4 0 0, .tile ⟨0, 0⟩ 0 32 0, .tile ⟨0, 0⟩ 0 0 32, .coins ⟨0, 96⟩ 0, .coins ⟨0, 0⟩ 64, .parity (.store ⟨8, 0⟩), .parity (.walk 8 0),
    .coreShared ⟨0, 96⟩, .dieShared 8] : List ErrorSite).all (fun x => !(Instr.uncorrectableError x).wellFormed) = true ∧
    ([.memory (2 ^ 52 - 1), .register ⟨0, 0⟩ 191 3, .tile ⟨7, 95⟩ 3 31 31, .controlDie, .sliceControl ⟨0, 0⟩] : List ErrorSite).all (fun x => (Instr.uncorrectableError x).wellFormed) = true := by
  decide +kernel

/-- Events that name a core, die, cluster, port, stack, link, lane, window or slot that the device does not have. -/
theorem test_wf_events : ([.feReissue ⟨0, 0⟩ 4, .pageWalk ⟨8, 0⟩ 0 false, .windowRetranslation ⟨0, 0⟩ 8, .rdr 16 0 0, .rdr 0 0 8, .wack 16 0 0, .wack 0 0 8, .scrub 16 0,
    .scrub 0 (2 ^ 36), .copyLineLands ⟨0, 96⟩ 0 0, .copyResume ⟨0, 96⟩ 0, .matrixCommandExecute ⟨8, 0⟩, .mintCommandExecute ⟨8, 0⟩, .mintSweep ⟨8, 0⟩, .mintPickStep ⟨8, 0⟩, .clearingTimeout ⟨8, 0⟩,
    .commit 8, .leaseActivation ⟨8, 0⟩, .issueSelection ⟨0, 0⟩ 4, .issueSelection ⟨8, 0⟩ 0, .leaseWindowEnd ⟨0, 96⟩, .placement 8, .partitionCreate 2 ⟨0, 1, 1, 1⟩, .partitionCreate 0 ⟨8, 1, 1, 1⟩,
    .partitionTeardown 2 0, .partitionTeardown 0 8, .acq [3] 0, .acq [0] 16, .rel 0 16, .rel 3 0, .portLinkReset 2, .routineSlotLoad 2 0 0 [], .routineSlotLoad 0 8 0 [], .routineSlotLoad 0 0 16 [],
    .lctlWrite 8 ⟨0, 0⟩ 0, .lctlWrite 0 ⟨8, 0⟩ 0, .peerTableWrite 8 0 ⟨false, 0, 0, 0⟩, .peerTableWrite 0 256 ⟨false, 0, 0, 0⟩, .peerTableWrite 0 0 ⟨true, 4096, 0, 0⟩, .peerTableWrite 0 0 ⟨true, 0, 8, 0⟩, .registerWrite 2 0 0, .timeRefresh 8 0 0, .dieReset 8 true,
    .stepControl 8 0 0, .baseDieThermal 16 0, .linkRetrain 24, .linkBringUp 24, .ucieRetrain 36, .retrainComplete 24 true 0, .ucieRetrainEnd 36,
    .flitReceive 24 ⟨0, true, 0⟩, .controlDieReset ⟨0xFF, true, true, true, 3, [⟨3, 1, 0, 0, 0, 0, 0⟩]⟩, .illegalInstructionGroup ⟨[], false, 0⟩] : List Instr).all
      (fun i => !i.wellFormed) = true := by decide +kernel

/-! ### Small states -/

/-- The subgang of the one slice of a small state. -/
def me : Issuer := ⟨0, 0, 0⟩

/-- Its slice. -/
def mine : SliceRef := ⟨0, 0⟩

/-- A device on which one slice stands at an instruction and issues next, its group with four scratchpad pages; `f` of the fresh slice. -/
def world (f : Slice → Slice) : State :=
  (State.reset.withFetchWord 32 0).modGroup 0 (fun g => { g with pages := 4, pageState := List.replicate 4 .pinned, slices := [f (Slice.start 128 (dword programBase))] })

/-- The slice with nothing changed. -/
abbrev fresh : State := world id

/-- The slice with a register set in every lane. -/
def reg (spec : Nat) (x : Word) (sl : Slice) : Slice := sl.setLanes spec 15 (Lanes.all x)

/-- The device with one unit, whose group is the small one, running a record. -/
def withUnit (r : Record) (s : State) : State := { s with units := [⟨0, 1, 0, r, none, 0, false, 0, 1, 0, none, false, none, 0⟩] }

/-- A record of zeros. -/
def noRecord : Record := ⟨0, 0, 0, 0, 0, 0, 0, 0, 0⟩

/-- A form with every field zero but for its modifier and operands. -/
def form (mod : BitVec 14) (d a b c : BitVec 8) : WForm := ⟨mod, false, false, false, false, c, b, a, d, false, 0⟩

/-- The context of the one slice at a wide group. -/
def at_ (s : State) (op : Nat) (p : List Prefix) (w : WForm) : Ctx := ⟨Grp.of op true p w (s.issueAddr me), mine, effOf (s.slice mine) (Grp.of op true p w (s.issueAddr me)), 0⟩

/-- The wide group stands ready in its one slice. -/
abbrev Alone (s : State) (op : Nat) (p : List Prefix) (w : WForm) : Prop := Ready s me op true p w [at_ s op p w]

/-- The same as a Boolean. -/
def alone (s : State) (op : Nat) (p : List Prefix) (w : WForm) : Bool := decide (Alone s op p w)

theorem alone_ready {s : State} {op : Nat} {p : List Prefix} {w : WForm} (h : alone s op p w = true) : Alone s op p w := of_decide_eq_true h

/-! ### Every opcode can stand ready: the hypotheses of MovesCopyBits, ComparisonsWriteMasks, RandomNumbers, FloatArithmetic, FloatSelection, SpecialOperands, DotProducts, GangOperations and ExitAndSoftwareTraps, and of the plain clauses of every other statement about an instruction -/

theorem ready_00 : ∀ x ∈ ([(0x00, [], form 0 0 0 0 0), (0x01, [], form 0 0 0 0 0), (0x02, [], form 0 0 0 0 0), (0x03, [], form 0 0 0 0 0), (0x04, [], form 0 0 0 0 0),
    (0x05, [], form 0 0 0 0 0), (0x06, [], form 0 0 0 0 0), (0x07, [], form 0 0 0 0 0), (0x08, [], form 0 0 0 0 0), (0x09, [], form 0 0 0 0 0),
    (0x0A, [], form 0 0 0 0 0), (0x0B, [], form 0 0 0 0 0), (0x0C, [], form 0 0 0 0 0), (0x0D, [], form 0 0 0 0 0), (0x0E, [], form 0 0 0 0 0),
    (0x0F, [], form 0 0 0 0 0)] :
    List (Nat × List Prefix × WForm)), Alone fresh x.1 x.2.1 x.2.2 := by decide +kernel

theorem ready_10 : ∀ x ∈ ([(0x10, [], form 0 0 0 0 0), (0x11, [], form 0 0 0 0 0), (0x12, [], form 0 0 0 0 0), (0x13, [], form 0 0 0 0 0), (0x14, [], form 0 0 0 0 0),
    (0x15, [], form 0 0 0 0 0), (0x16, [], form 0 0 0 0 0), (0x17, [], form 0 0 0 0 0), (0x18, [], form 0 0 0 0 0), (0x19, [], form 0 0 0 0 0),
    (0x1A, [], form 0 0 0 0 0), (0x1B, [], form 0 0 0 0 0), (0x1C, [], form 0 0 0 0 0), (0x1D, [], form 0 0x80 0 0 0), (0x1E, [], form 0 0x80 0 0 0),
    (0x1F, [], form 0 0 0 0 0)] :
    List (Nat × List Prefix × WForm)), Alone fresh x.1 x.2.1 x.2.2 := by decide +kernel

theorem ready_20 : ∀ x ∈ ([(0x20, [], form 0 0 0 0 0), (0x21, [], form 0 0 0 0 0), (0x22, [], form 0 0 0 0 0), (0x23, [], form 0 0 0 0 0), (0x24, [], form 0 0 0 0 0),
    (0x25, [], form 0 0 0 0 0), (0x26, [], form 0 0 0 0 0), (0x27, [], form 0 0 0 0 0), (0x28, [], form 0 0 0 0 0), (0x29, [], form 0 0 0 0 0),
    (0x2A, [], form 0 0 0 0 0), (0x2B, [], form 0 0 0 0 0), (0x2C, [], form 0 0 0 0 0), (0x2D, [], form 0 0 0 0 0), (0x2E, [], form 0 0 0 0 0),
    (0x2F, [], form 0 0 0 0 0)] :
    List (Nat × List Prefix × WForm)), Alone fresh x.1 x.2.1 x.2.2 := by decide +kernel

theorem ready_30 : ∀ x ∈ ([(0x30, [], form 0 0 0 0 0), (0x31, [], form 1 0 0 0 0), (0x32, [], form 0 0 0 0 0), (0x33, [], form 0 0 0 0 0), (0x34, [], form 0 0 0 0 0),
    (0x35, [], form 0 0 0 0 0), (0x36, [], form 0 0 0 0 0), (0x37, [], form 0 0 0 0 0), (0x38, [], form 0 0 0 0 0), (0x39, [], form 0 0 0 0 0),
    (0x3A, [], form 0 0 0 0 0), (0x3B, [], form 0 0 0 0 0), (0x3C, [], form 0 0 0 0 0)] :
    List (Nat × List Prefix × WForm)), Alone fresh x.1 x.2.1 x.2.2 := by decide +kernel

theorem ready_40 : ∀ x ∈ ([(0x40, [], form 0 0 0 0 0), (0x41, [], form 0 0 0x80 0 0), (0x42, [], form 0 0 0 0 0), (0x43, [], form 0 0x80 0 0 0),
    (0x44, [], form 0 0 0x80 0 0), (0x45, [], form 0 0 0 0 0), (0x46, [], form 0 0 0 0 0), (0x47, [], form 0 0 0x80 0 0), (0x48, [], form 0 0 0 0 0),
    (0x49, [], form 0 0 0 0 0), (0x4A, [], form 0 0x80 0 0 0), (0x4B, [], form 0 0 0 0 0), (0x4C, [], form 0 0 0 0 0), (0x4D, [], form 0 0 0 0 0),
    (0x4E, [], form 0 0 0 0 0), (0x4F, [], form 0 0 0 0 0)] :
    List (Nat × List Prefix × WForm)), Alone fresh x.1 x.2.1 x.2.2 := by decide +kernel

theorem ready_50 : ∀ x ∈ ([(0x50, [], form 0 0 0 0 0), (0x51, [], form 0 0 0 0 0), (0x52, [], form 0 0 0 0 0), (0x53, [], form 0 0 0x80 0 0),
    (0x54, [], form 0 0x80 0 0 0)] :
    List (Nat × List Prefix × WForm)), Alone fresh x.1 x.2.1 x.2.2 := by decide +kernel

theorem ready_60 : ∀ x ∈ ([(0x60, [], form 0 0 0x80 0 0), (0x61, [], form 0 0 0x80 0 0), (0x62, [], form 0 0 0x80 0 0), (0x63, [], form 0 0 0x80 0 0),
    (0x64, [], form 0 0 0x80 0 0), (0x65, [], form 0 0 0x80 0 0), (0x66, [], form 0 0 0x80 0 0), (0x67, [], form 0 0 0x80 0 0), (0x68, [], form 0 0 0 0 0),
    (0x69, [], form 0 0 0x80 0 0), (0x6A, [], form 0 0 0 0 0), (0x6B, [], form 0 0 0x80 0x80 0)] :
    List (Nat × List Prefix × WForm)), Alone fresh x.1 x.2.1 x.2.2 := by decide +kernel

theorem ready_70 : ∀ x ∈ ([(0x70, [], form 0 0x80 0x80 0x80 0), (0x71, [⟨.xi, 0⟩], form 0 0x80 0x80 0x80 0), (0x72, [], form 1 0x80 0x80 0x80 0),
    (0x73, [], form 0 0 0 0 0), (0x74, [], form 0 0 0 0 0), (0x75, [], form 0 0 0x80 0x80 0x80), (0x76, [], form 0 0 0 0 0), (0x77, [], form 0 0 0 0 0),
    (0x78, [], form 0 0 0 0 0), (0x79, [], form 0 0 0x80 0 0), (0x7A, [], form 0 0 0x80 0x80 0), (0x7B, [], form 0 0 0x80 0x80 0), (0x7C, [], form 0 0 0x80 0 0),
    (0x7D, [], form 0 0 0 0 0), (0x7E, [], form 0 0 0x80 0x80 0), (0x7F, [], form 0 0 0x80 0x80 0)] :
    List (Nat × List Prefix × WForm)), Alone fresh x.1 x.2.1 x.2.2 := by decide +kernel

theorem ready_80 : ∀ x ∈ ([(0x80, [], form 0 0x80 0x80 0x80 0x80), (0x81, [], form 0 0 0 0 0)] :
    List (Nat × List Prefix × WForm)), Alone fresh x.1 x.2.1 x.2.2 := by decide +kernel

theorem ready_90 : ∀ x ∈ ([(0x90, [], form 0 0 0x80 0x80 0), (0x91, [], form 0 0 0x80 0 0), (0x92, [], form 0 0 0 0 0), (0x93, [], form 1 0 0 0 0),
    (0x94, [], form 0 0 0x80 0 0), (0x95, [], form 0 0 0x80 0 0), (0x96, [], form 0 0 0x80 0 0), (0x97, [], form 0 0 0x80 0x80 0), (0x98, [], form 0x20 0 0x80 0x80 0),
    (0x99, [], form 0 0 0 0 0), (0x9A, [], form 0 0 0x80 0x80 0), (0x9B, [], form 0 0 0 0 0), (0x9C, [], form 0 0 0x80 0 0), (0x9D, [], form 0 0 0x80 0x80 0x80),
    (0x9E, [], form 0 0 0 0 0)] :
    List (Nat × List Prefix × WForm)), Alone fresh x.1 x.2.1 x.2.2 := by decide +kernel

theorem ready_B0 : ∀ x ∈ ([(0xB0, [], form 0 0 0x80 0 0), (0xB1, [], form 0 0 0x80 0x80 0), (0xB2, [], form 0 0 0x80 0 0), (0xB3, [], form 0 0 0x80 0 0),
    (0xB4, [], form 0 0 0x80 0 0), (0xB5, [], form 1 0 0x80 0 0), (0xB6, [], form 0 0 0x80 0 0), (0xB7, [], form 0 0 0x80 0 0), (0xB8, [], form 0 0 0x80 0 0),
    (0xB9, [], form 0 0 0x80 0 0), (0xBA, [], form 0 0 0 0 0), (0xBB, [], form 0 0 0 0 0)] :
    List (Nat × List Prefix × WForm)), Alone fresh x.1 x.2.1 x.2.2 := by decide +kernel

theorem ready_C0 : ∀ x ∈ ([(0xC0, [], form 0 0 0 0 0), (0xC1, [], form 0 0 0 0 0), (0xC2, [], form 0 0 0 0 0), (0xC3, [], form 0 0 0 0 0), (0xC4, [], form 0 0 0 0 0),
    (0xC5, [], form 0 0 0 0 0), (0xC6, [], form 0 0 0 0 0), (0xC7, [], form 0 0 0 0 0), (0xC8, [], form 0 0 0 0 0), (0xC9, [], form 0 0 0 0 0)] :
    List (Nat × List Prefix × WForm)), Alone fresh x.1 x.2.1 x.2.2 := by decide +kernel

theorem ready_D0 : ∀ x ∈ ([(0xD0, [], form 0 0 0x80 0 0), (0xD1, [], form 0 0 0x80 0x80 0), (0xD2, [], form 0 0 0x80 0 0), (0xD3, [], form 0 0x80 0x80 0x80 0x80),
    (0xD4, [], form 0 0 0x80 0 0), (0xD5, [], form 0 0 0 0 0), (0xD6, [], form 0 0x80 0x80 0x80 0), (0xD7, [], form 1 0 0x80 0x80 0)] :
    List (Nat × List Prefix × WForm)), Alone fresh x.1 x.2.1 x.2.2 := by decide +kernel

theorem ready_E0 : ∀ x ∈ ([(0xE0, [], form 0 0x80 0x80 0x80 0), (0xE1, [], form 0 0 0 0 0), (0xE2, [], form 0 0 0x80 0x80 0)] :
    List (Nat × List Prefix × WForm)), Alone fresh x.1 x.2.1 x.2.2 := by decide +kernel

theorem ready_compact : ∀ op ∈ ([0x00, 0x01, 0x03, 0x04, 0x05, 0x0A, 0x0B, 0x0E, 0x0F, 0x10, 0x11, 0x12, 0x13, 0x14, 0x20, 0x21, 0x22, 0x24, 0x25, 0x46, 0x4B, 0x52,
    0x7D] : List Nat), Ready fresh me op false [] (expand ⟨0, 0, 0⟩) [⟨Grp.of op false [] (expand ⟨0, 0, 0⟩) (dword programBase), mine, 15, 0⟩] := by
  decide +kernel

/-! ### Witnesses: the slice -/

/-- IntegerArithmetic: divisors without a zero, and with one in a lane. -/
theorem witness_IntegerArithmetic :
    ([0x08, 0x09].all (fun op => alone fresh op [] (form 0 0 0 0xC1 0) && (at_ fresh op [] (form 0 0 0 0xC1 0)).eff.lanes.all (fun j => (at_ fresh op [] (form 0 0 0 0xC1 0)).b 1 (fresh.slice mine) j != 0) &&
      alone fresh op [] (form 0 0 0 0xC3 0) && (at_ fresh op [] (form 0 0 0 0xC3 0)).eff &&& Mask.ofFn (fun i => (at_ fresh op [] (form 0 0 0 0xC3 0)).b 1 (fresh.slice mine) i == 0) == 1)) = true := by
  decide +kernel

/-- BitOperations: a byte under each code. -/
theorem witness_BitOperations : bytePermute 0x44332280 0x88776655 0xAAA0 = 0xFFFFFF80 ∧ bytePermute 0x44332280 0x88776655 0xB987 = 0xFFFF0088 ∧ bytePermute 1 2 0xCDAF = 0 := by decide +kernel

/-- The CVTN of the witnesses: f32 to f16 with the trapping policy. -/
def narrow : WForm := form 0x08A 8 2 0 0

/-- Conversions: a CVTN that meets no case, and one that meets its trapping case. -/
theorem witness_Conversions : [(fresh, false), (world (reg 2 0x4788B800), true)].all (fun x => alone x.1 0x31 [⟨.ovf, 3⟩] narrow &&
    (narrowAt (at_ x.1 0x31 [⟨.ovf, 3⟩] narrow) (x.1.slice mine) 10 8 false 0).met == x.2) = true := by decide +kernel

/-- Conversions: values in and out of the range of an s8 and of a u8 after rounding; ties, excesses and exact values of a rounding to unit; floats that overflow f16 and that do not; lists for a block with a signalling NaN, a quiet one, values out of its range, and none. -/
theorem witness_Conversions_values :
    roundUnit .rne false 255 (-1) 0 = (128, true) ∧ roundUnit .rtz false 255 (-1) 0 = (127, true) ∧ roundUnit .rne true 128 0 0 = (128, false) ∧ roundUnit .rup true 129 0 0 = (129, false) ∧
    roundUnit .rne false 5 (-1) 0 = (2, true) ∧ roundUnit .rna false 5 (-1) 0 = (3, true) ∧ roundUnit .rdn true 5 (-2) 0 = (2, true) ∧ roundUnit .rup false 3 2 0 = (12, false) ∧
    (fmtF16.round .rne (.fin false 65520 0)).overflow = true ∧ (fmtF16.round .rne (.fin false 65519 0)).overflow = false ∧ (fmtF16.round .rne (.inf true)).overflow = false ∧
    (let list (v : Machine.Num) : List Machine.Num := v :: List.replicate 15 (.fin true 1 0)
     (list (.nan true)).any Machine.Num.isNaN = true ∧ .nan true ∈ list (.nan true) ∧ .nan true ∉ list (.nan false) ∧ (list (.nan false)).length = 16 ∧
     (list (.inf false)).any Machine.Num.isNaN = false ∧ (Machine.Num.fin false 1 127).absLtPow 127 = false ∧ (Machine.Num.fin false 1 126).absLtPow 127 = true) := by decide +kernel

/-- TransfersOfControl: aligned and misaligned targets of BRX, CALL and RET. -/
theorem witness_TransfersOfControl :
    ([(0x41, form 0 0 0x80 0 0, 4), (0x41, form 0 0 0x80 0 0, 2), (0x43, form 1 0x82 0x80 0 0, 8), (0x43, form 1 0x82 0x80 0 0, 1), (0x44, form 0 0 0x80 0 0, 0), (0x44, form 0 0 0x80 0 0, 3)] :
      List (Nat × WForm × Word)).all (fun x => alone (world (reg 0x80 x.2.2)) x.1 [] x.2.1 &&
        (at_ (world (reg 0x80 x.2.2)) x.1 [] x.2.1).pairA ((world (reg 0x80 x.2.2)).slice mine) == joinWords x.2.2 0) = true ∧
    (alone fresh 0x43 [] (form 0 0x82 0 1 0) && (at_ fresh 0x43 [] (form 0 0x82 0 1 0)).target.extractLsb' 0 2 == 0 && alone fresh 0x44 [] (form 1 0 0 0 0) && (fresh.slice mine).trap.xpc == 0) = true := by
  decide +kernel

/-- A slice with `n` entries on its mask stack, spilled ones below. -/
def stacked (n : Nat) (sl : Slice) : Slice := (List.range n).foldl (fun x k => x.push ⟨dword (4 * k), 15, 0⟩) sl

/-- SplitAndJoin: a stack with room, a full one, one with an entry, an empty one. -/
theorem witness_SplitAndJoin :
    (alone (world (stacked 46)) 0x45 [] (form 0 0 0 6 0) && ((world (stacked 46)).slice mine).depth == 46 &&
    alone (world (stacked 48)) 0x45 [] (form 0 0 0 6 0) && ((world (stacked 48)).slice mine).depth == 48 &&
    alone (world (stacked 1)) 0x46 [] (form 0 0 0 0 0) && ((world (stacked 1)).slice mine).tx.isNone && (((world (stacked 1)).slice mine).pop).isSome &&
    alone fresh 0x46 [] (form 0 0 0 0 0) && (fresh.slice mine).pop.isNone) = true := by decide +kernel

/-- SplitAndJoin: stacks that begin to spill, and that spill for the last time. -/
theorem witness_SplitAndJoin_push : [(32, 0), (47, 15)].all (fun n => let sl := stacked n.1 (Slice.start 8 0)
    decide (sl.depth < 48) && sl.stack.length == 32 && sl.spilled == n.2 && sl.retired == 0 && sl.stack.all (fun x => sext64 57 (x.pc.toNat % 2 ^ 57) == x.pc && x.mask &&& sl.retired == 0) && (List.range 4).all (fun i => (sl.store.get i).wf)) = true := by
  decide +kernel

/-- A gang of two slices in one subgang, or apart. -/
def two (apart : Bool) : State :=
  fresh.modGroup 0 (fun g => { g with gangSize := 2, slices := [Slice.start 128 (dword programBase), { Slice.start 128 (dword programBase) with sub := if apart then 1 else 0 }], gangs := [{ g.gang 0 with parted := apart }] })

/-- PartRegangElect: two slices that issue PART together, two unended slices of a gang; REGANG, ELECT, LXCH, POLL, GFOLD and CBR see them too. -/
theorem witness_PartRegangElect :
    ([(0x48, form 0 0 0 0 0), (0x49, form 0 0 0 0 0), (0x4A, form 8 0x80 0 0 0), (0x1C, form 0 0 0 0 0), (0x1D, form 0 0x80 0 0 0), (0x1E, form 0 0x80 0 0 0), (0x42, form 4 0 0 0 0)] : List (Nat × WForm)).all
      (fun x => decide (Ready (two false) me x.1 true [] x.2 [at_ (two false) x.1 [] x.2, ⟨Grp.of x.1 true [] x.2 (dword programBase), ⟨0, 1⟩, 15, 4⟩])) = true ∧
    ((two true).group 0).unended 0 = [0, 1] ∧ ((two false).group 0).unended 0 = [0, 1] := by decide +kernel

/-- A unit whose trap handler's address is stored at 0x20000. -/
def handled (h : Nat) : State :=
  let s := withUnit { noRecord with frame := 0x20000 } fresh
  { s with mem := s.mem.setNum 0x20000 8 h }

/-- A slice with a shadow, at register values 1 and 2. -/
def paired : State :=
  (world (fun sl => (sl.setLane 0 0 1 none).setLane 1 0 2 none)).modGroup 0 (fun g => { g with shadow := true, shadows := g.slices.map (fun sl => ⟨sl, 0, 0⟩) })

/-- A pair after its primary has added v0 and v1 into v2. -/
def trailed : State :=
  let i := Instr.iaddC [] ⟨1, 0, 2⟩
  match exec i paired with
  | .next t => paired.trailIssue me i t
  | _ => paired

/-- R197: the shadow adds on its own registers, in a turn of its own on pipe 2. -/
theorem test_shadow_trails :
    (trailed.slice mine).reg 2 0 = 3 ∧ (trailed.shadowOf mine).slice.reg 2 0 = 0 ∧ (trailed.group 0).trail.length = 1 ∧
    (trailed.subgangsOn ⟨0, 0⟩ 2).filter trailed.ready = [⟨0, 0, 2000⟩] ∧
    (let t := trailed.trailStep exec ⟨0, 0, 2000⟩
     (t.shadowOf mine).slice.reg 2 0 = 3 ∧ (t.shadowOf mine).slice.pc = (t.slice mine).pc ∧ (t.group 0).trail = []) := by decide +kernel

/-- R198: SRD of CLOCK leaves its value in the load-value queue; the shadow has it to take. -/
theorem test_shadow_queue :
    (let s := paired.modCore ⟨0, 0⟩ (fun k => { k with clock := 700 })
     let i := Instr.srd [] (form 0x18 4 0 0 0)
     match exec i s with
     | .next t => (((s.trailIssue me i t).followShadows s).group 0).trail.map (fun x => (x.queued, x.entries.map (fun e => (e.2.mask, e.2.values.length, e.2.complete x.regs))))
     | _ => []) = [(true, [(15, 8, true)])] := by decide +kernel

/-- TrapDelivery: no frame; a handler, none and a misaligned one; a slice in its handler; an open region and none. -/
theorem witness_TrapDelivery :
    fresh.trapMismatch mine = none ∧ (handled 0x4000).trapMismatch mine = none ∧ ((world (fun sl => { sl with regpc := 0x4000 })).slice mine).regpc = 0x4000 ∧ (fresh.slice mine).regpc = 0 ∧
    mine.idx < (fresh.group 0).slices.length ∧ (fresh.slice mine).tx = none ∧ (fresh.recordOf 0).frame = 0 ∧ ((handled 0x4000).recordOf 0).frame = 0x20000 ∧
    [0x4000, 0, 0x4002].all (fun h => match (((handled h).modSlice mine (fun sl => { sl.record ⟨0x0D, 0, 1, 0⟩ 0 true with regpc := 0, wait := none })).readGlb mine 0x20000 8 needRead 0).2 with
      | .inl (b, _) => b == toBytes 8 h
      | .inr _ => false) = true ∧
    ((world (fun sl => { sl with trap := ⟨0, 0x80000000, 0, 0, 0⟩ })).slice mine).trap.xcause.getLsbD 31 = true := by decide +kernel

/-- SpecialRegisterReads: a slice with a latched pair and one without; a unit. -/
theorem witness_SpecialRegisterReads : (fresh.slice mine).latch = none ∧ ((world (fun sl => { sl with latch := some (1, 2) })).slice mine).latch = some (1, 2) ∧
    ((withUnit noRecord fresh).unit? 0).isSome = true := by decide +kernel

/-- SpecialRegisterWrites: writable registers, XF among them, read-only ones, and reserved values of FMT and FERETRY. -/
theorem witness_SpecialRegisterWrites :
    ([0x10, 0x11, 0x12, 0x13, 0x20, 0x21, 0x22, 0x23, 0x24, 0x00, 0x2C] : List (BitVec 14)).all (fun n => alone fresh 0x4F [] (form n 0 0xC0 0 0) && WForm.field (form n 0 0xC0 0 0) 55 50 == n.toNat) = true ∧
    (alone (world (reg 0x80 0x180001)) 0x4F [] (form 0x2B 0 0x80 0 0) && alone (world (reg 0x80 0x70001)) 0x4F [] (form 0x2B 0 0x80 0 0) && alone fresh 0x4F [] (form 0x11 0 0xE5 0 0)) = true := by
  decide +kernel

/-! ### Witnesses: turns, leases and memory access -/

/-- The core of the small group changed. -/
def onCore (f : Core → Core) (s : State) : State := s.modCore ⟨0, 0⟩ f

/-- The gang of the small group changed. -/
def onGang (f : Gang → Gang) (s : State) : State := s.modGroup 0 (fun g => { g with gangs := [f (g.gang 0)] })

/-- GangsTakeTurns: gangs due and not due to go dormant; a window over and not over; a pipe that goes on, one that takes a fresh subgang, one whose ready subgangs are all spent, and one with none. -/
theorem witness_GangsTakeTurns :
    ((onCore (fun k => { k with clock := 612 }) (onGang (fun x => { x with waitSince := some 100 }) fresh)).group 0).gangs.map (fun x => (x.active, x.waitSince)) = [(true, some 100)] ∧
    ((onCore (fun k => { k with clock := 612 }) fresh).core ⟨0, 0⟩).clock = 612 ∧ ((fresh.group 0).gang 0).waitSince = none ∧
    ((fresh.core ⟨0, 0⟩).clock / 4096 ≤ (fresh.core ⟨0, 0⟩).window) ∧ (((onCore (fun k => { k with clock := 4096 }) fresh).core ⟨0, 0⟩).window < 4096 / 4096) ∧
    (fresh.subgangsOn ⟨0, 0⟩ 0).filter fresh.ready = [me] ∧ (fresh.subgangsOn ⟨0, 0⟩ 1).filter fresh.ready = [] ∧
    ((fresh.core ⟨0, 0⟩).pipes.getD 0 Pipe.idle).run = none ∧
    (let s := onCore (fun k => { k with pipes := k.pipes.set 0 ⟨some (0, 0, 0), 15, []⟩ }) fresh
     (s.subgangsOn ⟨0, 0⟩ 0).filter s.ready = [me] ∧ (s.core ⟨0, 0⟩).pipes.getD 0 Pipe.idle = ⟨some (0, 0, 0), 15, []⟩) ∧
    (let s := onCore (fun k => { k with pipes := k.pipes.set 0 ⟨some (0, 0, 0), 16, []⟩ }) fresh
     (s.subgangsOn ⟨0, 0⟩ 0).filter s.ready = [me] ∧ (s.core ⟨0, 0⟩).pipes.getD 0 Pipe.idle = ⟨some (0, 0, 0), 16, []⟩) ∧
    ((trailed.group 0).nextTrailing 0 0).map (fun x => (x.1, x.2.own, x.2.queued)) = some (0, true, false) := by decide +kernel

/-- Leases: a lease of 2,048 lines and one of 2,049. -/
theorem witness_Leases : [2048, 2049].all (fun n => alone (world (reg 0x80 n)) 0x53 [] (form 0 0 0x80 0 0) &&
    ((world (reg 0x80 n)).slice mine).operand 0 0x80 0 == n && ((world (reg 0x80 n)).slice mine).tx.isNone && ((world (reg 0x80 n)).group 0).gangs.length == 1) = true := by decide +kernel

/-- R130, R332 (the litmus row of diverged paths): a byte that path A stores over may be found on path B as it was or as it is, till the JOIN after it; an access that has found the new byte rules the old one out, and a store of path B may come before path A's. -/
theorem test_diverged_paths :
    (let sl : Slice := { Slice.start 8 0 with stack := [⟨0, 12, 0⟩, ⟨0, 15, 0⟩], active := 3 }
     let a := sl.stores .glb 0 64 [7]
     let b := (a.pop.map (fun x => { x.2 with active := 12 })).getD sl
     a.sees 0 .glb 0 64 [9] = [9] ∧ b.sees 0 .glb 0 64 [9] = [7] ∧ b.sees 1 .glb 0 64 [9] = [9] ∧ (b.meets 1 .glb 0 64 1).sees 0 .glb 0 64 [9] = [9] ∧ b.sees 0 .glb 0 65 [9] = [9] ∧
     b.sees 0 .cls 0 64 [9] = [9] ∧ b.overtaken 0 .glb 0 64 [9] [5] = [9] ∧ b.overtaken 1 .glb 0 64 [9] [5] = [5] ∧
     ((b.pop).map (fun x => x.2.pathStores)) = some [] ∧ ({ sl with active := 12, stack := [⟨0, 15, 0⟩] } : Slice).stores .glb 0 64 [7] = { sl with active := 12, stack := [⟨0, 15, 0⟩] }) := by decide +kernel

/-- Whether the lanes of an access reach the places `p`. -/
def arrives (c : Ctx) (s : State) (a : Access) (p : Nat → Place) : Bool :=
  (a.check (s.group c.ref.gid) (s.slice c.ref)).isNone && !a.transacts (s.slice c.ref) &&
    decide (((s.noteStale c.ref a).spots c.ref a (a.windowOf (s.slice c.ref)) false a.todo).2 = a.todo.map (fun i => (i, Spot.at_ (p i))))

theorem arrives_reaches {c : Ctx} {s : State} {a : Access} {p : Nat → Place} (h : arrives c s a p = true) :
    a.Reaches c s ((s.noteStale c.ref a).spots c.ref a (a.windowOf (s.slice c.ref)) false a.todo).1 p := by
  simp only [arrives, Bool.and_eq_true, decide_eq_true_eq, Option.isNone_iff_eq_none, Bool.not_eq_true'] at h
  exact ⟨h.1.1, h.1.2, Prod.ext rfl h.2⟩

/-- A slice whose address pair `s0` names 0x20000, with an index of 8 bytes times the lane in `v0`. -/
def aimed (sl : Slice) : Slice := (reg 0x80 0x20000 sl).setLanes 0 15 (Lanes.ofFn (fun i => word (8 * i)))

/-- A memory form on `s0` and `v0`, destination `v8`, data `v12`. -/
def memForm (mod : BitVec 14) (d c : BitVec 8) : WForm := form mod d 0x80 0 c

/-- Where lane `i` of the form goes. -/
def spot8 (i : Nat) : Place := .glb (0x20000 + 8 * i)

/-- LoadsFillDestinations, StoresWriteBytes: LD and ST of every lane's own word, LDS of the lowest lane's; ST to one byte by all lanes. -/
theorem witness_loads_and_stores :
    (alone (world aimed) 0x60 [] (memForm 16 8 0) && arrives (at_ (world aimed) 0x60 [] (memForm 16 8 0))
      ((world aimed).emptied (at_ (world aimed) 0x60 [] (memForm 16 8 0)) ((at_ (world aimed) 0x60 [] (memForm 16 8 0)).access .load true false false false ((world aimed).slice mine)))
      ((at_ (world aimed) 0x60 [] (memForm 16 8 0)).access .load true false false false ((world aimed).slice mine)) spot8) = true ∧
    (alone (world aimed) 0x6B [] (form 16 8 0x80 0xC0 0) && arrives (at_ (world aimed) 0x6B [] (form 16 8 0x80 0xC0 0))
      ((world aimed).emptied (at_ (world aimed) 0x6B [] (form 16 8 0x80 0xC0 0)) ((at_ (world aimed) 0x6B [] (form 16 8 0x80 0xC0 0)).access .load true false false true ((world aimed).slice mine)))
      ((at_ (world aimed) 0x6B [] (form 16 8 0x80 0xC0 0)).access .load true false false true ((world aimed).slice mine)) (fun _ => .glb 0x20000)) = true ∧
    (alone (world aimed) 0x61 [] (memForm 16 0 12) && arrives (at_ (world aimed) 0x61 [] (memForm 16 0 12)) (world aimed)
      ((at_ (world aimed) 0x61 [] (memForm 16 0 12)).access .store false false false false ((world aimed).slice mine)) spot8) = true ∧
    (alone (world aimed) 0x61 [] (form 48 0 0x80 0xC0 12) && arrives (at_ (world aimed) 0x61 [] (form 48 0 0x80 0xC0 12)) (world aimed)
      ((at_ (world aimed) 0x61 [] (form 48 0 0x80 0xC0 12)).access .store false false false false ((world aimed).slice mine)) (fun _ => .glb 0x20000)) = true := by decide +kernel

/-- LoadsFillDestinations: values on their way to the last lane registers and the last slice register. -/
theorem witness_arrivals : (let s := world (fun sl => { sl with owed := [⟨126, 2, 3, [7, 8], none⟩, ⟨191, 1, 0, [9], some 0⟩] })
    (s.slice mine).owed[0]? = some ⟨126, 2, 3, [7, 8], none⟩ ∧ (s.slice mine).owed[1]? = some ⟨191, 1, 0, [9], some 0⟩ ∧ 126 + 2 ≤ min 128 (s.slice mine).v.length ∧ 191 + 1 ≤ 192) := by
  decide +kernel

/-- The words of the lanes 0 to 3 empty. -/
def emptied (s : State) : State := (List.range 4).foldl (fun s i => { s with mem := s.mem.setFull (0x20000 + 8 * i) false }) s

/-- FullEmptyForms: LDW and LDC of full words, STF of empty ones, FEQ and FESET of any. -/
theorem witness_FullEmptyForms :
    ([(0x62, AccessOp.ldw, fresh), (0x63, .ldc, fresh)]).all (fun x =>
      let s := world aimed
      let a := (at_ s x.1 [] (memForm 16 8 0)).access x.2.1 true true false false (s.slice mine)
      alone s x.1 [] (memForm 16 8 0) && arrives (at_ s x.1 [] (memForm 16 8 0)) (s.emptied (at_ s x.1 [] (memForm 16 8 0)) a) a spot8 && a.todo.all (fun i => s.fullPlace (spot8 i))) = true ∧
    (let s := emptied (world aimed)
     let a := (at_ s 0x64 [] (memForm 16 0 12)).access .stf false false true false (s.slice mine)
     alone s 0x64 [] (memForm 16 0 12) && arrives (at_ s 0x64 [] (memForm 16 0 12)) s a spot8 && a.todo.all (fun i => !s.fullPlace (spot8 i))) = true ∧
    (let s := world aimed
     let c := at_ s 0x65 [] (memForm 0 8 0)
     let a := memAccess .feq 8 1 false true false false false 1 c (s.slice mine)
     alone s 0x65 [] (memForm 0 8 0) && arrives c (s.emptied c a) a spot8) = true ∧
    (let s := world aimed
     let c := at_ s 0x66 [] (memForm 0 0 12)
     let a := memAccess .feset 8 1 false false false false false 1 c (s.slice mine)
     alone s 0x66 [] (memForm 0 0 12) && arrives c s a spot8) = true := by decide +kernel

/-- One active lane. -/
def lane3 (sl : Slice) : Slice := { aimed sl with active := 8 }

/-- FullEmptyForms: one lane whose word is not as LDW, LDC and STF need it. -/
theorem witness_FullEmptyForms_parked :
    ([(0x62, AccessOp.ldw), (0x63, .ldc)]).all (fun x =>
      let s := emptied (world lane3)
      let c := at_ s x.1 [] (memForm 16 8 0)
      let a := c.access x.2 true true false false (s.slice mine)
      alone s x.1 [] (memForm 16 8 0) && a.todo == [3] && arrives c (s.emptied c a) a spot8 && !s.fullPlace (spot8 3)) = true ∧
    (let s := world lane3
     let c := at_ s 0x64 [] (memForm 16 0 12)
     let a := c.access .stf false false true false (s.slice mine)
     alone s 0x64 [] (memForm 16 0 12) && a.todo == [3] && arrives c (s.closeRegion mine) a spot8 && s.fullPlace (spot8 3)) = true := by decide +kernel

/-- FullEmptyForms: two lanes of LDC and of STF on one word. -/
theorem witness_FullEmptyForms_one_word :
    (let s := world aimed
     let c := at_ s 0x63 [] (form 16 8 0x80 0xC0 0)
     let a := c.access .ldc true true false false (s.slice mine)
     alone s 0x63 [] (form 16 8 0x80 0xC0 0) && arrives c (s.emptied c a) a (fun _ => .glb 0x20000) && c.eff.lanes == [0, 1, 2, 3]) = true ∧
    (let s := world aimed
     let c := at_ s 0x64 [] (form 16 0 0x80 0xC0 12)
     let a := c.access .stf false false true false (s.slice mine)
     alone s 0x64 [] (form 16 0 0x80 0xC0 12) && arrives c (s.closeRegion mine) a (fun _ => .glb 0x20000) && c.eff.lanes == [0, 1, 2, 3]) = true := by decide +kernel

/-- AddressChecks: for each instruction a space too small, an address that is none, and a misalignment. -/
theorem witness_AddressChecks :
    ([(0x60, 8, 0, 4), (0x61, 0, 12, 4), (0x6B, 8, 0, 4), (0x62, 8, 0, 4), (0x63, 8, 0, 4), (0x64, 0, 12, 4), (0x65, 8, 0, 8), (0x66, 0, 12, 8)] : List (Nat × BitVec 8 × BitVec 8 × Nat)).all (fun x =>
      let hit (s : State) (p : List Prefix) (cause : Nat) : Bool :=
        let c := at_ s x.1 p (form 0 x.2.1 0x80 0xC0 x.2.2.1)
        alone s x.1 p (form 0 x.2.1 0x80 0xC0 x.2.2.1) &&
          (((c.addressChecks (s.group 0) (s.slice mine) x.2.2.2 x.2.2.2 (x.1 == 0x6B)).find? (fun y => y.1 != 0)).map (fun y => y.2.1) == some cause)
      hit (world (reg 0x80 0x4000)) [⟨.spc, 1⟩] 0x0A && hit (world (reg 0x81 0x1000000)) [] 0x09 && hit (world (reg 0x80 2)) [] 0x07) = true ∧
    (let s := world (reg 0x81 0x1000000)
     let c := at_ s 0x69 [] (form 0 0 0x80 0xC0 0)
     alone s 0x69 [] (form 0 0 0x80 0xC0 0) && (((c.addressChecks (s.group 0) (s.slice mine) 1 1 false).find? (fun y => y.1 != 0)).map (fun y => y.2.1) == some 0x09)) = true := by
  decide +kernel

/-! ### Witnesses: windows, faults, waits, pages and queues -/

/-- Where BWIN's translation ends. -/
def reachAt (s : State) : State × Reach :=
  s.reach (s.group 0).coreRef (s.group 0).part 0 ((at_ s 0x67 [] (form 0 0 0x80 0 0)).pairA (s.slice mine)) needRead 0 false

/-- The device whose core maps its one page without the permission to read. -/
def unreadable (s : State) : State := onCore (fun k => { k with tlb := k.tlb.map (fun t => { t with perm := ⟨false, true, true, false⟩ }) }) s

/-- The device whose core maps nothing. -/
def unmapped (s : State) : State := onCore (fun k => { k with tlb := [] }) s

/-- The device whose page table holds a malformed entry for the low addresses. -/
def malformed (s : State) : State := { unmapped s with mem := s.mem.setNum 0 8 1 }

/-- The fault that the host has answered with FAIL or RESOLVE. -/
def answered (ok : Option Bool) (s : State) : State := { s with partitions := s.partitions.map (fun (p : Partition) => { p with faults := [⟨5, 0x20000, 0, 0, 0, 0, 0, ok⟩] }) }

/-- WindowsTranslate: BWIN of a mapped address, of one that is none, of one without permission, of an unmapped one, under a malformed entry. -/
theorem witness_WindowsTranslate :
    ([fresh, world (reg 0x81 0x1000000), unreadable fresh, unmapped fresh, malformed fresh]).all (fun s => alone s 0x67 [] (form 0 0 0x80 0 0)) = true ∧
    (match (reachAt fresh).2 with | .ok pa _ => pa == 0 | _ => false) = true ∧ canonical ((at_ (world (reg 0x81 0x1000000)) 0x67 [] (form 0 0 0x80 0 0)).pairA ((world (reg 0x81 0x1000000)).slice mine)) = false ∧
    (match (reachAt (unreadable fresh)).2 with | .denied c => c == 2 | _ => false) = true ∧ (match (reachAt (unmapped fresh)).2 with | .fault _ => true | _ => false) = true ∧
    (match (reachAt (malformed fresh)).2 with | .unresolvable => true | _ => false) = true := by decide +kernel

/-- A window over the bytes at 0x20000. -/
def pane (stale used read : Bool) : Window := ⟨0x20000, 0x20000, 4096, read, true, false, true, stale, used⟩

/-- WindowsTranslate: the last byte of a window, a byte after it, a window that may not be read; stale windows that are used, over a mapped page and over none. -/
theorem witness_WindowsTranslate_windows :
    (((0x20FFF : Dword) - (pane false false true).vbase).toNat + 1 ≤ (pane false false true).limit) ∧ (pane false false true).limit < 2 ^ 63 ∧
    needRead.missing ⟨true, true, false, true⟩ = none ∧ needRead.missing ⟨false, true, false, true⟩ = some 2 ∧ fresh.physKind (0x20000 + 0xFFF) ≠ .registers ∧
    ((pane false false true).limit < ((0x21000 : Dword) - (pane false false true).vbase).toNat + 1) ∧
    (let s := world (fun sl => { sl with w := (sl.w.set 0 (some (pane true true true))).set 7 (some (pane true false true)) })
     (s.slice mine).w.getD 0 none = some (pane true true true) ∧ (s.slice mine).w.getD 7 none = some (pane true false true) ∧
     (match (s.translate ⟨0, 0⟩ 0 0x20000 false).2 with | .ok t pa => pa == 0x20000 && !(s.mustMigrate t 0x20000) | _ => false) = true ∧
     (match ((unmapped s).translate ⟨0, 0⟩ 0 0x20000 false).2 with | .ok _ _ => false | _ => true) = true) := by decide +kernel

/-- PrefetchAndFence: PREF in its spaces; FENCE with nothing to wait for, and a release that waits. -/
theorem witness_PrefetchAndFence :
    ([[], [⟨.spc, 1⟩], [⟨.spc, 4⟩]] : List (List Prefix)).all (fun p => alone fresh 0x69 p (form 0 0 0x80 0xC0 0) &&
      ((at_ fresh 0x69 p (form 0 0 0x80 0xC0 0)).addressChecks (fresh.group 0) (fresh.slice mine) 1 1 false).all (fun x => x.1 == 0)) = true ∧
    alone fresh 0x6A [] (form 0 0 0 0 0) = true ∧
    (let s := { fresh with backInvalidates := [3] }
     let c := at_ s 0x6A [⟨.scp, 0x15⟩] (form 0 0 0 0 0)
     alone s 0x6A [⟨.scp, 0x15⟩] (form 0 0 0 0 0) && decide (2 ≤ c.g.pfx.order 3) && decide (5 ≤ c.g.pfx.scope 4) && s.backInvalidates != []) = true := by decide +kernel

/-- What a memory instruction of lane 3 meets. -/
def meets (s : State) (op : Nat) (w : WForm) (a : Access) : List (Nat × Spot) :=
  (let c := at_ s op [] w
   let s0 := s.closing c.g [c]
   let s1 := if a.returns then s0.emptied c a else s0
   if alone s op [] w && (a.check (s.group 0) (s.slice mine)).isNone && !a.transacts (s.slice mine) && a.todo == [3] then ((s1.noteStale mine a).spots mine a (a.windowOf (s.slice mine)) false [3]).2 else [])

/-- The accesses of the statement, by opcode. -/
def accesses (s : State) : List (Nat × WForm × Access) :=
  let sl := s.slice mine
  let c (op : Nat) (w : WForm) : Ctx := at_ s op [] w
  [(0x60, memForm 16 8 0, (c 0x60 (memForm 16 8 0)).access .load true false false false sl), (0x61, memForm 16 0 12, (c 0x61 (memForm 16 0 12)).access .store false false false false sl),
   (0x62, memForm 16 8 0, (c 0x62 (memForm 16 8 0)).access .ldw true true false false sl), (0x63, memForm 16 8 0, (c 0x63 (memForm 16 8 0)).access .ldc true true false false sl),
   (0x64, memForm 16 0 12, (c 0x64 (memForm 16 0 12)).access .stf false false true false sl), (0x65, memForm 0 8 0, memAccess .feq 8 1 false true false false false 1 (c 0x65 (memForm 0 8 0)) sl),
   (0x66, memForm 0 0 12, memAccess .feset 8 1 false false false false false 1 (c 0x66 (memForm 0 0 12)) sl)]

/-- The device whose core maps its one page without any permission. -/
def closed (s : State) : State := onCore (fun k => { k with tlb := k.tlb.map (fun t => { t with perm := ⟨false, false, false, false⟩ }) }) s

/-- FaultingLanes: each instruction meets a page fault, a missing permission, and a malformed entry. -/
theorem witness_FaultingLanes :
    (accesses (unmapped (world lane3))).all (fun x => match meets (unmapped (world lane3)) x.1 x.2.1 x.2.2 with | [(3, .fault _)] => true | _ => false) = true ∧
    (accesses (closed (world lane3))).all (fun x => match meets (closed (world lane3)) x.1 x.2.1 x.2.2 with | [(3, .denied _)] => true | _ => false) = true ∧
    (accesses (malformed (world lane3))).all (fun x => match meets (malformed (world lane3)) x.1 x.2.1 x.2.2 with | [(3, .unresolvable)] => true | _ => false) = true := by decide +kernel

/-- A store of lane 3 that waits for the answer to fault 5. -/
def parkedStore (ok : Option Bool) : State :=
  let a := ((at_ (world lane3) 0x61 [] (memForm 16 0 12)).access .store false false false false ((world lane3).slice mine)).setLane 3 (.faulted 5)
  (answered ok (world lane3)).modSlice mine (fun sl => { sl with wait := some (.access a) })

/-- FaultingLanes: a parked store whose fault is unanswered, failed, and resolved. -/
theorem witness_FaultingLanes_replay :
    ([(none, none), (some false, some false), (some true, some true)] : List (Option Bool × Option Bool)).all (fun x =>
      let s := parkedStore x.1
      match (s.slice mine).wait with
      | some (.access a) => a.lanes.get 3 == .faulted 5 && [0, 1, 2].all (fun i => a.lanes.get i == .off) && !(s.group 0).swapped && s.faultAnswer 0 5 == x.2 && a.op == .store &&
          !a.transacts (s.slice mine) && decide (((s.noteStale mine a).spots mine a (a.windowOf (s.slice mine)) false [3]).2 = [(3, .at_ (spot8 3))])
      | _ => false) = true := by decide +kernel

/-- Lane 3 of a form that has been woken at its word, its slice's wait limits as given. -/
def wokenAt (op : Nat) (k : AccessOp) (full : Bool) (x : Retry) : State :=
  let s := if full then world lane3 else emptied (world lane3)
  let w := if k = .stf then memForm 16 0 12 else memForm 16 8 0
  let a := ((at_ s op [] w).access k (k != .stf) (k != .stf) (k == .stf) false (s.slice mine)).setLane 3 .woken
  { (s.modSlice mine (fun sl => { sl with wait := some (.access a), retry := x })) with parks := [⟨mine, 3, .glb, 0, 0x20018 / 8, k != .stf, k == .ldc, 0, true, false⟩] }

/-- WaitsOnWords: a woken lane of each form that finds its word as it needs it, and that does not, one race short of its limit and without one. -/
theorem witness_WaitsOnWords :
    ([(0x62, .ldw, true, ⟨24, 1024, 0, 0⟩), (0x63, .ldc, true, ⟨24, 1024, 0, 0⟩), (0x64, .stf, false, ⟨24, 1024, 0, 0⟩), (0x62, .ldw, false, ⟨24, 2, 0, 0⟩), (0x63, .ldc, false, ⟨24, 0, 0, 0⟩), (0x64, .stf, true, ⟨24, 1024, 0, 0⟩)] :
      List (Nat × AccessOp × Bool × Retry)).all (fun x =>
        let s := wokenAt x.1 x.2.1 x.2.2.1 x.2.2.2
        match (s.slice mine).wait with
        | some (.access a) => a.op == x.2.1 && a.lanes.get 3 == .woken && [0, 1, 2].all (fun i => a.lanes.get i == .off) && !a.transacts (s.slice mine) &&
            decide (((s.noteStale mine a).spots mine a (a.windowOf (s.slice mine)) false [3]).2 = [(3, .at_ (spot8 3))]) && s.fullPlace (spot8 3) == x.2.2.1 &&
            s.parks.any (fun e => decide (e.ref = mine) && e.lane == 3) && decide ((s.slice mine).retry.wlim = 0 ∨ (s.slice mine).retry.used + 1 < (s.slice mine).retry.wlim)
        | _ => false) = true := by decide +kernel

/-- WaitsOnWords: a wait whose races are spent, whose cycles are spent, and neither. -/
theorem witness_WaitsOnWords_limits :
    ([⟨24, 3, 3, 0⟩, ⟨8, 3, 2, 256⟩, ⟨8, 0, 2, 255⟩] : List Retry).all (fun x => match ((wokenAt 0x62 .ldw false x).slice mine).wait with | some (.access a) => a.op == .ldw | _ => false) = true ∧
    ((wokenAt 0x62 .ldw false ⟨24, 1024, 0, 0⟩).parks[0]?).isSome = true := by decide +kernel

/-! ### Witnesses: what a group's slices share, copies, multicasts and barriers -/

/-- The small group changed. -/
def onGroup (f : Group → Group) (s : State) : State := s.modGroup 0 f

/-- A page that waits on the copies numbered below 7, an unpinned page, a pinned page, and a page that refills. -/
def paged : List PageState := [.unpinning true 7, .unpinned, .pinned, .refilling 96]

/-- The small device with those pages. -/
def pages : State := onGroup (fun g => { g with pageState := paged, absent := (List.range 32).map (· + 32) ++ [96, 127] }) fresh

/-- ScratchpadPages: ranges of no page, of the last page and beyond; a wait that is over and one that is not; the lines of a refill; pages about to be unpinned, with and without a copy that still owes them bytes. -/
theorem witness_ScratchpadPages :
    ([(0x7E, 0xE3, 0xC0), (0x7E, 0xE3, 0xC1), (0x7E, 0xE3, 0xE2), (0x7F, 0xE0, 0xC0), (0x7F, 0xE2, 0xC1), (0x7F, 0xE4, 0xC1)] : List (Nat × BitVec 8 × BitVec 8)).all
      (fun x => alone pages x.1 [] (form 0 0 x.2.1 x.2.2 0) && alone fresh x.1 [] (form 1 0 x.2.1 x.2.2 0)) = true ∧
    (let c := at_ fresh 0x7E [] (form 0 0 0xE3 0xE2 0)
     uni c fresh 0xE3 = 3 ∧ uni c fresh 0xE2 = 2 ∧ uni c fresh 0xC0 = 0 ∧ uni c fresh 0xE4 = 4) ∧
    (alone pages 0x7E [] (form 1 0 0xC1 0xC1 0) && (pages.pending mine 15).isNone && (pages.group 0).pageState.getD 1 .pinned != .pinned && (fresh.group 0).pageState.getD 3 .pinned == .pinned) = true ∧
    (pages.group? 0).isSome = true ∧ (pages.group 0).nextRefill 3 = some 96 ∧ (pages.group 0).pageState.getD 0 .pinned = .unpinning true 7 ∧
    (pages.dieCopies 0).any (fun c => decide (c.id < 7) && c.owesPage 0 0) = false ∧
    ((onCore (fun k => { k with copies := [{ Copy.posted (at_ fresh 0x70 [] (form 8 0x80 0x80 0 0)) fresh .cpy with ssp := .glb, dsp := .scr, rowLen := 4096, rows := 1 }] }) pages).dieCopies 0).any
      (fun c => decide (c.id < 7) && c.owesPage 0 0) = true := by decide +kernel

/-- An open queue of two narrow entries with one allowance left for gang 0, `n` entries in it. -/
def open_ (n : Nat) (allow : Nat) : Queue := { Queue.closed with valid := true, cap := 2, nprod := 1, allowance := [allow], count := n, tags := List.replicate n 0, tail := n % 2 }

/-- The small device with queue 0 so. -/
def queued (q : Queue) : State := onGroup (fun g => { g with queues := g.queues.set 0 q }) (world (fun sl => reg 0x81 0x10001 (reg 0x82 32 sl)))

/-- Queues: an opening, a push, a pop and a look at a queue that allows them; a closed queue, one of the other width, another gang's, one without allowance, an empty one, one with a slice that waits to pop. -/
theorem witness_Queues :
    (alone (queued Queue.closed) 0x75 [] (form 0 0 0x80 0x81 0x82) && uni (at_ (queued Queue.closed) 0x75 [] (form 0 0 0x80 0x81 0x82)) (queued Queue.closed) 0x81 == 0x10001 &&
      uni (at_ (queued Queue.closed) 0x75 [] (form 0 0 0x80 0x81 0x82)) (queued Queue.closed) 0x82 == 32) = true ∧
    ([Queue.closed, open_ 0 1, open_ 1 1, open_ 1 0, { open_ 1 1 with wide := true }, { open_ 1 1 with plo := 1 }, { open_ 1 1 with poppers := [0] }] : List Queue).all (fun q =>
      alone (queued q) 0x76 [] (form 0 0 8 0 0) && alone (queued q) 0x77 [] (form 0 8 0 0 0) && alone (queued q) 0x78 [] (form 0 8 0 0 0) && ((queued q).group 0).queue 0 == q &&
        (q.lines q.tail).all (fun l => !(queued q).lineAbsent ((queued q).group 0) l) && (q.lines q.head).all (fun l => !(queued q).lineAbsent ((queued q).group 0) l)) = true := by decide +kernel

/-- A barrier object of some phase and slots. -/
def object (ph pois mis slot0 slot1 : Nat) : BarrierObject := ⟨ph * 2 ^ 62 + pois * 2 ^ 61 + mis * 2 ^ 60, slot0, slot1⟩

/-- The slot of a posted expectation. -/
def posted (n arrived : Nat) : Nat := 2 ^ 63 + n * 2 ^ 32 + arrived

/-- BarrierObjects: each case of an arrival and of a posting has an object that meets it. -/
theorem witness_BarrierObjects :
    (object 0 0 1 0 0).header / 2 ^ 60 % 2 = 1 ∧ 2 ≤ (2 + 4 - (object 0 0 0 0 0).header / 2 ^ 62 % 4) % 4 ∧ 2 ≤ (2 + 4 - (object 3 0 0 0 0).header / 2 ^ 62 % 4) % 4 ∧
    2 ^ 32 ≤ (object 0 0 0 (2 ^ 32 - 1) 0).slot0 % 2 ^ 32 + 1 ∧ ((posted 7 5) / 2 ^ 63 % 2 = 1 ∧ (posted 7 5) / 2 ^ 32 % 2 ^ 31 < (posted 7 5) % 2 ^ 32 + 3) ∧
    ((posted 7 5) % 2 ^ 32 + 2 = (posted 7 5) / 2 ^ 32 % 2 ^ 31) ∧ ((object 0 0 0 5 0).slot0 / 2 ^ 63 % 2 = 0 ∧ 4 < (object 0 0 0 5 0).slot0 % 2 ^ 32) ∧
    ((object 0 0 0 (posted 7 5) (posted 3 3)).arrive 0 2).2 = [0, 1] ∧ ((object 0 0 0 (posted 7 5) (posted 4 3)).arrive 0 2).2 = [0] ∧ ((object 0 0 0 (posted 7 5) 0).arrive 1 2).2 = [] := by
  decide +kernel

/-- The small device with a barrier object at the last place of its scratchpad, whose offset is in `s0`, bytes in `s1`. -/
def barred (o : BarrierObject) (n : Word) : State :=
  onGroup (fun g => { g with scr := ((g.scr.setNum 16360 8 o.header).setNum 16368 8 o.slot0).setNum 16376 8 o.slot1 }) (world (fun sl => reg 0x80 16360 (reg 0x81 n sl)))

/-- BarrierInstructions: objects at the last place, beyond it and misaligned; what BEXP, BARV and BWAIT find in each of their cases. -/
theorem witness_BarrierInstructions :
    ([0x79, 0x7C].all (fun op => alone (barred ⟨0, 0, 0⟩ 0) op [] (form 0 0 0x80 0 0) && alone (world (reg 0x80 16364)) op [] (form 0 0 0x80 0 0) && alone (world (reg 0x80 16356)) op [] (form 0 0 0x80 0 0))) = true ∧
    ([0x7A, 0x7B].all (fun op => alone (barred ⟨0, 0, 0⟩ 0) op [] (form 0 0 0x80 0x81 0) && alone (world (reg 0x80 16364)) op [] (form 0 0 0x80 0x81 0) && alone (world (reg 0x80 16356)) op [] (form 0 0 0x80 0x81 0))) = true ∧
    ((barred (object 0 0 0 (posted 7 5) 0) 2).group 0).barrierAt 16360 = object 0 0 0 (posted 7 5) 0 ∧ (barrierLines 16360).all (fun l => !fresh.lineAbsent (fresh.group 0) l) = true ∧
    (match (object 0 0 0 5 0).post 0 7 with | .inr _ => true | .inl _ => false) = true ∧ (match (object 0 0 0 5 0).post 0 4 with | .inr _ => false | .inl _ => true) = true ∧
    ((object 0 0 0 0 0).arrive 2 1).1.mis = true ∧ (object 0 0 0 0 0).mis = false ∧ ((object 0 0 0 0 0).arrive 1 1).1.mis = false ∧ (object 0 0 1 0 0).mis = true ∧ (object 0 1 0 0 0).pois = true ∧
    (object 1 0 0 0 0).delta 0 = 3 ∧ (object 1 0 0 0 0).delta 3 = 2 ∧ (object 1 0 0 0 0).delta 2 = 1 ∧ (object 1 0 0 0 0).delta 1 = 0 ∧
    oldestReport ([(⟨0, 0, some 16360, 0, some (5, 0), false, 0, 15, 0⟩ : CopyReport)].filter (fun x => x.bad && x.barrier == some 16360)) = some ⟨0, 0, some 16360, 0, some (5, 0), false, 0, 15, 0⟩ := by
  decide +kernel

/-- CopiesAreIssued: a CPY, CPYG and CPYR whose places are sound, and ones out of the scratchpad; batches sealed and not. -/
theorem witness_CopiesAreIssued :
    (alone (world (fun sl => reg 0x84 64 (reg 0x82 0x20000 sl))) 0x70 [] (form 1 0x80 0x82 0x84 0) && alone (world (fun sl => reg 0x84 64 (reg 0x82 0x20000 sl))) 0x71 [⟨.xi, 2⟩] (form 1 0x80 0x82 0x80 0) &&
      alone (world (fun sl => reg 0x84 64 (reg 0x82 0x20000 sl))) 0x72 [] (form 1 0x82 0x80 0x84 0)) = true ∧
    copyChecks (fresh.group 0) 15 [⟨.scr, [0], 64, 1⟩, ⟨.glb, [0x20000], 64, 1⟩] 64 1 = none ∧ (copyChecks (fresh.group 0) 15 [⟨.scr, [16321], 64, 1⟩, ⟨.glb, [0x20000], 64, 1⟩] 64 1).isSome = true ∧
    copyChecks (fresh.group 0) 15 [⟨.scr, [0, 8], 8, 8⟩, ⟨.glb, [0x20000, 0x20008], 8, 1⟩, ⟨.glb, [0x20000], 0, 8⟩, ⟨.scr, [0], 8, 4⟩] 0 0 = none ∧ (scrLines 0 8).all (fun l => !fresh.lineAbsent (fresh.group 0) l) = true ∧
    copyChecks (fresh.group 0) 15 [⟨.glb, [0x20000], 64, 4⟩, ⟨.scr, [0], 64, 4⟩] 64 4 = none ∧
    (copyChecks (fresh.group 0) 15 [⟨.glb, [0x20002], 64, 4⟩, ⟨.scr, [0], 64, 4⟩] 64 4).isSome = true := by decide +kernel

/-- A copy of 128 bytes of global memory to the scratchpad. -/
def copy0 : Copy := { Copy.posted (at_ fresh 0x70 [] (form 1 0x80 0x82 0x84 0)) fresh .cpy with dsp := .scr, ssp := .glb, dst := 0, src := 0x20000, rowLen := 128, rows := 1 }

/-- The small device with some copies in its core's engine, and batches of its slice. -/
def copying (cs : List Copy) (b : CopyBatches) : State := onCore (fun k => { k with copies := cs }) (world (fun sl => { sl with copies := b }))

/-- CopiesAreIssued: CSEAL with fourteen and with fifteen batches unfinished; CWAIT with few enough, with too many, and with a fault of a finished batch. -/
theorem witness_CopiesAreIssued_batches :
    ([14, 15].all (fun n =>
      let s := copying ((List.range n).map (fun k => { copy0 with batch := k })) ⟨n, List.range n, []⟩
      alone s 0x73 [] (form 0 0x80 0 0 0) && alone s 0x74 [] (form (BitVec.ofNat 14 14) 0 0 0 0) && ((s.slice mine).copies.sealed_.filter (fun b => (s.core ⟨0, 0⟩).copies.any (fun x => x.gid == 0 && x.idx == 0 && x.batch == b))).length == n)) = true ∧
    (let s := copying [] ⟨1, [0], [⟨0, 0, none, 0, some (5, 0), false, 0, 15, 0⟩]⟩
     alone s 0x74 [] (form 0 0 0 0 0) && (s.slice mine).copies.sealed_ == [0] && ((s.slice mine).copies.reports.filter (fun x => x.bad)).length == 1) = true := by decide +kernel

/-- CopiesLand: a piece of a plain copy whose places can be had; copies stopped by a fault that is answered, unanswered and failed. -/
theorem witness_CopiesLand :
    (let s := copying [copy0] ⟨0, [], []⟩
     (s.core ⟨0, 0⟩).copies.find? (fun x => x.id == 0) = some copy0 ∧ copy0.kind = .cpy ∧ copy0.cvt = none ∧ copy0.block = none ∧ copy0.landed = [] ∧ copy0.piece 0 = some (0, 0, 128) ∧
     ((copy0.pieceLines (s.group 0) 0 0 128).1.all (fun l => !s.copyMustWait copy0 0 l true)) = true ∧ ((copy0.pieceLines (s.group 0) 0 0 128).2.all (fun l => !s.copyMustWait copy0 0 l false)) = true ∧
     (match s.sidePlaces copy0 .glb 0x20000 128 ⟨true, false, false, false⟩ 0 with
      | (v, .inl sps) => decide (sps = [(.glb 0x20000, 128)]) && (match v.sidePlaces copy0 .scr 0 128 ⟨false, true, false, false⟩ 1 with
          | (_, .inl xs) => decide (xs = [(.scr 0 0, 128)])
          | _ => false)
      | _ => false) = true ∧ (s.group? 0).isSome = true) ∧
    ([(none, false, false), (some true, false, true), (some false, true, true)] : List (Option Bool × Bool × Bool)).all (fun x =>
      let s := answered x.1 (copying [{ copy0 with block := some (.fault 5) }] ⟨0, [], []⟩)
      ((s.core ⟨0, 0⟩).copies.find? (fun y => y.id == 0)).isSome && s.failedBlock 0 (.fault 5) == x.2.1 && (s.failedBlock 0 (.fault 5) || s.blockOver 0 (s.group 0) (.fault 5) == x.2.2)) = true := by
  decide +kernel

/-- CopiesLand: pieces whose copy arrives at a barrier, whose bits are carried from the source, and whose source page is not there. -/
theorem witness_CopiesLand_forms :
    (let c : Copy := { copy0 with barrier := some (16360, 0), fe := 1 }
     let s := copying [c] ⟨0, [], []⟩
     ((c.pieceLines (s.group 0) 0 0 128).2.all (fun l => !s.copyMustWait c 0 l false)) = true ∧ 16360 % 8 = 0 ∧
     (match s.sidePlaces c .glb 0x20000 128 ⟨true, false, false, true⟩ 0 with
      | (v, .inl sps) => decide ((v.bitsAt sps).length = 16) && (match v.sidePlaces c .scr 0 128 ⟨false, true, false, true⟩ 1 with
          | (w, .inl xs) => decide (xs = [(.scr 0 0, 128)]) && decide ((w.bitsAt sps).length = 16)
          | _ => false)
      | _ => false) = true) ∧
    (let c : Copy := { copy0 with src := 0x900000000000 }
     let s := copying [c] ⟨0, [], []⟩
     c.piece 0 = some (0, 0, 128) ∧ (match s.sidePlaces c .glb 0x900000000000 128 ⟨true, false, false, false⟩ 0 with | (_, .inr (a, .fault _)) => a == 0x900000000000 | _ => false) = true) := by decide +kernel

/-- The small device with a sibling group of its unit on the next core, and a multicast in the engine. -/
def casting (c : Copy) : State :=
  let s := copying [c] ⟨0, [], []⟩
  { s with groups := s.groups ++ [{ s.group 0 with gid := 9, core := (s.group 0).core + 1 }] }

/-- Multicasts: a destination to accept with a sibling, the issuer's own beside another, one to drop beside another, and a piece to deliver. -/
theorem witness_Multicasts_engine :
    (let c : Copy := { copy0 with kind := .mcast, ssp := .scr, src := 0, index := 2, first := 0, status := some 64 }
     let s := casting c
     (s.core ⟨0, 0⟩).copies.find? (fun x => x.id == c.id) = some c ∧ (s.sibling (s.group c.gid) 1).map Group.gid = some 9 ∧ c.resolved 1 = false ∧ c.landedAt 1 ≠ 1 * 128 ∧
     (s.sibling (s.group c.gid) 0).map Group.gid = some 0 ∧ s.sibling (s.group c.gid) 2 = none ∧ 3 / 2 ^ 0 % 2 = 1 ∧ 6 / 2 ^ 2 % 2 = 1 ∧ (s.group 0).absent.contains (64 / 128) = false) ∧
    (let c : Copy := { copy0 with kind := .mcast, ssp := .scr, src := 0, index := 6, first := 0, receivers := [(1, 9)] }
     let s := casting c
     c.receivers.find? (fun x => x.1 == 1 && x.2 != c.gid && !c.resolved x.1) = some (1, 9) ∧ (s.group? 9).isSome = true ∧ (s.group? 0).isSome = true ∧ c.piece 0 = some (0, 0, 128) ∧
     c.landed.contains (1 * receiverPieces + 0) = false ∧ (scrLines 0 128).all (fun l => !s.copyMustWait c 0 l true && !s.copyMustWait c 9 l false) = true ∧ c.resolved 2 = false) := by decide +kernel

/-- Multicasts: one that is sound, with the reserved bits set, out of the cluster, and beyond the scratchpad; the last destination of one, where no sibling runs. -/
theorem witness_Multicasts :
    ([0, 0x80, 0x7, 0x60].all (fun cw => alone (world (fun sl => reg 0x80 0xFFFFFFFF (reg 0x82 64 (reg 0x83 (word cw) sl)))) 0x80 [] (form 3 0x80 0x81 0x82 0x83))) = true ∧
    (0x80 / 2 ^ 7 % 2 ^ 9 = 1) ∧ ((7 + 1) / 8 ≠ (fresh.group 0).core / 8) ∧ 95 < 0x60 + 0 ∧ copyChecks (fresh.group 0) 15 [⟨.scr, [0], 64, 1⟩, ⟨.scr, [], 8, 8⟩] 64 0 = none ∧
    (copyChecks (fresh.group 0) 15 [⟨.scr, [16384], 64, 1⟩, ⟨.scr, [], 8, 8⟩] 64 0).isSome = true ∧
    (let c : Copy := { copy0 with kind := .mcast, index := 2, first := 0, status := some 64 }
     let s := copying [c] ⟨0, [], []⟩
     (s.core ⟨0, 0⟩).copies.find? (fun x => x.id == c.id) = some c ∧ c.index / 2 ^ 1 % 2 = 1 ∧ c.resolved 1 = false ∧ c.receivers = [] ∧ s.sibling (s.group 0) 1 = none ∧
     (List.range 8).all (fun i => i == 1 || c.index / 2 ^ i % 2 == 0) = true) := by decide +kernel

/-- A barrier slot at the cluster with `n` of three arrivals. -/
def slot (n : Nat) : BarrierSlot := ⟨1, (fresh.group 0).hbarPlace 1, 0, 0, 0, 3, n, []⟩

/-- GroupBarriers: the last slice to arrive and one of two, armed flags and none; HBAR at its levels and counts; a slot that counts, that is complete, and that expects another count. -/
theorem witness_GroupBarriers :
    (alone fresh 0x7D [] (form 0 0 0 0 0) && (fresh.group 0).slices.zipIdx.all (fun x => x.1.ended || x.1.atGsync || x.2 == 0) && (armedTrap (fresh.slice mine) false 15).isNone) = true ∧
    ((two false).group 0).slices.zipIdx.all (fun x => x.1.ended || x.1.atGsync || x.2 == 0) = false ∧
    (let s := world (fun sl => { sl with fmt := 0x20, xf := Lanes.all 1 })
     alone s 0x7D [] (form 0 0 0 0 0) && (armedTrap (s.slice mine) false 15).isSome) = true ∧
    ([(0, 0), (1, 1), (2, 1), (3, 1), (4, 2)] : List (Nat × Nat)).all (fun x => alone (world (reg 0x80 (word x.2))) 0x81 [] (form (BitVec.ofNat 14 x.1) 0 (if x.1 = 0 then 0 else 0x80) 0 0)) = true ∧
    (alone (world (reg 0x80 0x1000000)) 0x81 [] (form 1 0 0x80 0 0) && fresh.hbarFull 0 [0] && !(two false).hbarFull 0 [0] && fresh.slotFor 0 1 0 && (fresh.slice mine).hbarWait.isNone && fresh.barriers.isEmpty) = true ∧
    (let s (n : Nat) : State := { fresh with barriers := [slot n] }
     [1, 2].all (fun n => decide ((s n).barriers.find? (fun b => b.level == 1 && b.place == ((s n).group 0).hbarPlace 1 && b.part == ((s n).group 0).part && b.id == 0 &&
       b.key == ((s n).recordOf ((s n).group 0).uid).levels.toNat) = some (slot n)))) = true ∧ (slot 1).count + 1 ≠ 3 ∧ (slot 2).count + 1 = 3 ∧
    (({ fresh with hbarWaiting := [(0, 1, 0, 3)] }).hbarWaiting.drop 0).head? = some (0, 1, 0, 3) ∧ ({ fresh with hbarWaiting := [(0, 1, 0, 3)] }).slotFor 0 1 0 = true ∧
    ({ fresh with barriers := (List.range 16).map (fun k => { slot 1 with id := k + 1 }) }).slotFor 0 1 0 = false ∧ fresh.coordinator = [] := by decide +kernel

/-- GroupBarriers: a group of one that waits for a slot, is counted, completes and misses; a group of two with one waiting on other operands; the coordinator in this package; arrivals there with a slot that is new, that counts, that completes and that expects another count, and with none free; waiting ones. -/
theorem witness_GroupBarriers_slots :
    (let hbar (n : Nat) (bs : List BarrierSlot) (sl : Slice → Slice) : State := { world (fun x => sl (reg 0x80 (word n) x)) with barriers := bs }
     ([(hbar 3 ((List.range 16).map (fun k => { slot 1 with id := k + 1 })) id, false), (hbar 3 [slot 1] id, true), (hbar 3 [slot 2] id, true), (hbar 2 [slot 1] id, true), (hbar 3 [] id, true)] : List (State × Bool)).all (fun x =>
       alone x.1 0x81 [] (form 1 0 0x80 0 0) && x.1.hbarFull 0 [0] && x.1.slotFor 0 1 0 == x.2 && (x.1.slice mine).hbarWait.isNone && (x.1.group 0).slices.length == 1) &&
     alone (hbar 2 [] id) 0x81 [] (form 4 0 0x80 0 0) && (hbar 2 [] id).hbarFull 0 [0] && (hbar 2 [] id).slotFor 0 4 0 &&
     (hbar 2 [] id).coordinatorOf ((hbar 2 [] id).group 0).part ((hbar 2 [] id).hbarKey ((hbar 2 [] id).group 0) 4) == (hbar 2 [] id).package) = true ∧
    (let s := (world (reg 0x80 3)).modGroup 0 (fun g => { g with slices := g.slices ++ [{ Slice.start 128 (dword programBase) with sub := 1, wait := some (.hbar 1 0 2 15 0 false) }] })
     alone s 0x81 [] (form 1 0 0x80 0 0) && s.hbarFull 0 [0] && (s.slice ⟨0, 1⟩).hbarWait == some (1, 0, 2)) = true ∧
    (let m : JobArrival := { package := 0, part := 0, job := 5, id := 1, expected := 3, gid := 0 }
     let job (n expected : Nat) : JobSlot := ⟨5, 1, expected, n, []⟩
     ([([], true), ([job 1 3], true), ([job 2 3], true), ([job 1 2], true), ((List.range 16).map (fun k => { job 1 3 with id := k + 2 }), false)] : List (List JobSlot × Bool)).all (fun x =>
       ((x.1.find? (fun y => y.job == m.job && y.id == m.id)).isSome || decide ((x.1.filter (fun y => y.job == m.job)).length < 16)) == x.2) = true ∧
     ({ fresh with jobWaiting := [m] }.jobWaiting.drop (0 - fresh.hbarWaiting.length)).head? = some m ∧ fresh.hbarWaiting.length ≤ 0) := by decide +kernel

/-! ### Witnesses: the matrix engine and the Mint -/

/-- The slice with `n` commands in its open batch. -/
def batched (n : Nat) (sl : Slice) : Slice := { sl with matrix := { sl.matrix with openCommands := n } }

/-- MatrixInstructions: each instruction with room in its open batch and without; tiles, blocks, lists and tensors in the scratchpad, out of it and misaligned; elements of MACCR in the tile and beyond. -/
theorem witness_MatrixInstructions :
    ([0, 254, 255].all (fun n => ([(0x91, form 0 0 0x80 0 0), (0x92, form 0 0 0 0 0), (0x93, form 1 0 0 0 0), (0x94, form 0 0 0x80 0 0), (0x99, form 0 0 0 0 0), (0x95, form 0 0 0x80 0 0), (0x97, form 0 0 0x80 0x81 0),
      (0x98, form 32 0 0x80 0x81 0), (0x9A, form 0 0 0x80 0xC1 0), (0x9A, form 0 0 0x80 0xC0 0), (0x9D, form 0 0 0x80 0x81 0x82)] : List (Nat × WForm)).all (fun x => alone (world (batched n)) x.1 [] x.2))) = true ∧
    ([(0x95, form 0 0 0x80 0 0), (0x97, form 0 0 0x80 0x81 0), (0x98, form 32 0 0x80 0x81 0), (0x9A, form 0 0 0x80 0xC1 0), (0x9D, form 0 0 0x80 0x81 0x82)] : List (Nat × WForm)).all (fun x =>
      [16384, 16383, 2].all (fun n => alone (world (reg 0x80 (word n))) x.1 [] x.2)) = true ∧
    (copyChecks (fresh.group 0) 15 [⟨.scr, [0], 4, 4⟩] 0 0 = none ∧ (copyChecks (fresh.group 0) 15 [⟨.scr, [16384], 4, 4⟩] 0 0).isSome = true) ∧
    (alone fresh 0x9E [] (form 0 8 0 4 0) && alone (world (reg 4 32)) 0x9E [] (form 0 8 0 4 0) && ((world (reg 4 32)).slice mine).operand 0 4 3 == 32) = true := by decide +kernel

/-- A layout record of one element, as 32 bytes; the mask programs of one operation, of none, and with a reserved bit. -/
def record : List Byte := [0, 0, 0x80, 0, 0, 0, 0, 0, 1, 0, 1, 0, 1, 0, 1, 0] ++ List.replicate 16 0

/-- The record or program stored in the scratchpad and in global memory. -/
def stored (bs : List Byte) : State := let s := onGroup (fun g => { g with scr := g.scr.setBytes 64 bs }) (world (fun sl => reg 0x80 64 (reg 0x82 0x20000 sl))); { s with mem := s.mem.setBytes 0x20000 bs }

/-- MatrixInstructions: MLAY and MMASK of records that are sound, of ones that break a rule, and of addresses that are none. -/
theorem witness_MatrixInstructions_records :
    (let s := stored record
     alone s 0x90 [] (form 0 0 0x80 0x85 0) && alone s 0x90 [] (form 8 0 0x82 0x85 0) && (s.group 0).scr.bytesAt 64 32 == record && (scrLines 64 32).all (fun l => !s.lineAbsent (s.group 0) l) &&
       ((s.group 0).scr.poisonAt 8 64 32).isNone && (match (readOnce (at_ s 0x90 [] (form 8 0 0x82 0x85 0)) s true 0x20000 32 8).2 with | .inl bs => bs == record | .inr _ => false)) = true ∧
    ([record.set 8 0, record.set 2 0x10, record.set 3 1, record.set 16 1].all (fun bs => alone (stored bs) 0x90 [] (form 0 0 0x80 0x85 0) && ((stored bs).group 0).scr.bytesAt 64 32 == bs)) = true ∧
    ([[1, 0, 0, 0, 0, 0, 0, 0x10], [0, 0, 0, 0, 0, 0, 0, 0], [9, 0, 0, 0, 0, 0, 0, 0], [16, 0, 0, 0, 0, 0, 0, 0], [1, 0, 0, 0, 0, 0, 0, 0x11], [1, 0, 0, 0, 0, 0, 0, 0x80]].all (fun bs =>
      alone (stored bs) 0x96 [] (form 0 0 0x80 0 0) && alone (stored bs) 0x96 [] (form 4 0 0x82 0 0) && ((stored bs).group 0).scr.bytesAt 64 8 == bs)) = true ∧
    ([16384, 68].all (fun n => alone (world (reg 0x80 n)) 0x90 [] (form 0 0 0x80 0x85 0))) = true ∧ ([16384, 66].all (fun n => alone (world (reg 0x80 n)) 0x96 [] (form 0 0 0x80 0 0))) = true ∧
    ([(0x80, 0x20004), (0x81, 0x1000000)].all (fun x => alone (world (reg x.1 x.2)) 0x90 [] (form 8 0 0x80 0x85 0) && alone (world (reg x.1 (x.2 + 2))) 0x96 [] (form 4 0 0x80 0 0))) = true := by
  decide +kernel

/-- The slice whose open batch is `n`, with some sealed batches. -/
def matrixAt (n : Nat) (left : Nat) (xs : List MatrixBatch) (sl : Slice) : Slice := { sl with matrix := ⟨0, xs, { MatrixBatch.opened n with left := left }⟩ }

/-- MatrixBatchesFinish: MBATCH of a batch that has finished, has commands left, has failed, with and without a barrier, with fifteen and sixteen unfinished, and at addresses that are none; MWAIT on batches that finished, did not, failed, are unsealed and too old. -/
theorem witness_MatrixBatchesFinish :
    ([matrixAt 1 0 [], matrixAt 1 3 [], fun sl => { sl with matrix := ⟨0, [], { MatrixBatch.opened 1 with error := some (4, 2) }⟩ }, matrixAt 20 1 ((List.range 15).map (fun k => { MatrixBatch.opened k with left := 1 })),
      matrixAt 20 1 ((List.range 16).map (fun k => { MatrixBatch.opened k with left := 1 }))].all (fun f => alone (world f) 0x9B [] (form 0 0 0 0 0) && alone (world f) 0x9B [] (form 1 0x84 0x80 0x81 0))) = true ∧
    ([16368, 4].all (fun n => alone (world (reg 0x80 n)) 0x9B [] (form 1 0 0x80 0x81 0))) = true ∧ (barrierLines 0).all (fun l => !fresh.lineAbsent (fresh.group 0) l) = true ∧
    ([(1, [MatrixBatch.opened 0], 0), (1, [{ MatrixBatch.opened 0 with left := 1 }], 0), (1, [{ MatrixBatch.opened 0 with error := some (4, 2) }], 0), (2 ^ 31, [], 0), (0, [], 0), (2 ^ 31 + 1, [], 0)] :
      List (Nat × List MatrixBatch × Nat)).all (fun x => alone (world (matrixAt x.1 0 x.2.1)) 0x9C [] (form 0 0 0x80 0 0) &&
        ((x.1 + 2 ^ 32 - uni (at_ fresh 0x9C [] (form 0 0 0x80 0 0)) (world (matrixAt x.1 0 x.2.1)) 0x80) % 2 ^ 32 == x.1)) = true := by decide +kernel

/-- A command of the small slice at the head of the engine's queue. -/
def engine (m : Matrix) (op : MatrixOp) : State := onCore (fun k => { k with matrix := { m with queue := [⟨0, 0, 0, 0, 15, false, 4, op⟩] } }) fresh

/-- A layout of `q` rows of `k` f16 elements, and one of too many rows. -/
def layout (k q : Nat) : LayoutRecord := ⟨0, 8, k, 1, q, 1, 2, 0, 2, 0⟩

/-- An engine with a layout, a stage, a panel and a mask program. -/
def loaded : Matrix :=
  { Matrix.clear with
    records := Matrix.clear.records.set 0 (some (layout 1 1)) |>.set 1 (some (layout 1 33)) |>.set 2 (some (layout 2048 17))
    stages := [some ⟨[[.fin false 1 0]], 1, 8, layout 1 1, none, 0, []⟩, none]
    panels := [⟨0, 64, 1, 8, [[packGroup 0 [0x3C00]]], layout 1 1, 0, []⟩, ⟨64, 64, 2, 8, [[packGroup 0 [0x3C00, 0x3C00]]], layout 2 1, 0, []⟩, ⟨128, 64, 1, 0, [[packGroup 0 [1]]], layout 1 1, 0, []⟩]
    masks := [some [⟨1, 0, 0⟩], none, none, none] }

/-- The hypotheses of MatrixCommands for a command. -/
def heads (op : MatrixOp) : Bool :=
  let s := engine loaded op
  let m := (s.core ⟨0, 0⟩).matrix
  let g := s.group 0
  m.queue.map (fun c => c.op) == [op] && m.tiles.length == 4 && decide (0 < g.slices.length) &&
    (s.slice mine).matrix.openBatch.num == 0 && (s.slice mine).matrix.sealed_.isEmpty

/-- No line of the small group's scratchpad is absent. -/
theorem engine_present (m : Matrix) (op : MatrixOp) (l : Nat) : (engine m op).lineAbsent ((engine m op).group 0) l = false := by
  have h1 : ((engine m op).group 0).absent = [] := rfl
  have h2 : ((engine m op).group 0).pageState = List.replicate 4 .pinned := rfl
  have h3 : (engine m op).dieCopies ((engine m op).group 0).die = [] := rfl
  have h4 : ((engine m op).group 0).unpinBound (l / 32) = none := by
    rw [Group.unpinBound, h2]
    rcases l / 32 with _ | _ | _ | _ | k <;> rfl
  rw [State.lineAbsent, h1, h3, h4]
  rfl

/-- MatrixCommands: loads and lists. -/
theorem witness_MatrixCommands_loads : ([.lay 0 (layout 1 1), .lay 7 (layout 1 1), .ldb 0 0, .ldb 3 0, .ldb 1 0, .ldb 0 4095, .ldb 0 4096, .lda 0 0, .lda 1 3, .lda 1 1, .lda 0 2] : List MatrixOp).all heads = true := by decide +kernel

/-- MatrixCommands: gathers and clears. -/
theorem witness_MatrixCommands_gathers : ([.gather 0 0 0 1, .gather 0 3 0 1, .gather 0 0 4 2, .gather 1 2 0 32, .zero 5] : List MatrixOp).all heads = true := by decide +kernel

/-- MatrixCommands: products, masks and transposes. -/
theorem witness_MatrixCommands_products : ([.mma 3 8 0, .mma 0 9 0, .mma 0 3 0, .mma 0 1 0, .mma 0 0 0, .mma 0 8 3, .mma 0 8 1, .mma 0 8 2, .mam 3 0 0, .mam 0 1 0, .mask 3 [⟨1, 0, 0⟩], .trans 3 0] : List MatrixOp).all heads = true := by decide +kernel

/-- MatrixCommands: tiles and elements. -/
theorem witness_MatrixCommands_tiles : ([.ldc 3 8 false 0 64, .st 3 8 false 0 64 0 false, .accr 3 8 false 8 [0, 1, 2, 31] [31, 2, 1, 0] 0 false] : List MatrixOp).all heads = true := by decide +kernel

/-- MatrixCommands: tensor contractions. -/
theorem witness_MatrixCommands_tensors : ([.stc 0 false 0 4096 8192 0, .stc 2 true 0 4096 8192 0] : List MatrixOp).all heads = true := by decide +kernel

/-- MatrixCommands: what the cases of loads and of MMA turn on. -/
theorem witness_MatrixCommands_cases :
    (loaded.records.getD 3 none).isNone = true ∧ 32 < (layout 1 33).e2 * (layout 1 33).e3 ∧ 64 * 0 + panelBytes 1 8 ≤ 2 ^ 18 ∧ 2 ^ 18 < 64 * 4095 + panelBytes 1 8 ∧ 2 ^ 16 < 17 * ((2048 + 15) / 16) * groupBytes 8 ∧ 1 * ((1 + 15) / 16) * groupBytes 8 ≤ 2 ^ 16 ∧
    (loaded.stages.getD 1 none).isNone = true ∧ loaded.panels.find? (fun p => p.start == 64 * 3) = none ∧ (loaded.panels.find? (fun p => p.start == 64 * 1)).map (fun p => p.k) = some 2 ∧
    (loaded.panels.find? (fun p => p.start == 64 * 2)).map (fun p => p.fmt) = some 0 ∧ (loaded.panels.find? (fun p => p.start == 64 * 0)).map (fun p => (p.k, p.fmt)) = some (1, 8) ∧
    ((onGroup (fun g => { g with scr := g.scr.setNum 4 4 1 }) fresh).group 0).scr.num 4 4 = 1 := by decide +kernel

/-- MintInstructions: each instruction whose checks hold, and one that fails each kind of check; MNWAIT with nothing posted, with a command posted, and with a failure pending. -/
theorem witness_MintInstructions :
    ([0, 8, 4, 16384, 16376, 65536, 4096, 0x7F800000, 0x80000000, 0x80000001] : List Nat).all (fun n =>
      ([(0xB0, form 0 0 0x80 0 0), (0xB1, form 0 0 0x80 0xC1 0), (0xB1, form 0 0 0x80 0xC0 0), (0xB2, form 0 0 0x80 0 0), (0xB2, form 1 0 0x80 0xC1 0), (0xB3, form 0 0 0x80 0 0), (0xB3, form 1 0 0x80 0 0), (0xB4, form 0 0 0x80 0 0),
        (0xB5, form 1 0 0x80 0 0), (0xB6, form 0 0 0x80 0 0), (0xB7, form 0 0 0x80 0 0), (0xB8, form 0 8 0x80 0 0), (0xB9, form 0 0 0x80 0 0), (0xB9, form 1 0 0x80 0 0)] : List (Nat × WForm)).all
        (fun x => alone (world (reg 0x80 (word n))) x.1 [] x.2)) = true ∧
    (alone fresh 0xB3 [] (form 2 0 0 0 0) && alone fresh 0xBB [] (form 0 0 0 0 0) && alone fresh 0xBB [] (form 1 0 0 0 0) && alone (world (reg 0x81 0x1000000)) 0xB0 [] (form 0 0 0x80 0 0)) = true ∧
    ([id, fun sl => { sl with mintPosted := 1 }, fun sl => { sl with mintFailures := [⟨0x15, 4, 6⟩] }] : List (Slice → Slice)).all (fun f => alone (world f) 0xBA [] (form 0 0 0 0 0)) = true := by decide +kernel

/-- A command of the small slice at the head of the Mint's queue. -/
def mint (m : Mint) (op : MintOp) : State := onCore (fun k => { k with mint := { m with queue := [⟨0, 0, 0, 15, 4, op⟩] } }) (onGroup (fun g => { g with scr := (g.scr.setNum 64 4 0x7F800000).setNum 100 4 16 }) fresh)

/-- MintCommands: a command of each kind, in each of its cases. -/
theorem witness_MintCommands :
    ([(Mint.clear, .beta 0x3F800000), (Mint.clear, .bias 0 16), (Mint.clear, .bias 0 17), (Mint.clear, .clamp 0), ({ Mint.clear with clearing := true }, .clamp 0), (Mint.clear, .clampOne 4095 true), ({ Mint.clear with clearing := true }, .clampOne 0 false),
      (Mint.clear, .free 0), (Mint.clear, .freeOne 4095), (Mint.clear, .freeAll), (Mint.clear, .stateLoad 0), ({ Mint.clear with clearing := true }, .stateLoad 0), (Mint.clear, .stateStore 0), (Mint.clear, .read 0 8), (Mint.clear, .reset false),
      (Mint.clear, .reset true), (Mint.clear, .sweep 0), (Mint.clear, .pick 1), ({ Mint.clear with cpv := true, physical := true, asyf := true }, .sweep 1), ({ Mint.clear with cpv := true }, .sweep 65535), (Mint.clear, .mode true true true 0),
      ({ Mint.clear with clearing := true }, .mode false true false 0), (Mint.clear, .mode true false false 64), ({ Mint.clear with asyf := true }, .mode true false false 96), (Mint.clear, .mode false false true 96), ({ Mint.clear with table := [(0, 1, 7)] }, .mode false false true 96), (Mint.clear, .cpl 0x20000)] :
      List (Mint × MintOp)).all (fun x =>
        let s := mint x.1 x.2
        let m := (s.core ⟨0, 0⟩).mint
        m.queue.map (fun c => c.op) == [x.2] && m.current.isNone && m.joining.isNone && !m.stale && m.block.isNone && m.poisoned.isEmpty && (scrLines x.2.reads.1 x.2.reads.2 ++ scrLines x.2.writes.1 x.2.writes.2).all (fun l => !s.lineAbsent (s.group 0) l) &&
          (x.2.reads.2 == 0 || ((s.group 0).scr.poisonAt 8 x.2.reads.1 x.2.reads.2).isNone) && !(s.slice mine).ended) = true := by decide +kernel

/-- MintCommands: a coupling image that is none, and one that cannot be read yet. -/
theorem witness_MintCommands_image :
    (match (mint Mint.clear (.cpl 0x20000)).readImage ⟨0, 0⟩ 0 0 0x20000 with | (_, .invalid _) => true | _ => false) = true ∧
    (match (unmapped (mint Mint.clear (.cpl 0x20000))).readImage ⟨0, 0⟩ 0 0 0x20000 with | (_, .stopped _ (.fault _)) => true | _ => false) = true := by decide +kernel


/-- R246, R252: panel column 0 of the example holds 2.0 at k = 0 and 4.0 at k = 1; its header's presence mask is 0x0003, and the decompressor restores every value. -/
theorem test_panel_group :
    let g := packGroup 0 (0x4000 :: 0x4400 :: List.replicate 14 0)
    g.header = 0x00030000 ∧ g.packed = [0x4000, 0x4400] ∧ g.values 8 16 = (0x4000 :: 0x4400 :: List.replicate 14 0).map (decodeCode 8) := by decide +kernel

/-- R251, R252: +∞ and NaN times an absent position give NaN with NV; a finite A gives a zero of its sign. -/
theorem test_absent_product :
    let b := decodeCode 8 0
    (mmaProduct (.inf false) b).flags = flagNV ∧ (mmaProduct (.nan false) b).flags = flagNV ∧ (mmaProduct (.fin true 3 0) b).num.isNeg = true ∧ (mmaProduct (.nan false) (decodeCode 8 0x3C00)).flags = 0 := by decide +kernel
/-! ### Witnesses: sweeps and clearing -/

/-- A coupling image of two coins of one colour with a boundary coin. -/
def couplings : Couplings := ⟨[[(256, 1)], [(-256, 0)]], [[(128, 0)], []]⟩

/-- A sweep or step command of the small slice. -/
def sweeping (op : MintOp) : MintCommand := ⟨0, 0, 0, 15, 4, op⟩

/-- The small device whose first Mint is under way with a command. -/
def sweeps (op : MintOp) (left : Nat) (m : Mint) : State :=
  onCore (fun k => { k with mint := { m with coupling := some couplings, image := some ⟨0x20000, 0, 2, 1, 1, 1, 1⟩, colours := [0, 0], table := [(0, 1, 7)], queue := [sweeping op], current := some (sweeping op, left), biases := [256, -256], beta := 0x3F800000 } }) fresh

/-- A Mint that clears: it has had label 0 of a publisher, or nothing, and serves a subscriber. -/
def clearing (got : Bool) (stalled : Option Nat) : Mint :=
  { Mint.clear with clearing := true, subs := [(0, 1, [7])], served := [⟨0, 2, [0, 1]⟩], stalled := stalled, tmo := 64
                    epochs := [(0, 1, 0)], received := if got then [⟨0, 1, 0, [(7, true)]⟩] else [], firstLabels := if got then [(0, 1, 0)] else [] }

/-- MintSweeps: sweeps and steps, the last and one of three, in a Mint that clears and in one that does not, and one that stalls for the first time and again. -/
theorem witness_MintSweeps :
    ([(.sweep 3, 1), (.sweep 3, 3), (.pick 2, 1), (.pick 2, 2)] : List (MintOp × Nat)).all (fun x =>
      [(Mint.clear, false), (clearing true none, false), (clearing false none, true), (clearing false (some 3), true)].all (fun y =>
        let s := sweeps x.1 x.2 y.1
        let m := (s.core ⟨0, 0⟩).mint
        m.current == some (sweeping x.1, x.2) && m.queue == [sweeping x.1] && (s.mintStall ⟨0, 0⟩).isSome == y.2 && m.coupling == some couplings && m.nc == 2 && m.ncol == 1 && !m.stale && !m.physical && m.clearing == y.1.clearing)) = true := by
  decide +kernel

/-- MintSweeps: a step whose weights are none, for both coins are clamped, and one whose weights are some. -/
theorem witness_MintSweeps_weights : flipWeight 0 ≠ 0 ∧ ((sweeps (.pick 1) 1 Mint.clear).core ⟨0, 0⟩).mint.nc = 2 ∧ Mint.clear.clamps.getLsbD 0 = false ∧ ({ Mint.clear with clamps := 3 }).clamps.getLsbD 1 = true := by decide +kernel

/-- A publication of label 5 from the second core of the first die to the first, or a subscription there. -/
def packet (label : Option Word) (first : Bool) (held : Option Nat) : ClearPacket := ⟨0, 1, 0, 0, label, [7], [true], first, if first then 1 else 0, held⟩

/-- Clearing: publications that arrive at a subscriber, at one that is not, held, and of a new epoch; subscriptions served, refused and held; a stall short of its limit, at it, and without one. -/
theorem witness_Clearing :
    ([(some 5, false, none), (some 5, true, none), (some 5, false, some 3), (none, false, none), (none, false, some 3)] : List (Option Word × Bool × Option Nat)).all (fun x =>
      let s := { sweeps (.sweep 3) 1 (clearing true none) with clearPackets := [packet x.1 x.2.1 x.2.2] }
      (s.clearPackets.drop 0).head? == some (packet x.1 x.2.1 x.2.2) && (s.core ⟨0, 0⟩).mint.subs.any (fun y => y.1 == 0 && y.2.1 == 1) && (s.core ⟨0, 0⟩).mint.started.isNone &&
        ((s.core ⟨0, 0⟩).mint.firstLabel 0 1).isSome && !((Mint.clear).subs.any (fun y => y.1 == 0))) = true ∧ (clearing false none).firstLabel 0 1 = none ∧
    ((clearing true none).served.filter (fun x => !(x.die == 0 && x.core == 1))).length < 32 ∧
    32 ≤ (((List.range 32).map (fun k => (⟨0, 10 + k, []⟩ : Served))).filter (fun x => !(x.die == 0 && x.core == 1))).length ∧
    [(some 63, 64), (some 64, 64), (some 3, 0)].all (fun x =>
      let s := sweeps (.sweep 3) 1 { clearing false x.1 with tmo := x.2 }
      let m := (s.core ⟨0, 0⟩).mint
      m.stalled == x.1 && m.current == some (sweeping (.sweep 3), 1) && (s.mintStall ⟨0, 0⟩).isSome && decide (0 < (s.group 0).slices.length) && m.tmo == x.2) = true := by decide +kernel


/-- Clearing: an MNMODE and an image load that wait for one subscription, each refused or taken. -/
theorem witness_Clearing_joining :
    let m (does : LoadedImage ⊕ ModeWrite) (r : Bool) : Mint := { clearing true none with joining := some ⟨⟨0, 0, 0, 15, 4, .cpl 0x20000⟩, does, r⟩, queue := [⟨0, 0, 0, 15, 4, .cpl 0x20000⟩] }
    ([.inr ⟨some (true, 5), some 7, some (true, 2, 100)⟩, .inl ⟨⟨0x20000, 0, 2, 0, 0, 0, 1⟩, [0, 0], [], ⟨[], []⟩, 0⟩] : List (LoadedImage ⊕ ModeWrite)).all (fun d =>
      let s : State := { onCore (fun k => { k with mint := m d false }) fresh with clearPackets := [⟨0, 0, 0, 1, none, [7], [], false, 0, none⟩] }
      (s.clearPackets.eraseIdx 0).isEmpty && (s.core ⟨0, 0⟩).mint.joining.isSome && decide (0 < (s.group 0).slices.length) && ((s.core ⟨0, 1⟩).mint.served).isEmpty) = true := by decide +kernel

/-- R281, R287, R408: an MNMODE whose one subscription is taken enables clearing then; refused, it changes nothing. -/
theorem test_mode_joins :
    let w : ModeWrite := ⟨none, some 7, some (true, 2, 100)⟩
    let s (n : Nat) : State := { onCore (fun k => { k with mint := { Mint.clear with subs := [(0, 1, [7])], joining := some ⟨⟨0, 0, 0, 15, 4, .freeAll⟩, .inr w, false⟩, queue := [⟨0, 0, 0, 15, 4, .freeAll⟩] } }) fresh with
      clearPackets := [⟨0, 0, 0, 1, none, [7], [], false, 0, none⟩] } |>.modMint ⟨0, 1⟩ (fun m => { m with served := (List.range n).map (fun k => (⟨1, k, []⟩ : Served)) })
    let after (n : Nat) : Mint := match exec (.subscription 0) (s n) with | .next t => (t.core ⟨0, 0⟩).mint | _ => Mint.clear
    (after 0).clearing = true ∧ (after 0).sweep = 7 ∧ (after 32).clearing = false ∧ (after 32).sweep = 0 ∧ (after 32).last = 7 := by decide +kernel
/-! ### Witnesses: atomics and transactions -/

/-- The accesses of the atomics of a small slice, with their opcodes and forms: destination `v8` where they return, address `s0`, data `v12` and `v16`. -/
def atomics (s : State) : List (Nat × WForm × Access) :=
  let c (op : Nat) (w : WForm) : Ctx := at_ s op [] w
  let f1 : WForm := form 0 8 0x80 12 16
  let f7 : WForm := form 7 8 0x80 12 16
  let f0 : WForm := form 7 0 0x80 12 16
  let sl := s.slice mine
  [(0xC0, f7, atomAccess (.atom 7 0) true 4 1 1 1 0 (c 0xC0 f7) sl), (0xC1, f0, atomAccess (.atom 7 0) false 4 1 1 1 0 (c 0xC1 f0) sl), (0xC2, f1, atomAccess (.routine 0) true 1 2 2 2 0 (c 0xC2 f1) sl),
   (0xC3, f1, atomAccess .bfins true 8 2 2 2 0 (c 0xC3 f1) sl), (0xC4, form 0 8 0x80 0 0, atomAccess .bffcs true 8 1 1 1 0 (c 0xC4 (form 0 8 0x80 0 0)) sl), (0xC5, f1, atomAccess .bfpls true 8 1 2 1 0 (c 0xC5 f1) sl),
   (0xC9, f1, atomAccess .atomw true 16 4 4 4 0 (c 0xC9 f1) sl)]

/-- The device whose partition holds a routine in slot 0. -/
def routined (s : State) : State := { s with partitions := s.partitions.map (fun (p : Partition) => { p with routines := p.routines.set 0 (some []) }) }

/-- The place of every lane. -/
def glb2 (_ : Nat) : Place := .glb 0x20000

/-- The slice whose pair `s0` names an address. -/
def named (hi lo : Word) : State := world (fun sl => reg 0x81 hi (reg 0x80 lo sl))

/-- AtomicInstructions: each atomic with every lane on one word; the slot of ATOMP empty and not. -/
theorem witness_AtomicInstructions :
    (atomics (routined (named 0 0x20000))).all (fun x =>
      let s := routined (named 0 0x20000)
      let c := at_ s x.1 [] x.2.1
      let s1 := if x.2.2.returns then s.emptied c x.2.2 else s
      alone s x.1 [] x.2.1 && arrives c s1 x.2.2 glb2 && (s1.slotMissing mine x.2.2 == false) && x.2.2.todo.all (fun i => (s1.poisonPlace (glb2 i) x.2.2.size).isNone)) = true ∧
    (match (atomics (named 0 0x20000)).find? (fun x => x.1 == 0xC2) with
     | some x => arrives (at_ (named 0 0x20000) 0xC2 [] x.2.1) ((named 0 0x20000).emptied (at_ (named 0 0x20000) 0xC2 [] x.2.1) x.2.2) x.2.2 glb2 && (named 0 0x20000).slotMissing mine x.2.2
     | none => false) = true := by decide +kernel

/-- AtomicInstructions: addresses that are none, misaligned ones, and ones beyond the scratchpad. -/
theorem witness_AtomicInstructions_checks :
    ([named 0x1000000 0x20000, named 0 0x20002]).all (fun s => (atomics s).all (fun x => alone s x.1 [] x.2.1 && x.2.2.ea.get 0 == joinWords ((s.slice mine).reg 0x80 0) ((s.slice mine).reg 0x81 0))) = true ∧
    ([(0xC0, form 0x87 8 0x80 12 16), (0xC1, form 0x87 0 0x80 12 16), (0xC3, form 1 8 0x80 12 16), (0xC4, form 1 8 0x80 0 0), (0xC5, form 1 8 0x80 12 16)] : List (Nat × WForm)).all
      (fun x => alone (named 0 0x4000) x.1 [] x.2) = true := by decide +kernel

/-- AtomicInstructions: one lane that meets an unmapped page, and one that meets a page without permission. -/
theorem witness_AtomicInstructions_pages :
    ([unmapped (world lane3), unreadable (world lane3)]).all (fun s => (atomics s).all (fun x =>
      let c := at_ s x.1 [] x.2.1
      let s0 := s.closing c.g [c]
      let s1 := if x.2.2.returns then s0.emptied c x.2.2 else s0
      alone s x.1 [] x.2.1 && x.2.2.todo == [3] && (match (s1.spots mine x.2.2 none false [3]).2 with | [(3, .fault _)] => (s.core ⟨0, 0⟩).tlb.isEmpty | [(3, .denied 2)] => true | _ => false))) = true := by decide +kernel

/-- An open transaction that wrote a byte, with or without a conflict. -/
def opened (conflict : Bool) : Transaction := ⟨dword programBase, 0, 15, 0, [(0x20000 / 128, true)], [], [(0x20000, 7)], [], conflict⟩

/-- The slice in a transaction, waiting for its commit or not. -/
def inTx (conflict waits : Bool) (sl : Slice) : Slice := { sl with tx := some (opened conflict), wait := if waits then some (.commit 15) else none }

/-- Transactions: TXB, TXC and TXA with a transaction open and without; a conflict and none; a commit unit whose first slice has met one, and not. -/
theorem witness_Transactions :
    ([fresh, world (inTx false false)]).all (fun s => alone s 0xC6 [] (form 0 0 0 4 0) && alone s 0xC7 [] (form 0 0 0 0 0) && alone s 0xC8 [] (form 0x80 0 0 0 0)) = true ∧
    (fresh.slice mine).tx = none ∧ ((world (inTx true false)).slice mine).tx = some (opened true) ∧ ((world (inTx false false)).slice mine).tx = some (opened false) ∧ mine.idx < (fresh.group 0).slices.length ∧
    ([true, false].all (fun b => let s := (world (inTx b true)).modDie 0 (fun d => { d with commits := [mine] })
      (s.die 0).commits == [mine] && (s.slice mine).tx == some (opened b) && (s.slice mine).wait == some (.commit 15))) = true ∧
    ((opened false).buffer.map Prod.fst).Nodup ∧ (opened false).depth ≤ (fresh.slice mine).depth ∧ (fresh.slice mine).spilled = 0 := by decide +kernel

/-! ### Witnesses: package work -/

/-- The device with a page table that maps the low addresses as the core's TLB does, and two pages of 4 KiB, in device memory, at 2^30. -/
def tabled (s : State) : State :=
  { s with
    mem := [(0x200000, 0x201003), (0x201000, 0x202003), (0x202000, 0xE3D), (0x202008, 0x203003), (0x203000, 0x204003), (0x204000, 0x1000000030003D), (0x204008, 0x1000000030103D)].foldl (fun m x => m.setNum x.1 8 x.2) s.mem
    partitions := s.partitions.map (fun (p : Partition) => { p with ptroot := 0x200000, tableNext := 0x205000, tableEnd := 0x210000 }) }

/-- A record of one slice with eight registers, on die 0; its address is 0x20000. -/
def plain : Record := { noRecord with addr := 0x20000, code := 0x10000, shape := 0x10001, placement := 1 }

/-- A record written to its address. -/
def filed (r : Record) (s : State) : State :=
  { s with mem := [r.code, r.frame, r.join, r.completion, r.levels, r.shape, r.placement, r.arg].zipIdx.foldl (fun m x => m.setNum (r.addr + 8 * x.2) 8 x.1.toNat) s.mem }

/-- A device with a unit that runs a record, which is also filed; `s0` names the record, `s2` a counter, and the slice has more. -/
def desk (r : Record) (f : Slice → Slice) : State := filed r (withUnit plain (tabled (world (fun sl => f (reg 0x82 0x20040 (reg 0x80 0x20000 sl))))))

/-- The record as it is queued. -/
def queuedOf (r : Record) (armed : Bool) : Queued := ⟨0, 0, r, r.addr, armed, 0, 0, r.prio, none, r.arg, false, 0, 0⟩

/-- WorkInstructions: the queue area full, and with room for a record without a join counter and with one. -/
theorem witness_WorkInstructions_enqueue :
    (desk plain id).queueRoom 0 = true ∧ ({ desk plain id with partitions := (desk plain id).partitions.map (fun (p : Partition) => { p with queueCap := 0 }) }).queueRoom 0 = false ∧ plain.join = 0 ∧
    (match ((desk plain id).workReach controlDie 0 0 0x20040 needBoth 1).2 with | .at_ pa => pa == 0x20040 | _ => false) = true ∧
    ((desk plain id).enqueueAll (some 0) true [queuedOf plain true]).2 = ([], none) := by decide +kernel

/-- What the enqueue of SPAWN and LAUNCH reads, and whether it ends whole. -/
def reads (s : State) (op : Nat) (w : WForm) (a : Dword) : Option (Option Nat) :=
  match readOnce (at_ s op [] w) s true a 64 64 with
  | (_, .inl bs) => some ((Record.ofBytes a.toNat bs).bad 1)
  | _ => none

/-- WorkInstructions: SPAWN and LAUNCH of sound records and of bad ones; LAUNCH of many units, of too many, and with a frame stride that is misaligned; records, counters and bitmaps misaligned and at no address. -/
theorem witness_WorkInstructions_spawn :
    ([(plain, none), ({ plain with code := 0x10002 }, some 0), ({ plain with shape := 0 }, some 0x28), ({ plain with placement := 0 }, some 0x30)] : List (Record × Option Nat)).all (fun x =>
      alone (desk x.1 id) 0xD0 [] (form 0 0 0x80 0 0) && alone (desk x.1 id) 0xD0 [] (form 1 0 0x80 0 0) && alone (desk x.1 id) 0xD3 [] (form 0 0xC0 0x80 0xC1 0xC0) &&
        reads (desk x.1 id) 0xD0 (form 0 0 0x80 0 0) 0x20000 == some x.2 && reads (desk x.1 id) 0xD3 (form 0 0xC0 0x80 0xC1 0xC0) 0x20000 == some x.2) = true ∧
    (let s := desk plain (reg 0x85 0x1000001)
     let c := at_ s 0xD3 [] (form 0 0xC0 0x80 0x85 0xC0)
     alone s 0xD3 [] (form 0 0xC0 0x80 0x85 0xC0) && decide (2 ^ 24 < uni c s 0x85) && alone s 0xD3 [] (form 0 0xC0 0x80 0xC1 0xC1) && decide (uni c s 0xC1 % 8 ≠ 0) && alone s 0xD3 [] (form 0 0x82 0x80 0xC1 0xC0)) = true ∧
    ([0x20004, 0x20000] : List Word).all (fun lo => [0, 0x1000000].all (fun hi =>
      let s := named hi lo
      alone s 0xD0 [] (form 0 0 0x80 0 0) && alone s 0xD2 [] (form 0 0 0x80 0 0) && alone s 0xD6 [] (form 0 0x88 0x80 0xC0 0))) = true := by decide +kernel

/-- WorkInstructions: JDEC of a counter that reaches 0 and one that does not, of an unmapped one, of one without permission and under a malformed table. -/
theorem witness_WorkInstructions_jdec :
    (let s := desk plain id
     alone s 0xD1 [] (form 0 0 0x82 0xC1 0) && (match (s.workReach ⟨0, 0⟩ 0 0 0x20040 needBoth 1).2 with | .at_ pa => pa == 0x20040 && s.mem.num 0x20040 8 == 0 | _ => false)) = true ∧
    ([(unmapped (desk plain id), 0), (onCore (fun k => { k with tlb := k.tlb.map (fun t => { t with perm := ⟨false, false, true, false⟩ }) }) (desk plain id), 1), (malformed (withUnit plain (world (reg 0x82 0x20040))), 2)] : List (State × Nat)).all (fun x =>
      alone x.1 0xD1 [] (form 0 0 0x82 0xC1 0) && (match x.2, (x.1.workReach ⟨0, 0⟩ 0 (x.1.unitIdOf (x.1.group 0)) 0x20040 needBoth 1).2 with
        | 0, .at_ _ => true
        | 1, .failed c _ => c == 9
        | 2, .failed c k => c == 8 && k == 1
        | _, _ => false)) = true ∧
    (let s := unmapped (withUnit plain (world (reg 0x82 0x20040)))
     alone s 0xD1 [] (form 0 0 0x82 0xC1 0) && (match (s.workReach ⟨0, 0⟩ 0 (s.unitIdOf (s.group 0)) 0x20040 needBoth 1).2 with | .blocked _ => true | _ => false)) = true := by decide +kernel

/-- A level object that counts one. -/
def live (key : LevelKey) : Level := ⟨0, key, 1, 0, none, true, none, 0, none⟩

/-- WorkInstructions: JWAIT on a counter that reads 0 and one that does not, on a level that lives and one that does not; TWAIT on a tile that is done, and on one that is not; CANCEL, TDONE with a bitmap and without, PRIO within its range and beyond. -/
theorem witness_WorkInstructions_waits :
    ([0, 3] : List Nat).all (fun n =>
      let s := { desk plain id with mem := (desk plain id).mem.setNum 0x20040 8 n }
      alone s 0xD2 [] (form 0 0 0x82 0 0) && alone s 0xD6 [] (form 0 0x88 0x82 0xC0 0) && (match (s.watch mine 0x20040 15).2 with | .inl (x, none) => x == n | _ => false)) = true ∧
    ([[], [live (plain.named 2 5)]] : List (List Level)).all (fun ls =>
      let s := { desk plain (reg 0x84 5) with levels := ls }
      alone s 0xD2 [] (form 2 0 0x84 0 0) && (s.level? 0 (plain.named 2 5)).isSome == !ls.isEmpty && uni (at_ s 0xD2 [] (form 2 0 0x84 0 0)) s 0x84 == 5) = true ∧
    ([none, some 0x20080] : List (Option Dword)).all (fun b =>
      let s := { desk plain id with units := (desk plain id).units.map (fun u => { u with bitmap := b }) }
      alone s 0xD5 [] (form 0 0 0 0 0) && (s.unit? 0).map (fun u => u.bitmap) == some b && (match (s.workReach controlDie 0 0 0x20080 needBoth 1).2 with | .at_ _ => true | _ => false)) = true ∧
    (let s := withUnit plain (world id)
     match (s.workReach controlDie 0 0 0x20080 needBoth 1).2 with | .blocked _ => true | _ => false) = true ∧
    (let s := desk plain (reg 0x85 8)
     alone s 0xD4 [] (form 2 0 0x84 0 0) && alone s 0xD7 [] (form 2 0 0x84 0x85 0) && alone s 0xD7 [] (form 2 0 0x84 0xC1 0) && decide (7 < uni (at_ s 0xD7 [] (form 2 0 0x84 0x85 0)) s 0x85) && decide (uni (at_ s 0xD7 [] (form 2 0 0x84 0xC1 0)) s 0xC1 ≤ 7)) = true := by
  decide +kernel

/-- The small device with some records queued. -/
def line (qs : List Queued) : State := { desk plain id with queued := qs }

/-- A record of two groups. -/
def pair2 : Record := { plain with shape := 0x10401 }

/-- WorkProceeds: queues with nothing ready, with one record and with two; one that can be placed on a core, on two of a cluster, and one that none of the clusters holds. -/
theorem witness_WorkProceeds_placement :
    (desk plain id).readyQueue 0 = [] ∧ (line [queuedOf plain true]).readyQueue 0 = [] ∧ ((desk plain id).die 1).inReset = true ∧ ((desk plain id).die 0).inReset = false ∧
    (line [queuedOf plain false]).readyQueue 0 = [queuedOf plain false] ∧
    (line [queuedOf plain false, { queuedOf plain false with priority := 3 }]).readyQueue 0 = [{ queuedOf plain false with priority := 3 }, queuedOf plain false] ∧
    ((line [queuedOf plain false]).coresFor (queuedOf plain false)).isSome = true ∧ ((line [queuedOf pair2 false]).coresFor (queuedOf pair2 false)).map List.length = some 2 ∧ pair2.cos = 2 := by decide +kernel

/-- The first cores of the die taken by groups of 128 pages. -/
def crowded (r : Record) : State :=
  { line [queuedOf r false] with groups := (List.range 96).map (fun k => { Group.vacant with gid := k + 1, core := k, pages := 128 }) }

/-- WorkProceeds: a co-scheduled record that finds no cluster with room, and has no reservation; reservations that have run their time and that have not. -/
theorem witness_WorkProceeds_reservations :
    ({ pair2 with shape := 0x1010401 }).cos ≠ 1 ∧ (crowded { pair2 with shape := 0x1010401 }).coresFor (queuedOf { pair2 with shape := 0x1010401 } false) = none ∧
    (crowded { pair2 with shape := 0x1010401 }).readyQueue 0 = [queuedOf { pair2 with shape := 0x1010401 } false] ∧ ((crowded plain).die 0).reservations = [] ∧
    ([0, 2 ^ 14 - 1, 2 ^ 14].all (fun n => let s := fresh.modDie 0 (fun d => { d with cycle := n, reservations := [⟨0, 3, 0, 0, false⟩] })
      s.allReservations[0]? == some (0, ⟨0, 3, 0, 0, false⟩) && (s.die 0).cycle == n)) = true ∧ fresh.allReservations[0]? = none := by decide +kernel

/-- WorkProceeds: groups that have slices to end, an engine that works for them, and neither; units with groups left, and without, whose counters and bitmaps can be reached. -/
theorem witness_WorkProceeds_completion :
    ((fresh.group? 0).map (fun x => x.slices.any (fun sl => !sl.ended))) = some true ∧
    (((world (fun sl => { sl with ended := true })).group? 0).map (fun x => x.slices.all (fun sl => sl.ended) && !x.swapped)) = some true ∧ (fresh.core ⟨0, 0⟩).copies = [] ∧ (fresh.core ⟨0, 0⟩).matrix.queue = [] ∧
    (copying [copy0] ⟨0, [], []⟩).group? 0 ≠ none ∧ ((copying [copy0] ⟨0, [], []⟩).core ⟨0, 0⟩).copies.any (fun c => c.gid == 0) = true ∧
    ((desk plain id).unit? 0).map (fun u => u.groups) = some 1 ∧
    ([(0, none, none), (0x20040, none, none), (0, some 0x20080, none), (0, none, some 3)] : List (Dword × Option Dword × Option Nat)).all (fun x =>
      let s := { desk plain id with units := [⟨0, 1, 0, { plain with completion := x.1 }, x.2.1, 0, false, 0, 0, 0, none, false, x.2.2, 0⟩], levels := (List.range 4).map (fun k => live (plain.key (k + 1))) }
      match s.unit? 0 with
      | some u => u.groups == 0 && u.stage == 0 && u.bitmap == x.2.1 && u.record.completion == x.1 && u.cancelled == x.2.2 && (s.level? 0 (plain.key 4)).isSome &&
          (match ((s.modUnit 0 (fun y => { y with stage := 1 })).unitReach { u with stage := 1 } 0x20040).2, (s.unitReach u 0x20080).2 with | .at_ _, .at_ _ => true | _, _ => false)
      | none => false) = true := by decide +kernel

/-- The device whose unit is over its budget or has a cancel pending, its slice in a wait. -/
def ending (w : Option Wait) (budget : Bool) (c : Option Nat) : State :=
  { withUnit plain (world (fun sl => { sl with wait := w })) with units := [⟨0, 1, 0, plain, none, 0, false, 0, 1, 0, c, budget, none, 0⟩] }

/-- WorkProceeds: waits that take a cancel and that do not; a budget trap, a cancel and neither. -/
theorem witness_WorkProceeds_cancels :
    ([none, some (.gsync 15 8), some .leaseReq, some (.commit 15)] : List (Option Wait)).all (fun w => [(true, none), (false, some 2), (false, none)].all (fun x =>
      let s := ending w x.1 x.2
      (s.slice mine).wait == w && (s.unit? (s.group 0).uid).map (fun u => (u.budgetOut, u.pendingCancel)) == some (x.1, x.2))) = true ∧
    (Wait.gsync 15 8).cancelPoint = true ∧ Wait.leaseReq.cancelPoint = true ∧ (Wait.commit 15).cancelPoint = false := by decide +kernel

/-- A graph's level, with or without its token. -/
def graph (n : Nat) (t : Option TokenRound) : Level := { live (plain.key 2) with count := n, token := t }

/-- WorkProceeds: a graph whose count is 0, one whose units all wait, and one with work left; a token at a die that is quiet, before the last die and at it. -/
theorem witness_WorkProceeds_rounds :
    ([(0, none), (1, none), (1, some ⟨0, false, true, false⟩), (0, some ⟨0, false, false, false⟩), (1, some ⟨0, false, false, false⟩)] : List (Nat × Option TokenRound)).all (fun x =>
      let s := { withUnit plain (world (fun sl => { sl with wait := some (.jwaitLevel (plain.key 2) 15 8) })) with levels := [graph x.1 x.2] }
      s.level? 0 (plain.key 2) == some (graph x.1 x.2) && (s.part? 0).isSome && (plain.key 2).level == 2 && (s.waitingUnits 0 (plain.key 2)).length == 1 &&
        s.quiet 0 (plain.key 2) 0 true && !s.quiet 0 (plain.key 2) 0 false) = true ∧
    ({ desk { plain with levels := 7 } id with levels := [graph 2 none] }).waitingUnits 0 (plain.key 2) = [] ∧ (List.range 8).filter (fun i => (1 : BitVec 8).getLsbD i) = [0] ∧
    ((List.range 8).filter (fun i => (3 : BitVec 8).getLsbD i)).find? (fun i => decide (0 < i)) = some 1 := by decide +kernel

/-- An enqueue that waits for room. -/
def late (issuer : Option SliceRef) (b : Option Block) : WaitingEnqueue := ⟨0, [queuedOf plain true], issuer, none, b⟩

/-- WorkProceeds: enqueues of the host and of a slice that may go on, and one that waits for an answer; host enqueues of a sound record, of a bad one, at no partition, and with the queue area full; a device that is not ready. -/
theorem witness_WorkProceeds_enqueues :
    ([(none, none), (some mine, none), (none, some (.fault 5))] : List (Option SliceRef × Option Block)).all (fun x =>
      let s := { desk plain (fun sl => { sl with wait := some (.queueArea 15 8) }) with enqueues := [late x.1 x.2] }
      s.enqueues[0]? == some (late x.1 x.2) && (s.slice mine).wait == some (.queueArea 15 8) && ((s.enqueueAll none false [queuedOf plain true]).2 == ([], none))) = true ∧
    (answered none (desk plain id)).blockOver 0 Group.vacant (.fault 5) = false ∧
    ([plain, { plain with shape := 0 }] : List Record).all (fun r =>
      let s := { desk r id with bootstat := 0x80000000 }
      s.bootstat.getLsbD 31 && (s.part? 0).isSome && (s.part? 3).isNone && (match s.workReach controlDie 0 0 0x20000 needRead 0 with | (v, .at_ pa) => pa == 0x20000 && decide (v.unwalked = s.unwalked) | _ => false)) = true ∧
    State.reset.bootstat.getLsbD 31 = false := by decide +kernel

/-! ### grauk: the listing of chapter 7, source lines, and the hypotheses of ListingsAssembleBack -/

/-- The words of the image of spec/07. -/
def demoImage : List Word :=
  [0x00208139, 0x00240000, 0x03100004, 0x20804181, 0x10100000, 0x00000022, 0x00000006, 0x004080C5, 0x02280000, 0x00000035, 0x00A00039, 0x00000109,
   0x00200001, 0xC408080C, 0x00000022, 0x20800185, 0x51480080, 0x0000012C, 0x00210139, 0x00840000, 0x20800185, 0x70002130, 0x0000012C, 0x00000003]

/-- The sweep of spec/07: the offset, the opcode or the word, and the comment of each line, and the label at 0x3C. -/
theorem test_listing_demo :
    (disassemble demoImage).map (fun p => (p.off, match p.line with
      | .instr s => s.op.toNat
      | .pfx q n => 1000 + q.kind.code.toNat * 100 + q.val.toNat * 10 + (if n = .orphan then 1 else 0)
      | .word x => x.toNat + 2000
      | .pair _ _ => 3000)) =
      [(0x00, 0x4E), (0x08, 0x01), (0x0C, 0x60), (0x14, 1010), (0x18, 1100), (0x1C, 0x31), (0x24, 0x0D), (0x2C, 0x42), (0x34, 0x03), (0x38, 1011),
       (0x3C, 0x61), (0x44, 0x4B), (0x48, 0x4E), (0x50, 0x61), (0x58, 0x4B), (0x5C, 2003)] ∧
    (disassemble demoImage).filterMap (fun p => if p.label then some p.off else none) = [0x3C] ∧
    (sweep (demoImage.drop 1)).take 1 = [.word 0x00240000] := by decide +kernel

/-- The examples of spec/02: `iadd v2, v2, -1` is one word; `iadd v1, v0, 0x12345678` takes an XI prefix; `cvtn.rtz.ovf=inf` takes RND, then OVF. -/
theorem test_source_examples :
    (match Source.emit ⟨0x03, 0, false, false, 0, [], false, .spec 2 false, .spec 2 false, .imm (-1), .absent, .none⟩ with
      | .ok ws => ws | .error _ => []) = [0xFC08080C] ∧
    (match Source.emit ⟨0x03, 0, false, false, 0, [], false, .spec 1 false, .spec 0 false, .imm 0x12345678, .absent, .none⟩ with
      | .ok ws => ws.take 1 | .error _ => []) = [0x1234566A] ∧
    (match Source.emit ⟨0x31, 0, false, false, 0x08A, [⟨.ovf, 1⟩, ⟨.rnd, 1⟩], false, .spec 8 false, .spec 9 false, .absent, .absent, .none⟩ with
      | .ok ws => ws.take 2 | .error _ => []) = [0x22, 0x26] ∧
    (match Source.emit ⟨0x03, 0, false, false, 0, [⟨.rnd, 1⟩], false, .spec 2 false, .spec 2 false, .imm 1, .absent, .none⟩ with
      | .ok _ => none | .error e => some e) = some .notAccepted := by decide +kernel

/-- The example of R95: `fmul v3, v3, 0.75` takes the prefix word 0x3F40000A; FDIV accepts no XI prefix and is refused. A prefix before an assigned instruction printed as a word is still marked orphan (R178). -/
theorem test_float_literal :
    (match Source.emit ⟨0x22, 0, false, false, 0, [], false, .spec 3 false, .spec 3 false, .lit false 75 (-2), .absent, .none⟩ with
      | .ok ws => ws.take 1 | .error _ => []) = [0x3F40000A] ∧
    (match Source.emit ⟨0x26, 0, false, false, 0, [], false, .spec 3 false, .spec 3 false, .lit false 75 (-2), .absent, .none⟩ with
      | .ok _ => none | .error e => some e) = some .value ∧
    sweep [0x00000002, compactWord 0x00 ⟨0, 9, 0⟩] = [.pfx ⟨.rnd, 0⟩ .orphan, .word (compactWord 0x00 ⟨0, 9, 0⟩)] := by decide +kernel

/-- The kernel of spec/07, with its own directives: an entry at offset 64 after a first kernel of one word. -/
theorem test_kernel_table :
    (match assembleFile [⟨[0x61], none, none, none, none, [.instr ⟨0x4B, 0, false, false, 0, [], false, .absent, .absent, .absent, .absent, .none⟩]⟩,
        ⟨[0x62], some (8, 8), some 4000, none, some 2, [.pfx ⟨.rnd, 1⟩, .datum (.ints 4 [3])]⟩] [.ints 1 [-1], .floats false [.decimal false 5 (-1)]] with
      | .ok o => (o.text.length, o.data, o.table, o.strings)
      | .error _ => (0, [], [], [])) =
      (72, [0xFF, 0, 0, 0, 0, 0, 0, 0x3F],
        [tableEntry 0 0x10000 0 0, tableEntry 64 0x2000010100 8 2], [0x61, 0, 0x62, 0]) := by decide +kernel
/-! ### Witnesses: the fabric -/

/-- The device whose peer 0 is partition 0 of package 3, reached by the first link. -/
def mate (s : State) : State :=
  { s with
    partitions := s.partitions.map (fun (p : Partition) => { p with peers := p.peers.set 0 ⟨true, 3, 0, 0⟩ })
    routes := [⟨3, [[(0, 0)]]⟩]
    links := s.links.set 0 { Link.down with up := true } }

/-- A slice with a destination in `s0`, a source in `s2`, a length in `s4` and a counter in `s6`. -/
def parcel (dst src : Word) (n counter : Word) (high : Word) : State :=
  withUnit plain (world (fun sl => reg 0x80 dst (reg 0x81 high (reg 0x82 src (reg 0x84 n (reg 0x86 counter sl))))))

/-- FabricMessages: PUTS and GETR whose peer is known and is not; PUTS of global memory and of the scratchpad with each kind of signal; addresses beyond a space, at no address and misaligned. -/
theorem witness_FabricMessages_puts :
    ([(0, 0), (0x1000, 6), (0x2000, 6)] : List (BitVec 14 × BitVec 8)).all (fun x =>
      let w := form x.1 0x80 0x82 0x84 (if x.1 = 0 then 0 else 0x86)
      [parcel 0x20000 0x20100 64 0x20200 0, mate (parcel 0x20000 0x20100 64 0x20200 0), mate (parcel 0x20000 0x20100 64 0x20204 0), mate (parcel 0x20000 0x20100 64 0x20200 0x1000000), mate (parcel 0x20000 0x20100 0 0x20200 0)].all
        (fun s => alone s 0xE0 [] w)) = true ∧
    (alone (mate (parcel 0x20000 64 64 0 0)) 0xE0 [] (form 0x100 0x80 0x82 0x84 0) && (firstOutside (fresh.group 0) .scr 64 64).isNone && alone (mate (parcel 0x20000 16384 64 0 0)) 0xE0 [] (form 0x100 0x80 0x82 0x84 0) &&
      firstOutside (fresh.group 0) .scr 16384 64 == some 16384 && (firstOutside (fresh.group 0) .glb (2 ^ 56 + 0x20000) 64).isSome && (firstOutside (fresh.group 0) .glb 0x20000 64).isNone) = true ∧
    ((mate fresh).peer 0 0).valid = true ∧ (fresh.peer 0 0).valid = false ∧ (plain.levels.toNat / 2 ^ 56) = 0 := by decide +kernel

/-- FabricMessages: GETR of every lane's own word, at no address and misaligned; a GETR in flight, ended, failed, and cut by an unreachable package. -/
theorem witness_FabricMessages_getr :
    ([mate (withUnit plain (world aimed)), mate (withUnit plain (named 0x1000000 0x20000)), mate (withUnit plain (named 0 0x20002))]).all (fun s => alone s 0xE1 [] (memForm 0 8 0) && alone s 0xE1 [] (memForm 0x100 8 0)) = true ∧
    (mate fresh).reachable 3 = true ∧ (mate fresh).reachable 4 = false ∧ (mate fresh).streamFull 3 = false ∧
    ({ mate fresh with kept := List.replicate 1024 ⟨⟨0, 3, 0, false, .signal 0 0 1⟩, none, 0, none⟩ }).streamFull 3 = true ∧ mine.idx < (fresh.group mine.gid).slices.length ∧ (fresh.slice mine).wait = none := by decide +kernel

/-- FabricMessages: SIGW on a counter that has come to its target and one that has not, at no address and misaligned. -/
theorem witness_FabricMessages_sigw :
    ([0, 9] : List Nat).all (fun n =>
      let s := { named 0 0x20000 with mem := (named 0 0x20000).mem.setNum 0x20000 8 n }
      alone s 0xE2 [] (form 0 0 0x80 0xC4 0) && alone s 0xE2 [] (form 1 0x84 0x80 0xC4 0) && (match (s.watch mine 0x20000 15).2 with | .inl (x, none) => x == n | _ => false)) = true ∧
    ([named 0x1000000 0x20000, named 0 0x20004]).all (fun s => alone s 0xE2 [] (form 0 0 0x80 0xC4 0)) = true := by decide +kernel

/-- A PUTS in flight that has sent some of its packets and has had some acknowledged. -/
def putting (first : Nat) (landed : List Nat) (b : Option Block) : Copy :=
  { copy0 with kind := .puts 24 false (some 1) 0x20200, dsp := .glb, dst := 0x30000, src := 0x20000, rowLen := 8192, rows := 1, first := first, landed := landed, block := b }

/-- FabricMessages: a PUTS with packets to send, with its signal to send before and after the last acknowledgement, blocked, done, and at a package that no link reaches. -/
theorem witness_FabricMessages_copy :
    ([(putting 0 [] none), (putting 2 [0] none), (putting 2 [0, 1] none), (putting 0 [] (some (.fault 5))), (putting 3 [0, 1] none)]).all (fun c =>
      let s := mate (copying [c] ⟨0, [], []⟩)
      (s.core ⟨0, 0⟩).copy? 0 == some c && !s.streamFull 3 && s.reachable 3 && !(copying [c] ⟨0, [], []⟩).reachable 3) = true ∧
    (let s := mate (copying [putting 0 [] none] ⟨0, [], []⟩)
     match s.copyWaits (putting 0 [] none) 0 [] true with
     | (v, false) => (match v.sidePlaces (putting 0 [] none) .glb 0x20000 4096 needRead 0 with | (w, .inl ps) => !ps.isEmpty && w.kept.isEmpty && w.outNext.isEmpty && w.package == 0 && w.nanos == 0 | _ => false)
     | _ => false) = true := by decide +kernel

/-- A packet of package 3 for this one. -/
def packetOf (seq : Nat) (ordered : Bool) (p : Payload) : Packet := ⟨3, 0, seq, ordered, p⟩

/-- FabricMessages: packets for another package, accepted before, in turn, out of turn; what their payloads do to memory that is mapped, to none, and under an unanswered fault. -/
theorem witness_FabricMessages_packets :
    (let s := tabled fresh
     (packetOf 0 true (.signal 0 0x20000 1)).dst = s.package ∧ s.parkedPackets = [] ∧ s.inflowOf 3 = ⟨3, 0, [], []⟩ ∧ (s.inflowOf 3).has 0 = false ∧ (s.inflowOf 3).has (2 ^ 32 - 1) = true ∧ (3 : Nat) ≠ s.package ∧
     (match (s.remotePlaces 0 0x20000 8 needWrite 1).2, (s.remotePlaces 0 0x20000 8 needBoth 1).2, (s.remotePlaces 0 0x20000 8 needRead 0).2, (s.remotePlaces 5 0x20000 8 needRead 0).2, (fresh.remotePlaces 0 0x20000 8 needWrite 1).2 with
      | .inl _, .inl (_ :: _), .inl _, .inr .failed, .inr (.parked _) => true
      | _, _, _, _, _ => false) = true) := by decide +kernel

/-- A packet that its source keeps. -/
def keeps (copy : Option (Nat × Nat × Nat)) (p : Payload) (t : Nat) : State :=
  { mate (copying [putting 2 [0] none] ⟨0, [], []⟩) with kept := [⟨⟨0, 3, 7, false, p⟩, copy, 0, none⟩], nanos := t }

/-- FabricMessages: acknowledgements of packets kept for a copy, for a GETR and for none, good and bad; packets due to be sent again, not yet due, and with no link to take. -/
theorem witness_FabricMessages_acks :
    ([(some (0, 0, 0), .write 0 0x31000 [] [], 0), (none, .read 0 0x20000 4 mine 2 1, 199999), (none, .signal 0 0x20000 1, 200000)] : List (Option (Nat × Nat × Nat) × Payload × Nat)).all (fun x =>
      let s := keeps x.1 x.2.1 x.2.2
      (match s.kept? 3 7 with | some k => k.copy == x.1 && k.packet.payload == x.2.1 && k.since == 0 && (s.pathFor k k.path).isSome && ({ s with routes := [] }.pathFor k k.path).isNone | none => false) &&
        ((s.core ⟨0, 0⟩).copy? 0).isSome && (s.kept? 3 8).isNone) = true := by decide +kernel

/-- FabricMessages: links that are up, down, failed and retraining, at their limits of bad flits and of attempts; a peer table that can be written, and not. -/
theorem witness_FabricMessages_links :
    ([{ Link.down with up := true }, { Link.down with up := true, crcFails := 7 }, { Link.down with up := true, crcFails := 6, expected := 1023 }, Link.down, { Link.down with retr := true, attempts := 1 }, { Link.down with attempts := 2 }, { Link.down with fail := true }]).all
      (fun k => ({ fresh with links := fresh.links.set 23 k }).link 23 == k) = true ∧
    (({ fresh with bootstat := 0x80000000 }).bootstat.getLsbD 31 = true) ∧ fresh.bootstat.getLsbD 31 = false ∧ (fresh.part? 0).isSome = true ∧ fresh.part? 1 = none := by decide +kernel


/-- R376: a semaphore that port 1 holds reads HELD and HOLDER 0b10, and the others read 0. -/
theorem test_sem_read : ((State.reset.barWrite 1 0x2008 1).barRead 0x2008, State.reset.barRead 0x2008, State.reset.barRead 0x2080) = (some 0x80020000, some 0, none) := by decide

/-- R429: at control-die reset THRSTAT shows step 16. -/
theorem test_thrstat_read : State.reset.barRead 0x1108 = some 16 := by decide

/-- R141, R332, R456: every later group of a slice waits while its GETR is under way, so that the trap of one that fails is precise; the wait of a cancel point takes a cancel (R146). -/
theorem test_getr_holds :
    (let x : Getr := { tag := 0, dst := 1, regs := 1, eff := 1, package := 7, part := 0, addrs := Lanes.all 0, left := 1, failed := 0, unsent := 0, got := [], acquire := false, scope := 5, pc := 0 }
     [0x60, 0x61, 0x03, 0x6A].map (fun op => [[x], []].map (fun l =>
       let s := world (fun sl => { sl with getrs := l })
       (s.wouldHold me, s.awaitsRemote (at_ s op [] (form 0 0 0 0 0)))))) = List.replicate 4 [(true, true), (false, false)] := by decide +kernel

/-- R461: a store released at system scope comes after the lines that the hosts have still to give back, one released at device scope does not. -/
theorem test_awaits_hosts : [0x15, 0x14, 5].map (fun v => [[7], []].map (fun l =>
    let s := { fresh with backInvalidates := l }
    s.awaitsHosts (at_ s 0x61 [⟨.scp, v⟩] (form 16 8 0x80 0 0)))) = [[true, false], [false, false], [false, false]] := by decide +kernel
/-! ### Witnesses: virtual memory, base dies and host ports -/

/-- The device with its start-up over. -/
def booted (s : State) : State := { s with bootstat := 0x80000000 }

/-- The device with some fault entries, its slice in a wait. -/
def faulted (fs : List FaultEntry) (w : Option Wait) : State :=
  let s := booted (tabled (world (fun sl => { sl with wait := w })))
  { s with partitions := s.partitions.map (fun (p : Partition) => { p with faults := fs }) }

/-- PagesMoveAndMap: walks of an unmapped core that end at a leaf, at none, and in a malformed entry; a die without a partition. -/
theorem witness_PagesMoveAndMap_walks :
    ((unmapped (tabled fresh)).residentOn 0).isSome = true ∧ fresh.residentOn 3 = none ∧ ((unmapped (tabled fresh)).core ⟨0, 0⟩).tlb = [] ∧
    (match (tabled fresh).walk 0 0x20000, (tabled fresh).walk 0 0x40001000, (tabled fresh).walk 0 0x80000000, (malformed fresh).walk 0 0 with
     | .leaf a _, .leaf b _, .invalid, .malformed => a == 0x202000 && b == 0x204008
     | _, _, _, _ => false) = true := by decide +kernel

/-- PagesMoveAndMap: a fault that is open, answered or absent; no slice and one slice that waits on it; a device that is not ready. -/
theorem witness_PagesMoveAndMap_faults :
    (let f : FaultEntry := ⟨5, 0x20000, 0, 0, 0, 0, 0, none⟩
     ([none, some (.replay (.fault 5) ⟨0x08, 0x20000, 1, 16⟩)] : List (Option Wait)).all (fun w =>
       let s := faulted [f] w
       s.bootstat.getLsbD 31 && (s.part? 0).isSome && (s.part? 0).any (fun p => p.faults.any (fun x => x.seq == 5 && x.answer.isNone)) && s.waitersOn 0 5 == (if w.isSome then [mine] else []) &&
         (s.group 0).part == 0 && (s.core ⟨0, 0⟩).copies.isEmpty && (s.core ⟨0, 0⟩).mint.block.isNone && s.faultAnswer 0 6 == some true) &&
     !((faulted [{ f with answer := some true }] none).part? 0).any (fun p => p.faults.any (fun x => x.answer.isNone)) && !fresh.bootstat.getLsbD 31) = true := by decide +kernel

/-- PagesMoveAndMap: commands that MAP takes, of the smallest and the largest page, and commands that it refuses; pages that UNMAP and PROTECT find, and that they do not. -/
theorem witness_PagesMoveAndMap_map :
    ([(0x40002000, 0), (0x40004000, 1), (0xC0000000, 7)] : List (Dword × Nat)).all (fun x =>
      let s := faulted [] none
      canonical x.1 && x.1.toNat % 2 ^ 57 % pageBytes x.2 == 0 && (s.tableFor 0 (x.1.toNat % 2 ^ 57) (sizeLevel x.2) (4 - sizeLevel x.2) 0x200000).2.isSome && s.partitions.all (fun q => decide (q.tableEnd ≤ 0x300000))) = true ∧
    canonical 0x0100000000000000 = false ∧ (0x40001000 : Dword).toNat % pageBytes 1 ≠ 0 ∧ (faulted [] none).leafOf 0 0x40001000 = some (0, 0x204008, 0x1000000030103D) ∧ (faulted [] none).leafOf 0 0x80000000 = none := by decide +kernel

/-- A page of the directory. -/
def page (home source target : PageHome) (moves : Nat) (wstart : Option Nat) (pinned : Bool) (dev host : Option Nat) : DirEntry := ⟨0x40001000, home, source, target, moves, wstart, 50, pinned, 0, dev, host, 0⟩

/-- The device with that page, some time after its start. -/
def migrating (d : DirEntry) (t : Nat) : State :=
  let s := faulted [] none
  { s with partitions := s.partitions.map (fun (p : Partition) => { p with directory := [d] }), nanos := t }

/-- PagesMoveAndMap: pages of the host with a frame for them in device memory, of the device with one of the host, in motion, pinned; a window that has passed and one that has not; moves at the limit; a pin that is over, and not. -/
theorem witness_PagesMoveAndMap_moves :
    ([(page .host .host .host 0 none false (some 0x400000) (some 0x500000), 0), (page .dev .dev .dev 0 none false (some 0x301000) (some 0x500000), 0), (page .moving .host .dev 4 (some 0) false (some 0x400000) (some 0x301000), 999999),
      (page .moving .dev .host 1 (some 0) false (some 0x301000) (some 0x500000), 1000000), (page .moving .unpop .dev 0 none false (some 0x301000) none, 0), (page .host .host .host 5 none true none (some 0x301000), 49),
      (page .host .host .host 5 none true none (some 0x301000), 50)] : List (DirEntry × Nat)).all (fun x =>
        let s := migrating x.1 x.2
        s.dirEntry? 0 0x40001000 == some x.1 && (s.leafOf 0 0x40001000).isSome && (s.part? 0).any (fun p => p.thrashN == 4 && p.thrashW == 1000) && s.nanos == x.2 && (s.dirEntry? 0 0x40000000).isNone) = true := by decide +kernel

/-- A lane that waits for the control die. -/
def distant (behind : Bool) : State :=
  let s := wokenAt 0x62 .ldw true ⟨24, 1024, 0, 0⟩
  let s := s.modSlice mine (fun sl => { sl with wait := sl.wait.map (fun (w : Wait) => match w with | .access a => .access (a.setLane 3 .remote) | w => w) })
  { s with remotes := (if behind then [⟨mine, 2, 0x20010⟩] else []) ++ [⟨mine, 3, 0x20018⟩] }

/-- PagesMoveAndMap: the first request of a page, one behind another of its page, a request that is none, and an atomic's poisoned word. -/
theorem witness_PagesMoveAndMap_remotes :
    ((distant false).remotes[0]? == some ⟨mine, 3, 0x20018⟩ && (distant true).remotes[1]? == some ⟨mine, 3, 0x20018⟩ && ((distant true).remotes.take 1).any (fun y => y.pa / 4096 == 0x20018 / 4096) && fresh.remotes.isEmpty &&
      !((distant false).group 0).swapped && ((distant false).accessOf mine).any (fun a => a.lanes.get 3 == .remote && ((distant false).poisonedTargets a [(3, .at_ (.glb 0x20018))]) == 0 &&
        ({ distant false with mem := (distant false).mem.addPoison 128 0x20018 1 }.poisonedTargets { a with op := .bffcs } [(3, .at_ (.glb 0x20018))]) != 0)) = true := by decide +kernel

/-- The region table of reset. -/
def table : List RegionEntry := [RegionEntry.deviceMemory, RegionEntry.registers]

/-- A base die with a request for a line under way, and one behind it. -/
def serving (kind status : Nat) (gen : Nat) : State :=
  { fresh with bases := fresh.bases.modify 3 (fun b => { b with up := true, flights := [⟨kind, ⟨3, 1, 7, gen, 0x80, 0, List.replicate 128 9, 3⟩, status, [], 0, false⟩, ⟨1, ⟨3, 1, 8, gen, 0x80, 0, [], 0⟩, 0, [], 0, false⟩] }) }

/-- BaseDiesAndHosts: region tables that are sound, that overlap, that name no stack, that overrun a stack; requests outstanding of the generation; requests whose tag is free and in use, of the generation now and of another; the first of its line and one behind it. -/
theorem witness_BaseDiesAndHosts :
    (table.all (fun e => decide (e.kind ≤ 2)) ∧ (RegionEntry.deviceMemory.base + RegionEntry.deviceMemory.size < RegionEntry.registers.base) ∧ table.length ≤ 1024 ∧ fresh.rewrite = none ∧
      ((List.range 16).filter (fun i => RegionEntry.deviceMemory.stackMask.getLsbD i)).length = 16 ∧ 0 + ((1023 + 1) * 2 ^ 18 + 16 - 1) / 16 ≤ 2 ^ 24 ∧ ¬((1 + ((1023 + 1) * 2 ^ 18 + 16 - 1) / 16) ≤ 2 ^ 24)) ∧
    ([1, 2, 3].all (fun k => [0, 1].all (fun st => let s := serving k st 0
      ((s.base 3).flights.find? (fun y => y.q.port == 1 && y.q.tag == 7)).isSome && (s.base 3).flights.all (fun y => y.q.tag != 9) && s.generation == 0 && (s.base 2).flights.isEmpty))) = true ∧
    ((serving 1 0 0).base 3).flights.find? (fun y => y.q.line == 0x80 && y.status == 0) = some ⟨1, ⟨3, 1, 7, 0, 0x80, 0, List.replicate 128 9, 3⟩, 0, [], 0, false⟩ ∧ (fresh.paOf 3 0x80).isSome = true ∧
    (List.range 16).all (fun n => ((serving 1 1 5).base n).flights.all (fun x => x.q.gen != 0)) = true ∧
    ([3, 4].map (fun sk => (⟨table, [1], [2], [], []⟩ : Rewrite).acked ⟨sk, 1, 0, 0, 0, 0, [], 0⟩)) = [true, false] := by decide +kernel

/-- R400: the header of a read with tag 5 of generation 2 for stack address 0x1_2345_6880. -/
theorem test_request_header : requestHeader ⟨7, 0, 5, 2, 0x123456880, 0, [], 0⟩ 1 = 0x1A04000123456880 := by decide

/-- R402: a whole-line write gives its line the data and the bits it brings; R396: the entry of device memory at reset. -/
theorem test_line_written :
    (match exec (.wr ⟨3, 1, 7, 0, 0x80, 0, List.replicate 128 9, 3⟩) { fresh with bases := fresh.bases.modify 3 (fun b => { b with up := true }) } with
     | .next t => (t.paOf 3 0x80).map (fun pa => (t.mem.num pa 2, t.mem.marks pa, (t.base 3).flights.length))
     | _ => none) = some (0x909, 3, 1) ∧
    fresh.regionEntry 0 = 0x80FFFF0000000000000003FF00000000 ∧ fresh.regionEntry 5 = 0 := by decide +kernel

/-- BaseDiesAndHosts: a host port that is up reaches device memory; one that is down, and an address that is not of device memory. -/
theorem witness_BaseDiesAndHosts_ports :
    ({ fresh with portsUp := 1 }).portsUp.getLsbD 0 = true ∧ fresh.portsUp.getLsbD 0 = false ∧ ((linesOf 0x20000 256).all (fun l => fresh.physKind (l * 128) == .device) = true) ∧ linesOf 0x20000 256 ≠ [] ∧
    fresh.physKind (0x100000 * 2 ^ 30) ≠ .device := by decide +kernel


/-- R386: the bytes of an entry of unit 9, die 3, core 95, for a store. -/
theorem test_fault_bytes :
    (FaultEntry.bytes { seq := 2, vpage := 0x40001000, unitId := 9, die := 3, core := 95, cause := 0, kind := 1, answer := none }) =
      [0, 0x10, 0, 0x40, 0, 0, 0, 0, 1, 0xC0, 0x77, 0, 9, 0, 0, 0, 2, 0, 0, 0, 0, 0, 0, 0, 0, 0, 0, 0, 0, 0, 0, 0] := by decide

/-- R394: with its word 9 empty, byte 1 of a page's shadow has bit 1 clear. -/
theorem test_shadow_bytes : ((Memory.blank.setFull 0x3048 false).shadowBytes 0x3000).take 3 = [0xFF, 0xFD, 0xFF] := by decide +kernel
/-! ### Witnesses: dies, errors, power, start-up, partitions and ports -/

/-- DiesErrorsAndPower: a time pair that may be written and one that may not; sites of errors; a die in service with a dirty line, and one held; counted errors below their limit; caps below, at and above the limits; powers and temperatures about each limit; a link that retrains. -/
theorem witness_DiesErrorsAndPower :
    (let est (t o r : Dword) : Dword := o + dword (t.toNat * r.toNat / 2 ^ 40)
     (fresh.die 1).tofs = 0 ∧ (fresh.die 1).trate = 0x10000000000 ∧
     (est 2000 100 0x10000000000 - est 2000 96 0x10000000000).toNat ≤ 4 ∧ ¬((est 2000 96 0x10000000000 - est 2000 100 0x10000000000).toNat ≤ 4) ∧
     min ((50 : Dword) - (fresh.die 0).time).toNat ((fresh.die 0).time - 50).toNat ≤ 50 ∧ ¬(min ((51 : Dword) - (fresh.die 0).time).toNat ((fresh.die 0).time - 51).toNat ≤ 50) ∧
     ([(0x10000000000, true), (0x10003000000, true), (0x10007000000, false), (0xFFF9000000, false)] : List (Dword × Bool)).all (fun x =>
       decide (x.1.toNat * 999950 ≤ 2 ^ 40 * 1000050 ∧ 2 ^ 40 * 999950 ≤ x.1.toNat * 1000050) == x.2) = true) ∧
    (fresh.ucie.getD (8 + min 2 1 * (15 - min 2 1) / 2 + (max 2 1 - min 2 1 - 1)) true = false ∧ ({ fresh with partitions := fresh.partitions.map (fun (p : Partition) => { p with mapped := [⟨0x40001000, 0x301000, 4096⟩] }) }).partsMapping 0x301800 = [0] ∧ fresh.partsMapping 0x7000000 = []) ∧
    ((fresh.group? 0).isSome = true ∧ mine.idx < (fresh.group mine.gid).slices.length ∧ (fresh.core ⟨0, 0⟩).mint.cpv = false ∧ ((withUnit plain fresh).unit? ((withUnit plain fresh).group 0).uid).isSome = true) ∧
    ((fresh.modDie 0 (fun d => { d with l2 := [⟨5, true, false, 0⟩, ⟨6, false, false, 0⟩] })).die 0).inReset = false ∧ (fresh.die 1).inReset = true ∧ (fresh.partitions.any (fun p => p.dies.getLsbD 0)) = true ∧
    (let l : List (Nat × Nat) := [(3, 0), (3, 5), (4, 9)]
     l.all (fun x => decide ((l.filter (fun y => y.1 == x.1)).length < 256)) = true) ∧
    ((booted fresh).bootstat.getLsbD 31 = true ∧ (1600 ≤ 1600 ∧ 1600 ≤ 3200) ∧ ¬(1600 ≤ 1599) ∧ 3200 ≤ 3200) ∧
    ([(119, 120), (104, 105), (109, 110), (94, 95)] : List (Nat × Nat)).all (fun x => decide (x.1 < x.2)) = true ∧ fresh.ucie.length = 36 := by decide +kernel

/-- StartUpAndIdentity: a device without an image stops; recovery, updates, commits and reports of a port that holds its semaphore, and of one that does not. An image that is accepted is witness_StartUpAndIdentity_accepted's. -/
theorem witness_StartUpAndIdentity :
    State.reset.slotError true ≠ 0 ∧ State.reset.slotError false ≠ 0 ∧ ({ State.reset with bootstat := 0x40000000 }).bootstat.getLsbD 30 = true ∧ State.reset.bootstat.getLsbD 30 = false ∧
    (let s := { booted fresh with sems := fresh.sems.set 1 2, pendingCommit := some 5 }
     s.bootstat.getLsbD 31 = true ∧ s.sems.getD 1 0 = 1 + 1 ∧ s.sems.getD 1 0 ≠ 0 + 1 ∧ s.pendingCommit ≠ none ∧ s.bootstat.getLsbD 29 = s.preferB ∧ fresh.pendingCommit = none) ∧
    (List.replicate 32 (0 : Byte)).length = 32 := by decide +kernel

/-- The device ready, a port with the partition and the routine semaphore. -/
def governed (s : State) : State := { booted s with sems := (s.sems.set 0 1).set 2 1 }

/-- A second partition of the first die, whose context is in the vaults or not. -/
def second (resident : Bool) (cores : List (Nat × Nat × Core)) (s : State) : State :=
  { s with partitions := s.partitions.map (fun (p : Partition) => { p with resident := !resident }) ++ [{ Partition.forProgram with num := 4, resident := resident, ptroot := 0x80000000, tableNext := 0x80001000, tableEnd := 0xC0000000, savedCores := cores, savedCls := [(0, Bank.all 12 Memory.blank)], savedChp := [(0, Memory.blank)] }] }

/-- PartitionsAndPorts: partitions that can be created on a free die and beside another, and that cannot; ones to tear down, resident and not; to take from their dies, and to put back. -/
theorem witness_PartitionsAndPorts :
    (let s := governed fresh
     s.sems.getD 0 0 = 0 + 1 ∧ s.canCreate ⟨4, 1, 100, 2⟩ = true ∧ s.canCreate ⟨4, 2, 100, 2⟩ = false ∧ s.canCreate ⟨4, 1, 100, 0⟩ = true ∧ s.canCreate ⟨0, 1, 100, 2⟩ = false ∧ (governed State.reset).canCreate ⟨4, 1, 100, 2⟩ = false ∧
     s.partitions.any (fun p => p.resident && p.dies &&& 1 != 0) = true ∧ (s.part? 0).map (fun p => (p.resident, p.ending)) = some (true, false) ∧ s.part? 5 = none ∧ s.groups.any (fun g => g.part == 0) = true) ∧
    (let s := second true [] (governed fresh)
     (s.part? 0).map (fun p => (p.resident, p.ending)) = some (false, false) ∧ (s.part? 4).map (fun p => p.resident) = some true) ∧
    (let s := second false [(0, 7, Core.reset)] (governed fresh)
     let s := { s with partitions := s.partitions.map (fun (p : Partition) => { p with resident := false }) }
     (s.part? 4).any (fun p => !p.resident && p.savedCores.find? (fun x => x.1 == 0 && x.2.1 == 7) == some (0, 7, Core.reset) && (p.savedCls.find? (fun x => x.1 == 0)).isSome && (p.savedChp.find? (fun x => x.1 == 0)).isSome) = true ∧
     s.partitions.all (fun q => !q.resident) = true ∧ (s.die 0).inReset = false) ∧
    (let x := world (inTx false false)
     (x.slice mine).tx = some (opened false) ∧ (x.issuer = some me) ∧ (x.group me.gid).part = 0 ∧
      (List.range 96).all (fun k => (x.core ⟨0, k⟩).mint.joining.isNone) = true ∧ x.groups.all (fun g => g.pageState.all (fun y => match y with | .unpinning true _ => false | _ => true)) = true) := by decide +kernel

/-- PartitionsAndPorts: routine bodies that are accepted, too long and empty; thrash parameters at their limits and beyond; lease controls of a die that the partition has, and not; semaphores free and held; registers at the ends of their ranges. -/
theorem witness_PartitionsAndPorts_ports :
    (routineAccepted [0x00B50533] = true ∧ routineAccepted [] = false ∧ routineAccepted (List.replicate 17 0x00008067) = false) ∧ (governed fresh).sems.getD 2 0 = 0 + 1 ∧
    (fresh.part? 0).any (fun p => p.dies.getLsbD 0 && !p.dies.getLsbD 1 && p.resident && p.lctl.isEmpty) = true ∧
    fresh.sems.getD 15 0 = 0 ∧ (fresh.semLastLoser.getD 15 1 = 1) ∧ 0x2000 + 8 * 15 < 0x2080 ∧ (1 : Word).getLsbD 0 = true ∧ (1 : Word).getLsbD 1 = false ∧ (2 : Word).getLsbD 1 = true := by decide +kernel

/-! ### Witnesses: groups and steps -/

/-- IllegalGroups: groups with an empty mask and not, whose prefixes are too many, unfit, or sound, with a reserved bit set in their last word, and groups that no instruction has; the one slice of a subgang stands at them. -/
theorem witness_IllegalGroups :
    (fresh.issuer = some me ∧ mine.gid = me.gid ∧ (fresh.group me.gid).subgang me.gang me.sub = [mine.idx] ∧ (fresh.slice mine).wait = none ∧ (fresh.group me.gid).shadow = false) ∧
    ((world (fun sl => { sl with active := 0 })).slice mine).active = 0 ∧
    ([([⟨.xi, 1⟩, ⟨.xi, 2⟩], true, true), ([⟨.xi, 1⟩, ⟨.rnd, 1⟩, ⟨.scp, 1⟩], true, false), ([⟨.spc, 1⟩], false, false), ([⟨.xi, 1⟩], true, false)] : List (List Prefix × Bool × Bool)).all (fun x =>
      (match (Instr.iadd x.1 ⟨0, false, false, false, false, 0, 0xF8, 0, 1, false, 0⟩).fields with | .wide op p _ => op == 0x03 && p == x.1 | _ => false) && x.1.length ≤ 3) = true ∧
    ((Grp.of 0x03 true [⟨.xi, 1⟩] (form 0 8 0 0xF8 0) 0).shape.accepts .xi && !(Grp.of 0x03 true [] (form 0 8 0 0 0) 0).shape.accepts .spc) = true ∧
    (offenceFrom (Grp.of 0x03 true [] (form 0x20 8 0 0 0) 0).shape (form 0x20 8 0 0 0) true 0 []).isSome = true ∧ (offenceFrom (Grp.of 0x03 true [] (form 0 8 0 0 0) 0).shape (form 0 8 0 0 0) true 0 []).isNone = true ∧
    prefixOf 0x1234566A = some ⟨.xi, 0x91A2B3⟩ ∧ prefixOf 0x0000001E = none ∧ prefixesOf [0x1234566A] = some [⟨.xi, 0x91A2B3⟩] := by decide +kernel

/-! ### Steps, and the spec's examples -/

/-- What an instruction leaves; the state itself where it answers none. -/
def after (i : Instr) (s : State) : State := match exec i s with | .next t => t | _ => s

/-- What the instruction of some words leaves. -/
def runs (ws : List Word) (s : State) : State := match decodeWords ws with | .ok (i, _) => after i s | .error _ => s

/-- A register of the small slice in every lane. -/
def lanes (s : State) (k : Nat) : List Word := (List.range 4).map (fun i => (s.slice mine).reg k i)

/-- R103, its example: the low, middle and high words of a 96-bit sum. -/
theorem test_iaddx_chain :
    (let s := world (fun sl => reg 0 0xFFFFFFFF (reg 1 0xFFFFFFFF (reg 2 1 (reg 4 1 sl))))
     let t1 := after (.iaddx [] (form 0x11 8 0 4 0)) s
     let t2 := after (.iaddx [] (form 0x01 9 1 5 0)) t1
     let t3 := after (.iaddx [] (form 0x01 10 2 6 0)) t2
     lanes t3 8 == [0, 0, 0, 0] && lanes t3 9 == [0, 0, 0, 0] && lanes t3 10 == [2, 2, 2, 2] && (t2.slice mine).mask 1 == 15 && (t3.slice mine).mask 1 == 0) = true := by decide +kernel

/-- R98, its example of the C form: the word 0xFC08080C subtracts 1 from `v2`. -/
theorem test_iadd_compact : lanes (runs [0xFC08080C] (world (reg 2 5))) 2 = [4, 4, 4, 4] := by decide +kernel

/-- R104, its example: `icmp.lt m3, v2, v7`. -/
theorem test_icmp : ((runs [0xC0800035, 0x01A00001] (world (fun sl => (reg 7 3 sl).setLanes 2 15 (Lanes.ofFn (fun i => word (i + 1)))))).slice mine).mask 3 = 0b0011 := by decide +kernel

/-- R118, its example: the saturating policy, none, and the trapping one. -/
theorem test_cvtn :
    (let s := world (fun sl => reg 2 0x3F800000 (reg 3 0x4788B800 sl))
     let a := runs [0x00000006, 0xC08200C5, 0x06280000] s
     let b := runs [0xC08200C5, 0x06280000] s
     lanes a 8 == [0x7BFF3C00, 0x7BFF3C00, 0x7BFF3C00, 0x7BFF3C00] && lanes b 8 == [0x7C003C00, 0x7C003C00, 0x7C003C00, 0x7C003C00] &&
       (a.slice mine).xf.get 0 == flagOF ||| flagNX && (b.slice mine).xf.get 3 == flagOF ||| flagNX) = true := by decide +kernel

/-- R122, its example: `runif v6` from the state 2^32. -/
theorem test_runif :
    (let s := world (fun sl => { sl with rng := Lanes.all 0x100000000 })
     let t := after (.runif [] (form 0 6 0 0 0)) s
     lanes t 6 == [0x3E810448, 0x3E810448, 0x3E810448, 0x3E810448] && (t.slice mine).rng.get 2 == 0x4082244102000000) = true := by decide +kernel

/-- R105 and its example: the selector 0xAAA1 extends byte 1 with its sign. -/
theorem test_bperm_sign : bytePermute 0x0000F000 0 0xAAA1 = 0xFFFFFFF0 ∧ bytePermute 0x00007000 0 0xAAA1 = 0x70 := by decide +kernel

/-- R90, its examples: a sum of four lanes, and with lane 1 inactive. -/
theorem test_gfold_tree :
    (let s (m : Mask) : State := world (fun sl => { (sl.setLanes 1 15 (Lanes.ofFn (fun i => if i = 0 then 0x3F800000 else 0x33800000))) with active := m })
     let i : Instr := .gfold [] (form 6 0x84 1 0 0)
     ((after i (s 15)).slice mine).reg 0x84 0 == 0x3F800001 && ((after i (s 13)).slice mine).reg 0x84 0 == 0x3F800001) = true := by decide +kernel

/-- R112, its example: a sum over two slices of one subgang. -/
theorem test_gfold_gang :
    (let s := (two false).modGroup 0 (fun g => (g.modSlice 0 (fun sl => { (sl.setLanes 1 15 (Lanes.ofFn (fun i => word (5 + i)))) with active := 0b1011 })).modSlice 1 (fun sl => sl.setLanes 1 15 (Lanes.all 1)))
     let t := after (.gfold [] (form 0 0x84 1 0 0)) s
     (t.slice mine).reg 0x84 0 == 23 && (t.slice ⟨0, 1⟩).reg 0x84 0 == 23) = true := by decide +kernel

/-- The values that are on their way to a register of the small slice, by lane. -/
def onTheWay (s : State) : List (Nat × List Word) := (s.slice mine).owed.map (fun o => (o.lane, o.words))

/-- R314, its example for the first slice: four additions on one word, in lane order. -/
theorem test_atom_add :
    (let s := { world (fun sl => (reg 0x82 0x20000 sl).setLanes 6 15 (Lanes.ofFn (fun i => word (i + 1)))) with mem := fresh.mem.setNum 0x20000 4 100 }
     let t := after (.atom [] (form 0x10 4 0x82 6 0)) s
     onTheWay t == [(0, [100]), (1, [101]), (2, [103]), (3, [106])] && t.mem.num 0x20000 4 == 110) = true := by decide +kernel

/-- R317, its example: four lanes claim the lowest clear bits of a word. -/
theorem test_bffcs :
    (let s := { world (reg 0x84 0x20000) with mem := fresh.mem.setNum 0x20000 8 0xFF }
     let t := after (.bffcs [] (form 0 2 0x84 0 0)) s
     onTheWay t == [(0, [8]), (1, [9]), (2, [10]), (3, [11])] && t.mem.num 0x20000 8 == 0xFFF) = true := by decide +kernel

/-- R322, its example: `addcap` on the word at 0x40 of a line, run by two lanes in turn. -/
theorem test_routine :
    (let body : List Word := [0x00072303, 0x00A302B3, 0x00567463, 0x00060293, 0x00572023, 0x00030513, 0x00000593]
     let line : List Byte := List.replicate 64 0 ++ [90] ++ List.replicate 63 0
     let a := routineOnLine body line 0x1040 8 100
     let b := routineOnLine body a.1 0x1040 8 100
     a.2 == 90 && a.1[64]? == some 98 && b.2 == 98 && b.1[64]? == some 100) = true := by decide +kernel

/-- R271, R276, their examples. -/
theorem test_mint_curves : sigmoid16 512 = 57724 ∧ sigmoid16 0 = 32768 ∧ sigmoid16 32767 = 65535 ∧ flipWeight (-1024) = 1200 ∧ flipWeight 1024 = 65535 := by decide +kernel

/-- R101, R142: a divisor of zero in lane 1 takes trap 0x0D there, and nothing is written. -/
theorem test_divide_by_zero :
    (let s := world (fun sl => (reg 1 9 (reg 8 77 sl)).setLanes 2 15 (Lanes.ofFn (fun i => if i = 1 then 0 else 3)))
     let t := after (.idiv [] (form 0 8 1 2 0)) s
     lanes t 8 == [77, 77, 77, 77] && (t.slice mine).trap.xcause &&& 0x1F == 0x0D && (t.slice mine).trap.xmask == 2 && (t.slice mine).trap.xpc == dword programBase) = true := by decide +kernel

/-- R39: a step of the placed instruction, from reset; its slice has gone on. -/
theorem test_step_runs_placed : (match step (State.reset.withFetchWord 32 0xFC08080C) with | .next t => (t.slice mine).reg 2 0 == 0xFFFFFFFF && (t.slice mine).pc == dword (programBase + 4) | _ => false) = true := by decide +kernel

/-! ### Witnesses: steps and states -/

/-- A device with no event due and no subgang chosen. -/
def resting : State := { fresh with issuer := none }

/-- StepRunsDecoded: an event that is due; a subgang chosen, with the words at its address, and with an address that is none; nothing chosen, and an event that may happen. -/
theorem witness_StepRunsDecoded :
    (({ fresh with agenda := [.errorCountPoll] }).agenda = [.errorCountPoll] ∧ fresh.agenda = [] ∧ fresh.issuer = some me ∧ (fresh.group me.gid).subgang me.gang me.sub = [0] ∧ resting.issuer = none) ∧
    me.shadows = false ∧ (⟨0, 0, 2000⟩ : Issuer).shadows = true ∧ (fresh.group 0).shadow = false ∧
    (match (State.reset.withFetchWord 32 0xFC08080C).fetchWords mine (dword programBase) fetchFuel with | (_, .words ws) => ws == [0xFC08080C] | _ => false) = true ∧
    (match fresh.fetchWords mine 0x0100000000000000 fetchFuel with | (_, .stopped _ _) => true | _ => false) = true ∧
    (match (unmapped fresh).fetchWords mine (dword programBase) fetchFuel with | (_, .stopped _ _) => true | _ => false) = true ∧
    resting.candidates ≠ [] ∧ (booted State.reset).candidates = [] ∧
    (match State.reset.withFetchWord 64 0x00200000_C0000191 with
     | s => (match s.readGlb mine (dword programBase) 4 needExec 3 with | (_, .inl (b, _)) => (word (fromBytes b)).extractLsb' 0 2 == 1 | _ => false)) = true := by decide +kernel

/-- DecodeEncodes: an instruction with each kind of field, well-formed and no event; words that decode to one. -/
theorem witness_DecodeEncodes :
    ((Instr.iadd [⟨.xi, 0x91A2B3⟩] ⟨0, false, false, false, false, 0, 0xF8, 0, 1, false, 0⟩).wellFormed && (Instr.iaddC [] ⟨2, 1, 0⟩).wellFormed && (Instr.illegalInstructionGroup ⟨[], false, 3⟩).wellFormed &&
      decide ((Instr.iadd [] wideValue).fields ≠ .event) && decide ((Instr.iaddC [] ⟨2, 1, 0⟩).fields ≠ .event) && (match decodeWords [0xFC08080C] with | .ok (_, rest) => rest.isEmpty | .error _ => false)) = true := by decide +kernel

/-- EveryStepSettles, EveryStepKeepsMemory: a device that is settled, whose memories are canonical, and that takes a step. -/
theorem witness_EveryStep : (State.reset.withFetchWord 32 0xFC08080C).settled ∧ (match step (State.reset.withFetchWord 32 0xFC08080C) with | .next _ => true | _ => false) = true ∧
    (State.reset.withFetchWord 32 0xFC08080C).mem.wf = true ∧ (State.reset.withFetchWord 32 0xFC08080C).groups.all (fun g => g.scr.wf && g.backing.wf) = true := by
  refine ⟨⟨by decide +kernel, by decide +kernel, fun h => absurd rfl h, by decide +kernel⟩, by decide +kernel, by decide +kernel, by decide +kernel⟩

/-! ### Further witnesses, a theorem to a statement -/

/-- A slice of two that waits at REGANG. -/
def rejoining (pc : Dword) (sub : Nat) : Slice := { Slice.start 128 pc with sub := sub, wait := some (.regang 15) }

/-- PartRegangElect: a gang of two whose slices wait at REGANG at one address, and at two. -/
theorem witness_PartRegangElect_rejoin :
    ([0, 8] : List Dword).all (fun d =>
      let s := fresh.modGroup 0 (fun g => { g with gangSize := 2, slices := [rejoining (dword programBase) 0, rejoining (dword programBase + d) 1], gangs := [{ g.gang 0 with parted := true }] })
      (s.group? 0).isSome && decide (0 < (s.group 0).gangs.length) && (s.group 0).unended 0 == [0, 1] && decide ((s.group 0).slices.length ≤ 128) && !(s.group 0).shadow &&
        [0, 1].all (fun i => ((s.group 0).slice i).wait == some (.regang 15) && ((s.group 0).slice i).tx.isNone)) = true := by decide +kernel

/-- TrapDelivery: a pair in an open region whose registers are all full, and one that is owed a value. -/
theorem witness_TrapDelivery_restart :
    (let f (owed : List Owed) (sl : Slice) : Slice := { sl with regpc := dword programBase + 16, owed := owed }
     [([], true), ([(⟨1, 1, 0, [7], none⟩ : Owed)], false)].all (fun x =>
       let sl := (world (f x.1)).slice mine
       decide (sl.owed = [] ∧ (∀ y ∈ sl.v, y.full = 15) ∧ (∀ y ∈ sl.s.cells, y.full = true)) == x.2)) = true := by decide +kernel

/-- WaitsOnWords: an entry that a shootdown alone has woken, and one that a change of its word has. -/
theorem witness_WaitsOnWords_free :
    ([true, false] : List Bool).all (fun b =>
      let s := wokenAt 0x62 .ldw false ⟨24, 2, 1, 0⟩
      let s := { s with parks := s.parks.map (fun (e : ParkEntry) => { e with free := b }) }
      (match s.parkEntry? mine 3 with | some e => e.woken && e.free == b | none => false) && (s.slice mine).retry.wlim == 2 && !(s.group 0).behind 0) = true := by decide +kernel

/-- Queues: each misuse of QINIT, and an opening of a queue in use; rings whose line is absent, for a push, a pop and a look. -/
theorem witness_Queues_misuse :
    (let at3 (base cfg len : Word) : State := queued Queue.closed |>.modSlice mine (fun sl => reg 0x83 base (reg 0x81 cfg (reg 0x82 len sl)))
     ([(0, 0x2000000, 32), (8, 0x10001, 32), (0, 0x10001, 24), (16384, 0x10001, 32), (16368, 0x10001, 32), (0, 0x10001, 0), (0, 0x20001, 32), (0, 0x100, 32)] : List (Word × Word × Word)).all (fun x =>
       let s := at3 x.1 x.2.1 x.2.2
       let c := at_ s 0x75 [] (form 0 0 0x83 0x81 0x82)
       alone s 0x75 [] (form 0 0 0x83 0x81 0x82) && uni c s 0x83 == x.1.toNat && uni c s 0x81 == x.2.1.toNat && uni c s 0x82 == x.2.2.toNat)) = true ∧
    ([open_ 1 1, { open_ 0 1 with pushers := [0] }, { open_ 0 1 with poppers := [0] }] : List Queue).all (fun q => alone (queued q) 0x75 [] (form 0 0 0x80 0x81 0x82) && ((queued q).group 0).queue 0 == q && q.valid) = true ∧
    ([(0x76, form 0 0 8 0 0), (0x77, form 0 8 0 0 0), (0x78, form 0 8 0 0 0)] : List (Nat × WForm)).all (fun x =>
      let s := onGroup (fun g => { g with absent := [0] }) (queued (open_ 1 1))
      alone s x.1 [] x.2 && ((s.absentAmong 0 ((open_ 1 1).lines 0)).2 == some 0) && ((s.absentAmong 0 ((open_ 1 1).lines 1)).2 == some 0)) = true := by decide +kernel

/-- The bytes that the copies of the next witness move, and what stands where CPYR combines them: elements of both signs, large, small, and none. -/
def landingBytes (k : Nat) : List Byte := (List.range 128).map (fun i => BitVec.ofNat 8 ((i * 37 + k * 91 + i / 5 * 13) % 256))

/-- The small device with one copy whose source and destination hold bytes; the index list names row 3. -/
def landing (c : Copy) : State :=
  let s := onGroup (fun g => { g with scr := (g.scr.setBytes 0 (landingBytes 1)).setNum 4096 4 3 }) (copying [c] ⟨0, [], []⟩)
  { s with mem := (s.mem.setBytes 0x20000 (landingBytes 2)).setBytes 0x20180 (landingBytes 3) }

/-- CopiesLand: a piece of a CPYG, of a CPYR of each operation and type, and of a converting CPY, whose places can be had. -/
theorem witness_CopiesLand_kinds :
    (([({ copy0 with kind := .cpyg, index := 4096 }, 0x20180, 128)] ++
      (List.range 6).flatMap (fun ty => (List.range (if ty < 4 then 5 else 3)).map (fun op => ({ copy0 with kind := .cpyr op ty }, 0x20000, 128))) ++
      [({ copy0 with cvt := some (4, 8, 0) }, 0x20000, 64), ({ copy0 with cvt := some (8, 4, 1), satB := true }, 0x20000, 256)] : List (Copy × Nat × Nat))).all (fun x =>
        let c := x.1
        let s := landing c
        (s.core ⟨0, 0⟩).copies.find? (fun y => y.id == c.id) == some c && c.block.isNone && c.landed.isEmpty && c.piece 0 == some (0, 0, 128) && !(c.release && decide (5 ≤ c.scope)) &&
          (c.pieceLines (s.group 0) 0 0 128).1.all (fun l => !s.copyMustWait c 0 l true) && (c.pieceLines (s.group 0) 0 0 128).2.all (fun l => !s.copyMustWait c 0 l false) &&
          (match s.sidePlaces c .glb x.2.1 x.2.2 ⟨true, false, false, false⟩ 0 with
           | (v, .inl _) => (match v.sidePlaces c .scr 0 128 ⟨false, true, false, false⟩ 1 with | (_, .inl q) => q == [(.scr 0 0, 128)] | _ => false)
           | _ => false)) = true := by decide +kernel

/-- The words of a coupling image of two coins of one colour, with one boundary coin. -/
def imageWords : List Nat := [2 + 2 ^ 16 + 2 ^ 24 + 2 ^ 32, 0, 0, 2 ^ 32 + 0x3F800000, 0xBF000000, 1 * 2 ^ 16 + 7, 0x3E800000, 0]

/-- The Mint about to load an image whose words are given, which stands in global memory. -/
def loading (ws : List Nat) : State :=
  let s := mint Mint.clear (.cpl 0x20000)
  { s with mem := ws.zipIdx.foldl (fun m x => m.setNum (0x20000 + 8 * x.2) 8 x.1) s.mem }

/-- The words of an image with one of them changed. -/
def spoilt (k x : Nat) : List Nat := imageWords.set k x

/-- MintCommands: headers that are none, images with a word that is none in each of their parts, sound ones with couplings and without, and one whose image is poisoned. -/
theorem witness_MintCommands_images :
    ([spoilt 0 (imageWords.getD 0 0 + 2 ^ 31), spoilt 0 (imageWords.getD 0 0 + 2 ^ 41), spoilt 0 0, spoilt 0 5000, spoilt 1 1, spoilt 2 1, spoilt 3 0x7F800000, spoilt 3 (2 ^ 32 * 2 + 1), spoilt 4 (2 ^ 32 + 1), spoilt 5 (2 ^ 12), spoilt 5 0,
      spoilt 5 (2 ^ 24 + 2 ^ 16), spoilt 6 (2 ^ 32 + 1), spoilt 7 (2 ^ 40 + 1), imageWords, (imageWords.set 3 0).set 4 0 |>.set 6 0] : List (List Nat)).all (fun ws =>
        let s := loading ws
        (match s.imageBytes ⟨0, 0⟩ 0 (s.unitIdOf (s.group 0)) 0x20000 16 with
         | (u, .inl hd) => hd.length == 16 && decide ((u.core ⟨0, 0⟩).mint = (s.core ⟨0, 0⟩).mint) && (u.group 0).slices.length == (s.group 0).slices.length && fromBytes (hd.take 8) == ws.getD 0 0
         | _ => false) &&
        (match s.imageBytes ⟨0, 0⟩ 0 (s.unitIdOf (s.group 0)) 0x20000 64 with
         | (u, .inl bs) => bs.length == 64 && decide ((u.core ⟨0, 0⟩).mint = (s.core ⟨0, 0⟩).mint) && (u.part? 0).any (fun p => p.dies == 1)
         | _ => false)) = true ∧
    (let s := loading imageWords
     match { s with mem := s.mem.addPoison 128 0x20000 1 }.readImage ⟨0, 0⟩ 0 (s.unitIdOf (s.group 0)) 0x20000 with | (_, .poisoned _) => true | _ => false) = true ∧
    (match (mint Mint.clear (.read 0 0x80)).core ⟨0, 0⟩ with | k => k.mint.queue.map (fun c => c.op) == [.read 0 0x80]) = true := by decide +kernel

/-- MintSweeps: sweeps and steps on a poisoned group; in physical mode a window that is not full, one that is, and one that is judged biased on either side. -/
theorem witness_MintSweeps_physical :
    ([.sweep 3, .pick 2] : List MintOp).all (fun op => ([({ Mint.clear with poisoned := [4] }, false), ({ Mint.clear with physical := true }, false), ({ Mint.clear with physical := true, pn := 65472, pc := 32700 }, false),
      ({ Mint.clear with physical := true, pn := 65472, pc := 33424 }, true), ({ Mint.clear with physical := true, pn := 65472, pc := 32048 }, true)] : List (Mint × Bool)).all (fun x =>
        let s := sweeps op 2 x.1
        let m := (s.core ⟨0, 0⟩).mint
        m.current == some (sweeping op, 2) && m.queue == [sweeping op] && (s.mintStall ⟨0, 0⟩).isNone && m.coupling == some couplings && m.nc == 2 && m.physical == x.1.physical && m.poisoned == x.1.poisoned &&
          (!x.2 || decide (65536 ≤ m.pn + 64)) && (!x.2 || (List.range 65).any (fun k => decide (656 ≤ ((m.pc + k : Nat) : Int) - 32768)) || (List.range 65).all (fun k => decide (((m.pc + k : Nat) : Int) - 32768 ≤ -656))))) = true := by decide +kernel

/-- AtomicInstructions: the routine of R322, and bodies that R321 takes and does not: each kind of instruction, a branch to the end and one past it, one to itself, one backward, a load and a store of a doubleword, a jump. -/
theorem witness_AtomicInstructions_routines :
    routineAccepted [0x00072303, 0x00A302B3, 0x00567463, 0x00060293, 0x00572023, 0x00030513, 0x00000593] = true ∧
    ([0x00B50533, 0x40B50533, 0x00151513, 0x40155513, 0x00001537, 0x00B50263, 0x00054503, 0x00A70023, 0x00A72023] : List Word).map (fun w => routineAccepted [w]) = [true, true, true, true, true, true, true, true, true] ∧
    ([0x00B50463, 0x00B50063, 0xFEB50EE3, 0x00053503, 0x00A73023, 0x00008067, 0x02B50533, 0x00000073] : List Word).map (fun w => routineAccepted [w]) = List.replicate 8 false ∧
    routineAccepted (List.replicate 16 0x00B50533) = true ∧ routineAccepted (List.replicate 17 0x00B50533) = false ∧ (List.replicate 128 (0 : Byte)).length = 128 := by decide +kernel

/-- Transactions: aborts of a slice that is owed a value, and that is owed none; waits for such a value with a trap to take then and without; a conflict with a parked access, and with a commit. -/
theorem witness_Transactions_drain :
    ([[], [(⟨1, 1, 0, [7], none⟩ : Owed)]] : List (List Owed)).all (fun o =>
      let s := world (fun sl => { inTx false false sl with owed := o })
      alone s 0xC6 [] (form 0 0 0 4 0) && alone s 0xC8 [] (form 0x80 0 0 0 0) && (s.slice mine).tx == some (opened false) && decide ((s.slice mine).owed = [] ∧ (∀ x ∈ (s.slice mine).v, x.full = 15) ∧ ∀ x ∈ (s.slice mine).s.cells, x.full = true) == o.isEmpty) = true ∧
    ([none, some (dword programBase, ⟨0x17, 0, 15, 1⟩)] : List (Option (Dword × Trap))).all (fun w => [[], [(⟨1, 1, 0, [7], none⟩ : Owed)]].all (fun o =>
      ((world (fun sl => { sl with owed := o, wait := some (.abortDrain w) })).slice mine).wait == some (.abortDrain w))) = true ∧
    (match ((wokenAt 0x62 .ldw false ⟨24, 1024, 0, 0⟩).slice mine).wait with | some (.access _) => true | _ => false) = true := by decide +kernel

/-- The desk where the root table has a malformed second entry. -/
def flawed (r : Record) : State := let s := desk r id; { s with mem := s.mem.setNum 0x200008 8 1 }

/-- WorkInstructions: records whose join counter can be reached, cannot yet, and never; a queue area that is full: for an enqueue, and for what SPAWN and LAUNCH leave. -/
theorem witness_WorkInstructions_unstarted :
    ([(0x20040, 0), (0x900000000000, 1), (0x1000000000000, 2)] : List (Dword × Nat)).all (fun x =>
      let r := { plain with join := x.1 }
      let s := flawed r
      s.queueRoom 0 && r.bad 1 == none && alone s 0xD0 [] (form 0 0 0x80 0 0) && alone s 0xD3 [] (form 0 0xC0 0x80 0xC1 0xC0) && reads s 0xD0 (form 0 0 0x80 0 0) 0x20000 == some none &&
        (match x.2, s.workReach controlDie 0 0 x.1 needBoth 1 with | 0, (_, .at_ _) => true | 1, (_, .blocked _) => true | 2, (_, .failed 8 1) => true | _, _ => false) &&
        (match x.2, (s.enqueueAll (some 0) true [queuedOf r true]).2 with | 0, ([], none) => true | 1, ([_], some (.blocked _)) => true | 2, ([_], some (.failed 8 1)) => true | _, _ => false)) = true ∧
    (let s := { desk plain id with partitions := (desk plain id).partitions.map (fun (p : Partition) => { p with queueCap := 0 }) }
     alone s 0xD0 [] (form 0 0 0x80 0 0) && alone s 0xD3 [] (form 0 0xC0 0x80 0xC1 0xC0) && reads s 0xD0 (form 0 0 0x80 0 0) 0x20000 == some none && (s.enqueueAll (some 0) true [queuedOf plain true]).2 == ([queuedOf plain true], none)) = true ∧
    ([(0x20044, 0), (0x20080, 0), (0x20080, 0x1000000)] : List (Word × Word)).all (fun x =>
      let s := desk plain (fun sl => reg 0x88 x.1 (reg 0x89 x.2 sl))
      alone s 0xD3 [] (form 0 0x88 0x80 0xC1 0xC0) && joinWords ((s.slice mine).reg 0x88 0) ((s.slice mine).reg 0x89 0) == joinWords x.1 x.2) = true ∧
    ([(0x20004, 0), (0x20000, 0x1000000)] : List (Word × Word)).all (fun x => alone (named x.2 x.1) 0xD3 [] (form 0 0xC0 0x80 0xC1 0xC0) && alone (named x.2 x.1) 0xD1 [] (form 0 0 0x80 0xC1 0)) = true := by decide +kernel

/-- WorkProceeds: a record that is passed over before one that is placed, with a reservation of its own and without; the last record passed over. -/
theorem witness_WorkProceeds_passed :
    (let big := queuedOf { pair2 with shape := 0x1010401 } false
     let small := { queuedOf { plain with addr := 0x20040 } false with serial := 1 }
     let s : State := { line [big, small] with groups := (List.range 94).map (fun k => { Group.vacant with gid := k + 1, core := k + 1, pages := 128 }) }
     s.readyQueue 0 == [big, small] && (s.coresFor big).isNone && (s.coresFor small).isSome && big.record.cos != 1 && (s.die 0).reservations.isEmpty && (List.range 12).all (fun cl => s.boundTo big cl) && !(s.die 0).inReset &&
       (List.range 12).map (fun cl => (s.coresIn big cl).length) == [1, 0, 0, 0, 0, 0, 0, 0, 0, 0, 0, 1] &&
       (let t := s.modDie 0 (fun d => { d with reservations := d.reservations ++ [{ serial := big.serial, cluster := 0, priority := big.priority, start := d.cycle, lapsed := false }] })
        (t.coresFor small).isSome && (match exec (.placement 0) s with | .next u => u.queued.length == 1 && u.groups.length == 95 && (u.die 0).reservations.length == 1 | _ => false))) = true := by decide +kernel

/-- WorkProceeds: a cancelled unit with a bitmap and a completion counter, and one whose access for its tile still waits; a partition that is leaving, whose records stand still. -/
theorem witness_WorkProceeds_finishes :
    ([none, some 3] : List (Option Nat)).all (fun c => ([none, some 0x20080] : List (Option Dword)).all (fun b => ([0, 0x20040] : List Dword).all (fun k =>
      let u : UnitState := ⟨0, 1, 0, { plain with completion := k }, b, 0, false, 0, 0, 0, none, false, c, 0⟩
      let s := { desk plain id with units := [u], levels := (List.range 4).map (fun k => live (plain.key (k + 1))) }
      s.unit? 0 == some u && !s.counterAccesses.any (fun a => a.uid == some 0) && (match (s.unitReach u 0x20080).2 with | .at_ _ => true | _ => false) &&
        (match ((([1, 2, 3, 4].foldl (fun v k => v.modLevel u.part (u.record.key k) (fun l => { l with errors := l.errors + 1, firstCause := some (l.firstCause.getD 3) })) s).modUnit 0 (fun x => { x with stage := 1 })).unitReach { u with stage := 1 } 0x20040).2 with
         | .at_ _ => true
         | _ => false)))) = true ∧
    (let s := { desk plain id with counterAccesses := [⟨0, 0x20080, some 1, some 0, .fault 5⟩] }
     s.counterAccesses.any (fun a => a.uid == some 0)) = true ∧
    (let s := line [queuedOf plain false]
     ({ s with partitions := s.partitions.map (fun (p : Partition) => { p with leaving := true }) }).readyQueue 0 == []) = true := by decide +kernel

/-- FabricMessages: a PUTS whose signal is a release that the hosts' lines hold back; the signal and the read of another package held back by those lines and by a full stream; a GETR that every lane has answered with lane 3 failed; a flit past a gap; peer entries at and beyond the bounds of a package's and a partition's number; a PUTS of no bytes at an address that is not canonical. -/
theorem witness_FabricMessages_held :
    (let c := { putting 2 [0, 1] none with release := true }
     let s := { mate (copying [c] ⟨0, [], []⟩) with backInvalidates := [7] }
     (s.core ⟨0, 0⟩).copy? 0 = some c ∧ s.reachable 3 = true ∧ s.streamFull 3 = false ∧ c.release = true ∧ s.backInvalidates ≠ [] ∧ c.first = 2 ∧ 2 ≤ c.landed.length) ∧
    (let s := { tabled fresh with kept := List.replicate 1024 ⟨⟨0, 3, 0, false, .signal 0 0 1⟩, none, 0, none⟩ }
     s.streamFull (packetOf 0 false (.read 0 0x20000 4 mine 2 1)).src = true ∧ (packetOf 0 false (.read 0 0x20000 4 mine 2 1)).src ≠ s.package) ∧
    (let x : Getr := { tag := 0, dst := 8, regs := 1, eff := 15, package := 3, part := 0, addrs := Lanes.all 0x20000, left := 0, failed := 8, unsent := 0, got := [], acquire := false, scope := 5, pc := 0 }
     x.left = 0 ∧ x.failed ≠ 0 ∧ lowestLane x.failed = 3 ∧ { x with failed := 0 }.failed = 0) ∧
    (let k := (mate fresh).link 0
     k.up = true ∧ ([⟨1023, true, 0⟩, ⟨0, true, 0⟩, ⟨5, false, 0⟩] : List Flit).map (fun x => (x.crcOk, x.seq == k.expected)) = [(true, false), (true, true), (false, false)]) ∧
    (let s := { fresh with bootstat := 0x80000000 }
     s.bootstat.getLsbD 31 = true ∧ (s.part? 0).isSome = true ∧ ([⟨true, 4096, 0, 0⟩, ⟨true, 0, 8, 0⟩, ⟨true, 4095, 7, 0⟩] : List PeerEntry).map (fun e => decide (4096 ≤ e.package ∨ 8 ≤ e.part)) = [true, true, false]) ∧
    (let s := mate (parcel 0x20000 0x20100 0 0x20200 0x1000000)
     alone s 0xE0 [] (form 0 0x80 0x82 0x84 0) = true ∧ firstOutside (s.group 0) .glb (2 ^ 56 + 0x20000) 1 = some (2 ^ 56 + 0x20000) ∧ firstOutside (s.group 0) .glb 0x20100 1 = none) := by decide +kernel

/-- The seed of a signing key. -/
def signer : List Byte := List.replicate 32 7

/-- The header and the body of an image of 8 bytes. -/
def unsigned : List Byte := List.replicate 264 0

/-- That image with its signature (R420). -/
def signedImage : List Byte := unsigned ++ edSign signer (sha512 unsigned)

theorem signedImage_parts : signedImage.length = 328 ∧ signedImage.take 264 = unsigned := by decide +kernel

theorem signedImage_verifies : edVerify (edPublic signer) (sha512 (signedImage.take 264)) ((signedImage.drop 264).take 64) = true := by decide +kernel

/-- A device whose flash slots and mailbox hold the image and whose fuses name its key. -/
def imaged (a b : Bool) : State :=
  { State.reset with
    flashA := if a then some ⟨signedImage⟩ else none
    flashB := if b then some ⟨signedImage⟩ else none
    mailbox := signedImage
    keyHashes := [sha512 (edPublic signer)] }

/-- StartUpAndIdentity: where the fields of the image stand is open (log 10); wherever they give its body's length, its SVN and its key, the image is accepted. -/
theorem imaged_accepted (h : Config.imageFields signedImage = ⟨8, 5, 0, [edPublic signer]⟩) (a b : Bool) : (imaged a b).imageError signedImage = 0 := by
  simp [State.imageError, imageKey, imageDigestOf, imageSigned, imageSignature, h, signedImage_parts.1, signedImage_verifies, imaged, State.reset]

/-- StartUpAndIdentity: the preferred slot boots, the other one where the preferred one is empty, and where an image that waits for its COMMIT fails; recovery boots the image of the mailbox. -/
theorem witness_StartUpAndIdentity_accepted (h : Config.imageFields signedImage = ⟨8, 5, 0, [edPublic signer]⟩) :
    ((imaged true false).slotError false = 0 ∧ (imaged true false).preferB = false ∧ (imaged true false).pendingCommit = none) ∧
    ((imaged false true).slotError false ≠ 0 ∧ (imaged false true).slotError true = 0) ∧
    (let s := { imaged true true with preferB := true, pendingCommit := some 5 }
     s.slotError s.preferB = 0 ∧ s.slotError (!s.preferB) = 0 ∧ s.pendingCommit ≠ none) ∧
    (let s := { imaged true true with bootstat := 0x40000000, sems := (imaged true true).sems.set 1 1 }
     s.bootstat.getLsbD 30 = true ∧ s.sems.getD 1 0 = 0 + 1 ∧ s.imageError s.mailbox = 0) := by
  have e := imaged_accepted h
  refine ⟨⟨e true false, rfl, rfl⟩, ⟨by decide, e false true⟩, ⟨e true true, e true true, by decide⟩, by decide, by decide, e true true⟩

/-- PagesMoveAndMap: the frames of the pages that move are whole words and stand apart from each other and from the leaf; a page whose first word is empty; a MAP given as moving. -/
theorem witness_PagesMoveAndMap_frames :
    ([(page .moving .host .dev 4 (some 0) false (some 0x400000) (some 0x500000)), page .moving .unpop .dev 0 none false (some 0x400000) none, page .moving .dev .host 1 (some 0) false (some 0x400000) (some 0x500000)]).all (fun d =>
      let s := migrating d 1000000
      match s.leafOf 0 0x40001000 with
      | some (_, a, _) => d.frame .dev == 0x400000 && (d.frame .dev) % 8 == 0 && (d.frame .host) % 8 == 0 && decide (a + 8 ≤ 0x400000) && ({ s with mem := s.mem.setFull 0x400000 false }.mem.full 0x400000 == false)
      | none => false) = true ∧
    ((⟨0x40001000, 0, 0x301000, ⟨true, true, false, false⟩, true, .moving, false⟩ : MapCommand).home = .moving) := by decide +kernel

/-- BaseDiesAndHosts: a base die in reset and one in service whose port's tag is in use; a request of the generation that a rewrite brings, one that waits for it, one of no generation; a line of no stack's; an answer that frees a tag for the request that stalls; answers of requests turned away. -/
theorem witness_BaseDiesAndHosts_flights :
    (let q : BaseRequest := ⟨3, 1, 7, 0, 0x80, 0, List.replicate 128 9, 3⟩
     let s := serving 1 0 0
     let w : Rewrite := ⟨table, [1], [2, 3], [], []⟩
     (fresh.base 3).up = false ∧ (s.base 3).up = true ∧ (s.base 3).flights.any (fun x => x.q.port == 1 && x.q.tag == 7) = true ∧ w.acked q = true ∧ ({ w with baseAcks := [2] } : Rewrite).acked { q with port := 48 } = false ∧ w.acked { q with port := 48 } = true ∧ (⟨table, [0], [], [], []⟩ : Rewrite).acked { q with port := 47 } = false ∧
     (1 = s.generation ∨ (1 : Nat) = (s.generation + 1) % 256) ∧ ¬(2 = s.generation ∨ (2 : Nat) = (s.generation + 1) % 256) ∧ (paIn table 3 (2 ^ 40)).isNone = true ∧ (paIn table 3 0x80).isSome = true ∧ q.data.length = 128 ∧ (paIn table 3 0x80).all (fun pa => pa % 128 == 0)) ∧
    (let s := serving 2 0 0
     let f : BaseFlight := ⟨1, ⟨3, 1, 0, 0, 0x100, 0, [], 0⟩, 0, [], 0, false⟩
     let u := { s with bases := s.bases.modify 3 (fun b => { b with stalled := [f], flights := b.flights ++ (List.range 7).map (fun k => ⟨1, ⟨3, 1, k, 0, 0x180, 0, [], 0⟩, 0, [], 0, false⟩) }) }
     (u.base 3).stalled.find? (fun x => x.q.port == 1) = some f ∧ u.rewrite = none ∧
       (match exec (.wack 3 1 7) u with | .next t => (t.base 3).stalled.isEmpty && (t.base 3).flights.any (fun x => x.q.tag == 7 && x.q.line == 0x100) | _ => false) = true) ∧
    (let s := serving 1 1 5
     ((s.base 3).flights.head?.any (fun x => x.status == 1)) = true ∧ (s.base 3).stalled = []) := by decide +kernel

/-- DiesErrorsAndPower: ports that are up, down, and none, giving caps at their limits; a line that a core of the die owns; a count at the limit of one hour; two packets held by the link between their dies, one of them out of the vaults. -/
theorem witness_DiesErrorsAndPower_more :
    (let s := { booted fresh with portsUp := 1 }
     ([(0, 1600), (2, 3200), (1, 1600), (0, 1599), (0, 3201)] : List (Nat × Nat)).map (fun x => decide ((2 ≤ x.1 ∨ s.portsUp.getLsbD x.1 = true) ∧ 1600 ≤ x.2 ∧ x.2 ≤ 3200)) = [true, true, false, false, false]) ∧
    (let s := fresh.modDie 0 (fun d => { d with owned := [(5, 95), (6, 96)] })
     (5, 95) ∈ (s.die 0).owned ∧ 95 / 96 = 0 ∧ 96 / 96 ≠ 0) ∧
    (let l : List (Nat × Nat) := List.replicate 256 (3, 0)
     let few (n : Nat) (x : Nat × Nat) : Bool := decide ((l.filter (fun y => y.1 == x.1 && decide (n ≤ y.2 + 3600 * 10 ^ 9))).length < 256)
     l.all (fun x => few 0 x == false) = true ∧ l.all (fun x => few (3600 * 10 ^ 9) x == false) = true ∧ l.all (fun x => few (3600 * 10 ^ 9 + 1) x) = true) ∧
    (let p : ClearPacket := ⟨2, 0, 1, 0, none, [], [], false, 0, none⟩
     let n := 8 + min 2 1 * (15 - min 2 1) / 2 + (max 2 1 - min 2 1 - 1)
     let s := { fresh with ucie := fresh.ucie.set n true, clearPackets := [{ p with heldBy := some n }], partitions := fresh.partitions.map (fun (x : Partition) => { x with savedClear := [{ p with heldBy := some n }] }) }
     n = 15 ∧ n < s.ucie.length ∧ s.ucie.getD n false = true ∧ p.fromDie ≠ p.toDie ∧ (s.part? 0).any (fun x => x.savedClear.any (fun c => c.heldBy == some 15)) = true ∧
       8 + min 7 6 * (15 - min 7 6) / 2 + (max 7 6 - min 7 6 - 1) = 35) := by decide +kernel

/-- PartitionsAndPorts: ports that are up, down and down while the device starts; a partition whose slice still waits for a remote load, and one that is leaving; a page that SPUNP has dropped and whose copies stand; the mailbox at its first and last word, with its semaphore and without. -/
theorem witness_PartitionsAndPorts_more :
    (let s := { booted fresh with portsUp := 2 }
     s.portsUp.getLsbD 1 = true ∧ s.portsUp.getLsbD 0 = false ∧ s.bootstat.getLsbD 31 = true ∧ fresh.bootstat.getLsbD 31 = false ∧ fresh.sems.getD 0 0 = 0) ∧
    (let x : Getr := { tag := 0, dst := 8, regs := 1, eff := 1, package := 3, part := 0, addrs := Lanes.all 0x20000, left := 1, failed := 0, unsent := 0, got := [], acquire := false, scope := 5, pc := 0 }
     let s := world (fun sl => { sl with getrs := [{ x with package := fresh.package }] })
     s.laneParked mine { x with package := s.package } 0 = false ∧ (s.part? 0).any (fun p => p.resident && !p.ending && !p.leaving) = true ∧
       { s with parkedPackets := [(packetOf 0 false (.read 0 0x20000 4 mine 0 0), .fault 5)] }.laneParked mine { x with package := s.package } 0 = true ∧
       (({ s with partitions := s.partitions.map (fun (p : Partition) => { p with leaving := true }) }).part? 0).any (fun (p : Partition) => p.leaving) = true) ∧
    (let s := fresh.modGroup 0 (fun g => { g with pageState := g.pageState.set 1 (.unpinning true 3) })
     (s.group 0).pageState.getD 1 .pinned = .unpinning true 3 ∧ (s.group 0).pageState.getD 0 .pinned = .pinned ∧ 1 < (s.group 0).pages) ∧
    (let s := { fresh with bootstat := 0x40000000, sems := fresh.sems.set 1 1 }
     s.bootstat.getLsbD 30 = true ∧ s.sems.getD 1 0 = 0 + 1 ∧ s.sems.getD 1 0 ≠ 1 + 1 ∧ 0x100000 ≤ 0x100000 + 2 ^ 26 - 4 ∧ 0x100000 + 2 ^ 26 - 4 < 0x100000 + 2 ^ 26) := by decide +kernel

/-- StepRunsDecoded: a read of the host stands before what the device does next. -/
theorem witness_StepRunsDecoded_reads :
    (let s := { booted fresh with portsUp := 1, asks := [.register 0 0x1000, .time] }
     s.asks = .register 0 0x1000 :: [.time] ∧ (match step s with | .next t => t.asks == [.time] && t.replies == [.register 0x80000000] && t.issuer == s.issuer | _ => false) = true) := by decide +kernel
end Sys2Proof.Tests
end

-- ==== Sys2Proof/Proofs: every step keeps the memories canonical (O59) ====
section
/-! The canonical form of every memory, part by part: a slice's lane stores, a group's scratchpad with its backing, a die's shared memories and what a partition keeps of them in the vaults; and what each change of a part has to keep (R10, R393). -/

namespace Sys2Proof.Machine

/-! ### The parts of a state -/

/-- The lane stores of a slice are in their canonical form. -/
def Slice.memWf (sl : Slice) : Prop := ∀ i, (sl.store.get i).wf = true

/-- The memories of a group are: its scratchpad, its backing pages, and the lane stores of its slices and of their shadows. -/
def Group.memWf (g : Group) : Prop :=
  g.scr.wf = true ∧ g.backing.wf = true ∧ (∀ sl ∈ g.slices, sl.memWf) ∧ ∀ x ∈ g.shadows, x.slice.memWf

/-- The memories of a die are: its chip scratchpad and its cluster memories. -/
def Die.memWf (d : Die) : Prop := d.chp.wf = true ∧ ∀ m ∈ d.cls.cells, m.wf = true

/-- The memories that a partition swapped out keeps are. -/
def Partition.memWf (p : Partition) : Prop :=
  (∀ x ∈ p.savedChp, x.2.wf = true) ∧ ∀ x ∈ p.savedCls, ∀ m ∈ x.2.cells, m.wf = true

/-- The state that an outcome goes on with, if it does, is in canonical form. -/
def Outcome.memWf (o : Outcome) : Prop := ∀ t, o = .next t → t.memWf

/-- What a matrix command leaves of its scratchpad, if it is done, is. -/
def Executed.memWf (x : Executed) : Prop := ∀ m scr flags, x = .done m scr flags → scr.wf = true

variable {s t : State} {g : Group} {sl : Slice} {d : Die} {p : Partition}

theorem State.memWf.mem (h : s.memWf) : s.mem.wf = true := h.1
theorem State.memWf.groups (h : s.memWf) : ∀ g ∈ s.groups, g.memWf := h.2.1
theorem State.memWf.dies (h : s.memWf) : ∀ d ∈ s.dies.cells, d.memWf := h.2.2.1
theorem State.memWf.partitions (h : s.memWf) : ∀ p ∈ s.partitions, p.memWf := h.2.2.2

theorem Group.memWf.scr (h : g.memWf) : g.scr.wf = true := h.1
theorem Group.memWf.backing (h : g.memWf) : g.backing.wf = true := h.2.1
theorem Group.memWf.slices (h : g.memWf) : ∀ sl ∈ g.slices, sl.memWf := h.2.2.1
theorem Group.memWf.shadows (h : g.memWf) : ∀ x ∈ g.shadows, x.slice.memWf := h.2.2.2

theorem Die.memWf.chp (h : d.memWf) : d.chp.wf = true := h.1
theorem Die.memWf.cls (h : d.memWf) : ∀ m ∈ d.cls.cells, m.wf = true := h.2

theorem Partition.memWf.savedChp (h : p.memWf) : ∀ x ∈ p.savedChp, x.2.wf = true := h.1
theorem Partition.memWf.savedCls (h : p.memWf) : ∀ x ∈ p.savedCls, ∀ m ∈ x.2.cells, m.wf = true := h.2

theorem Outcome.memWf.next (h : s.memWf) : Outcome.memWf (.next s) := fun _ e => Host.Outcome.next.inj e ▸ h
theorem Outcome.memWf.fault (r : Fault) : Outcome.memWf (.fault r) := fun _ e => nomatch e
theorem Outcome.memWf.refused (r : Refusal) : Outcome.memWf (.refused r) := fun _ e => nomatch e

theorem Executed.memWf.done {m : Matrix} {scr : Memory} {flags : Flags} (h : scr.wf = true) : Executed.memWf (.done m scr flags) :=
  fun _ _ _ e => by cases e; exact h
theorem Executed.memWf.failed (code : Nat) (m : Matrix) : Executed.memWf (.failed code m) := fun _ _ _ e => nomatch e
theorem Executed.memWf.waits : Executed.memWf .waits := fun _ _ _ e => nomatch e

/-- The state of a pair that is known. -/
theorem State.memWf.of_pair {α : Type} {x : State × α} {a : α} (h : x.1.memWf) (e : x = (s, a)) : s.memWf := by
  subst e; exact h

theorem State.memWf.of_pair_some {α : Type} {x : α × Option State} {a : α} (h : ∀ t ∈ x.2, t.memWf) (e : x = (a, some s)) : s.memWf := by
  subst e; exact h s rfl

/-! ### A change of other fields -/

theorem State.memWf.frame (h : s.memWf) (hm : t.mem = s.mem) (hg : t.groups = s.groups) (hd : t.dies = s.dies)
    (hp : t.partitions = s.partitions) : t.memWf :=
  ⟨hm ▸ h.mem, hg ▸ h.groups, hd ▸ h.dies, hp ▸ h.partitions⟩

theorem Group.memWf.frame {k : Group} (h : g.memWf) (hs : k.scr = g.scr) (hb : k.backing = g.backing) (hl : k.slices = g.slices)
    (hx : k.shadows = g.shadows) : k.memWf :=
  ⟨hs ▸ h.scr, hb ▸ h.backing, hl ▸ h.slices, hx ▸ h.shadows⟩

theorem Slice.memWf.frame {x : Slice} (h : sl.memWf) (e : x.store = sl.store) : x.memWf := fun i => e ▸ h i

/-! ### Lists, banks and lanes -/

theorem forall_mem_modify {α : Type} {P : α → Prop} {l : List α} {i : Nat} {f : α → α} (h : ∀ x ∈ l, P x) (hf : ∀ x, P x → P (f x)) :
    ∀ x ∈ l.modify i f, P x := by
  intro x hx
  obtain ⟨k, hk, rfl⟩ := List.mem_iff_getElem.mp hx
  rw [List.getElem_modify]
  have hl := h _ (List.getElem_mem (by simpa using hk))
  split
  · exact hf _ hl
  · exact hl

theorem forall_mem_mapIdx {α β : Type} {P : α → Prop} {Q : β → Prop} {l : List α} {f : Nat → α → β} (h : ∀ x ∈ l, P x)
    (hf : ∀ i x, P x → Q (f i x)) : ∀ x ∈ l.mapIdx f, Q x := by
  intro x hx
  obtain ⟨k, hk, rfl⟩ := List.mem_mapIdx.mp hx
  exact hf _ _ (h _ (List.getElem_mem _))

theorem forall_mem_some {α : Type} {P : α → Prop} {a : α} (h : P a) : ∀ x ∈ some a, P x := fun _ e => Option.some.inj e ▸ h

theorem forall_mem_none {α : Type} {P : α → Prop} : ∀ x ∈ (none : Option α), P x := nofun

theorem Bank.forall_mem_modify {α : Type} {n : Nat} {P : α → Prop} {b : Bank α n} {i : Nat} {f : α → α} (h : ∀ x ∈ b.cells, P x)
    (hf : ∀ x, P x → P (f x)) : ∀ x ∈ (b.modify i f).cells, P x := Machine.forall_mem_modify h hf

theorem Bank.forall_mem_map {α β : Type} {n : Nat} {P : α → Prop} {Q : β → Prop} {b : Bank α n} {f : α → β} (h : ∀ x ∈ b.cells, P x)
    (hf : ∀ x, P x → Q (f x)) : ∀ x ∈ (b.map f).cells, Q x := List.forall_mem_map.2 fun x hx => hf x (h x hx)

theorem Bank.forall_mem_mapIdx {α β : Type} {n : Nat} {P : α → Prop} {Q : β → Prop} {b : Bank α n} {f : Nat → α → β} (h : ∀ x ∈ b.cells, P x)
    (hf : ∀ i x, P x → Q (f i x)) : ∀ x ∈ (b.mapIdx f).cells, Q x := Machine.forall_mem_mapIdx h hf

theorem Bank.forall_mem_all {α : Type} {n : Nat} {P : α → Prop} {a : α} (h : P a) : ∀ x ∈ (Bank.all n a).cells, P x :=
  fun _ hx => List.eq_of_mem_replicate hx ▸ h

theorem getD_of_forall_mem {α : Type} {P : α → Prop} {l : List α} {i : Nat} {a : α} (h : ∀ x ∈ l, P x) (ha : P a) : P (l.getD i a) := by
  rw [List.getD_eq_getElem?_getD]
  cases e : l[i]? with
  | none => exact ha
  | some x => exact h x (List.mem_of_getElem? e)

theorem getD_find?_snd {α : Type} {P : α → Prop} {l : List (Nat × α)} {q : Nat × α → Bool} {a : α} (h : ∀ x ∈ l, P x.2) (ha : P a) :
    P (((l.find? q).map Prod.snd).getD a) := by
  cases e : l.find? q with
  | none => exact ha
  | some x => exact h x (List.mem_of_find?_eq_some e)

/-- A fold keeps what each of its steps keeps. -/
theorem foldl_keeps {α β : Type} {P : β → Prop} {l : List α} {f : β → α → β} {b : β} (h : P b) (hf : ∀ b a, P b → P (f b a)) :
    P (l.foldl f b) := List.foldlRecOn l f h fun b hb a _ => hf b a hb

theorem Lanes.forall_get_set {α : Type} {P : α → Prop} {x : Lanes α} {a : α} (k : Nat) (h : ∀ i, P (x.get i)) (ha : P a) :
    ∀ i, P ((x.set k a).get i) := by
  intro i
  have h0 := h 0; have h1 := h 1; have h2 := h 2; have h3 := h 3
  simp only [Lanes.get] at h0 h1 h2 h3
  unfold Lanes.set
  split <;> unfold Lanes.get <;> split <;> assumption

theorem Lanes.forall_get_ofFn {α : Type} {P : α → Prop} {f : Nat → α} (h : ∀ i, P (f i)) : ∀ i, P ((Lanes.ofFn f).get i) := by
  intro i
  unfold Lanes.get Lanes.ofFn
  split <;> exact h _

theorem Lanes.forall_get_all {α : Type} {P : α → Prop} {a : α} (h : P a) : ∀ i, P ((Lanes.all a).get i) := fun i => by
  rw [Lanes.get_all]; exact h

/-! ### Folds -/

theorem State.memWf.foldl {α : Type} {l : List α} {f : State → α → State} (h : s.memWf) (hf : ∀ t a, t.memWf → (f t a).memWf) :
    (l.foldl f s).memWf := foldl_keeps h hf

theorem State.memWf.foldl_fst {α β : Type} {l : List α} {f : State × β → α → State × β} {b : State × β} (h : b.1.memWf)
    (hf : ∀ (t : State) (b : β) a, t.memWf → (f (t, b) a).1.memWf) : (l.foldl f b).1.memWf :=
  foldl_keeps (P := fun (x : State × β) => x.1.memWf) h fun x a => hf x.1 x.2 a

theorem Slice.memWf.foldl {α : Type} {l : List α} {f : Slice → α → Slice} (h : sl.memWf) (hf : ∀ x a, x.memWf → (f x a).memWf) :
    (l.foldl f sl).memWf := foldl_keeps h hf

theorem Group.memWf.foldl {α : Type} {l : List α} {f : Group → α → Group} (h : g.memWf) (hf : ∀ x a, x.memWf → (f x a).memWf) :
    (l.foldl f g).memWf := foldl_keeps h hf

theorem Memory.foldl_wf {α : Type} {m : Memory} {l : List α} {f : Memory → α → Memory} (h : m.wf = true)
    (hf : ∀ x a, x.wf = true → (f x a).wf = true) : (l.foldl f m).wf = true := foldl_keeps (P := fun (m : Memory) => m.wf = true) h hf

theorem Memory.foldl_fst_wf {α β : Type} {l : List α} {f : Memory × β → α → Memory × β} {b : Memory × β} (h : b.1.wf = true)
    (hf : ∀ (m : Memory) (b : β) a, m.wf = true → (f (m, b) a).1.wf = true) : (l.foldl f b).1.wf = true :=
  foldl_keeps (P := fun (x : Memory × β) => x.1.wf = true) h fun x a => hf x.1 x.2 a

/-! ### Reading a part -/

theorem Slice.memWf.start (n : Nat) (pc : Dword) : (Slice.start n pc).memWf :=
  Lanes.forall_get_all (P := fun m => Memory.wf m = true) Memory.blank_wf

theorem Slice.memWf.setStore {k : Nat} {m : Memory} (h : sl.memWf) (hm : m.wf = true) : Slice.memWf { sl with store := sl.store.set k m } :=
  Lanes.forall_get_set (P := fun m => Memory.wf m = true) k h hm

theorem Group.memWf.vacant : Group.vacant.memWf := ⟨Memory.blank_wf, Memory.blank_wf, List.forall_mem_nil _, List.forall_mem_nil _⟩

theorem Die.memWf.held : Die.held.memWf := ⟨Memory.blank_wf, Bank.forall_mem_all Memory.blank_wf⟩

theorem Die.memWf.clsAt {i : Nat} (h : d.memWf) : (d.cls.getD i Memory.blank).wf = true :=
  getD_of_forall_mem (P := fun m => Memory.wf m = true) h.cls Memory.blank_wf

theorem State.memWf.group? {k : Nat} (h : s.memWf) : ∀ g ∈ s.group? k, g.memWf := fun g e => h.groups g (List.mem_of_find?_eq_some e)

theorem State.memWf.group {k : Nat} (h : s.memWf) : (s.group k).memWf := by
  unfold State.group
  cases e : s.group? k with
  | none => exact Group.memWf.vacant
  | some g => exact h.group? g e

theorem Group.memWf.slice {i : Nat} (h : g.memWf) : (g.slice i).memWf := getD_of_forall_mem h.slices (Slice.memWf.start 0 0)

theorem State.memWf.slice {r : SliceRef} (h : s.memWf) : (s.slice r).memWf := h.group.slice

theorem State.memWf.die {n : Nat} (h : s.memWf) : (s.die n).memWf := getD_of_forall_mem h.dies Die.memWf.held

theorem State.memWf.part? {n : Nat} (h : s.memWf) : ∀ p ∈ s.part? n, p.memWf := fun p e => h.partitions p (List.mem_of_find?_eq_some e)

theorem State.memWf.shadowOf {r : SliceRef} (h : s.memWf) : (s.shadowOf r).slice.memWf :=
  by
  unfold State.shadowOf
  exact getD_of_forall_mem (P := fun (x : Shadow) => x.slice.memWf) h.group.shadows h.group.slice

theorem State.reset_memWf : State.reset.memWf :=
  ⟨Memory.blank_wf, List.forall_mem_nil _, Bank.forall_mem_all Die.memWf.held, List.forall_mem_nil _⟩

/-! ### Changing a part -/

theorem State.memWf.setMem {m : Memory} (h : s.memWf) (hm : m.wf = true) : { s with mem := m }.memWf := ⟨hm, h.groups, h.dies, h.partitions⟩

theorem State.memWf.modGroup {gid : Nat} {f : Group → Group} (h : s.memWf) (hf : ∀ g, g.memWf → (f g).memWf) : (s.modGroup gid f).memWf := by
  refine ⟨h.mem, List.forall_mem_map.2 fun g hg => ?_, h.dies, h.partitions⟩
  split
  · exact hf g (h.groups g hg)
  · exact h.groups g hg

theorem Group.memWf.modSlice {i : Nat} {f : Slice → Slice} (h : g.memWf) (hf : ∀ sl, sl.memWf → (f sl).memWf) : (g.modSlice i f).memWf :=
  ⟨h.scr, h.backing, forall_mem_modify h.slices hf, h.shadows⟩

theorem State.memWf.modSlice {r : SliceRef} {f : Slice → Slice} (h : s.memWf) (hf : ∀ sl, sl.memWf → (f sl).memWf) : (s.modSlice r f).memWf :=
  h.modGroup fun _ hg => hg.modSlice hf

theorem Group.memWf.modGang {k : Nat} {f : Gang → Gang} (h : g.memWf) : (g.modGang k f).memWf := h

theorem State.memWf.modGang {gid k : Nat} {f : Gang → Gang} (h : s.memWf) : (s.modGang gid k f).memWf := h.modGroup fun _ hg => hg.modGang

theorem State.memWf.modDie {n : Nat} {f : Die → Die} (h : s.memWf) (hf : ∀ d, d.memWf → (f d).memWf) : (s.modDie n f).memWf :=
  ⟨h.mem, h.groups, forall_mem_modify h.dies hf, h.partitions⟩

theorem State.memWf.modCore {c : CoreRef} {f : Core → Core} (h : s.memWf) : (s.modCore c f).memWf := h.modDie fun _ hd => hd

theorem State.memWf.modPart {n : Nat} {f : Partition → Partition} (h : s.memWf) (hf : ∀ p, p.memWf → (f p).memWf) : (s.modPart n f).memWf := by
  refine ⟨h.mem, h.groups, h.dies, List.forall_mem_map.2 fun p hp => ?_⟩
  split
  · exact hf p (h.partitions p hp)
  · exact h.partitions p hp

end Sys2Proof.Machine
end

section
/-! Base dies, translation, caches and the issue of an instruction: each operation keeps the canonical form of the memories. -/

namespace Sys2Proof.Machine

/-! ### Memory -/

theorem Memory.zeroSpan_wf {m : Memory} (u a n : Nat) (h : m.wf = true) : (m.zeroSpan u a n).wf = true := by
  rw [Memory.wf_iff, cellsWf_iff, risingWf_iff, risingWf_iff] at h ⊢
  obtain ⟨⟨hb, hz⟩, he, hp⟩ := h
  exact ⟨⟨hb.filter _, fun c hc => hz c (List.mem_filter.mp hc).1⟩, he, hp.filter _⟩

/-! ### Parts of the state -/

theorem State.memWf.modUnit {s : State} {uid : Nat} {f : UnitState → UnitState} (h : s.memWf) : (s.modUnit uid f).memWf := h

theorem State.memWf.tick {s : State} (h : s.memWf) : s.tick.memWf := h

theorem Slice.memWf.setLane {sl : Slice} {spec lane : Nat} {x : Word} {p : Option Dword} (h : sl.memWf) : (sl.setLane spec lane x p).memWf := by
  unfold Slice.setLane
  split <;> exact h.frame rfl

theorem Slice.memWf.setLanes {sl : Slice} {spec : Nat} {eff : Mask} {x : Lanes Word} (h : sl.memWf) : (sl.setLanes spec eff x).memWf :=
  h.foldl fun _ _ hx1 => hx1.setLane

theorem Slice.memWf.setLanesP {sl : Slice} {spec : Nat} {eff : Mask} {x : Lanes Word} {p : Lanes (Option Dword)} (h : sl.memWf) :
    (sl.setLanesP spec eff x p).memWf := h.foldl fun _ _ hx1 => hx1.setLane

theorem Slice.memWf.setPairs {sl : Slice} {spec : Nat} {eff : Mask} {x : Lanes Dword} (h : sl.memWf) : (sl.setPairs spec eff x).memWf :=
  h.setLanes.setLanes

theorem Slice.memWf.makeEmpty {sl : Slice} {spec : Nat} {eff : Mask} (h : sl.memWf) : (sl.makeEmpty spec eff).memWf := by
  unfold Slice.makeEmpty
  split
  · exact h.frame rfl
  · split
    · exact h
    · exact h.frame rfl

theorem Slice.memWf.makeFull {sl : Slice} {spec : Nat} {eff : Mask} (h : sl.memWf) : (sl.makeFull spec eff).memWf := by
  unfold Slice.makeFull
  split
  · exact h.frame rfl
  · split
    · exact h
    · exact h.frame rfl

theorem Slice.memWf.makeEmptyN {sl : Slice} {spec n : Nat} {eff : Mask} (h : sl.memWf) : (sl.makeEmptyN spec n eff).memWf :=
  h.foldl fun _ _ hx => hx.makeEmpty

theorem Slice.memWf.makeFullN {sl : Slice} {spec n : Nat} {eff : Mask} (h : sl.memWf) : (sl.makeFullN spec n eff).memWf :=
  h.foldl fun _ _ hx => hx.makeFull

theorem Slice.memWf.setMask {sl : Slice} {k : Nat} {x : Mask} (h : sl.memWf) : (sl.setMask k x).memWf := by
  unfold Slice.setMask
  split <;> exact h

theorem Slice.memWf.orFlags {sl : Slice} {eff : Mask} {f : Lanes Flags} (h : sl.memWf) : (sl.orFlags eff f).memWf := h

theorem Slice.memWf.deliver {sl : Slice} {o : Owed} (h : sl.memWf) : (sl.deliver o).memWf := h.foldl fun _ _ hx => hx.setLane

theorem Slice.memWf.setSpillWord {sl : Slice} {off : Nat} {x : Lanes Word} (h : sl.memWf) : (sl.setSpillWord off x).memWf :=
  Lanes.forall_get_ofFn (P := fun (m : Memory) => m.wf = true) fun _ => Memory.setNum_wf _ _ _ (h _)

theorem Slice.memWf.spill {sl : Slice} {k : Nat} {e : StackEntry} (h : sl.memWf) : (sl.spill k e).memWf := h.setSpillWord

theorem Slice.memWf.push {sl : Slice} {e : StackEntry} (h : sl.memWf) : (sl.push e).memWf := by
  unfold Slice.push
  split
  · exact h
  · split
    · exact h.spill
    · exact h

theorem Slice.memWf.pop {sl : Slice} (h : sl.memWf) : ∀ x ∈ sl.pop, x.2.memWf := by
  unfold Slice.pop
  split
  · exact forall_mem_none
  · split <;> exact forall_mem_some h

theorem Slice.memWf.meets {sl : Slice} {cut : Nat} {sp : Space} {home a n : Nat} (h : sl.memWf) : (sl.meets cut sp home a n).memWf := h

theorem Slice.memWf.stores {sl : Slice} {sp : Space} {home a : Nat} {was : List Byte} (h : sl.memWf) : (sl.stores sp home a was).memWf := by
  unfold Slice.stores
  extract_lets x
  have hx : x.memWf := h.meets
  split <;> exact hx

theorem Slice.memWf.popN {n : Nat} {sl : Slice} (h : sl.memWf) : (Slice.popN n sl).memWf := by
  induction n generalizing sl with
  | zero => exact h
  | succ n ih =>
    unfold Slice.popN
    split
    · rename_i e
      exact ih (h.pop _ e)
    · exact h

theorem Slice.memWf.dropLanes {sl : Slice} {eff : Mask} (h : sl.memWf) : (sl.dropLanes eff).memWf := h

theorem Slice.memWf.abortTx {sl : Slice} {reason code : Nat} (h : sl.memWf) : (sl.abortTx reason code).memWf := by
  unfold Slice.abortTx
  split
  · exact h
  · exact h.popN

theorem Slice.memWf.abortMisuse {sl : Slice} {a : Dword} {t : Trap} (h : sl.memWf) : (sl.abortMisuse a t).memWf := h.abortTx

theorem Slice.memWf.restart {sl : Slice} (h : sl.memWf) : sl.restart.memWf := h

theorem Group.memWf.dropTrail {g : Group} {i : Nat} (h : g.memWf) : (g.dropTrail i).memWf := h

theorem Slice.memWf.carry {sl : Slice} {was now : Control} (h : sl.memWf) : (sl.carry was now).memWf := h

theorem State.memWf.unlessEarly {s : State} {r : SliceRef} {o : Outcome} (h : s.memWf) (ho : o.memWf) : (s.unlessEarly r o).memWf := by
  unfold State.unlessEarly
  split
  · split
    · exact .next h
    · exact ho
  · exact ho

theorem Slice.memWf.finish {sl : Slice} (h : sl.memWf) : sl.finish.memWf := h

theorem State.memWf.cancelUnit {s : State} {uid cause : Nat} (h : s.memWf) : (s.cancelUnit uid cause).memWf := h.modUnit

theorem State.memWf.withdraw {s : State} {r : SliceRef} (h : s.memWf) : (s.withdraw r).memWf := h

theorem State.memWf.leaveQueues {s : State} {r : SliceRef} (h : s.memWf) : (s.leaveQueues r).memWf := h.modGroup fun _ hg => hg

theorem State.memWf.leaveEnqueues {s : State} {r : SliceRef} (h : s.memWf) : (s.leaveEnqueues r).memWf := h

theorem State.memWf.endSlice {s : State} {r : SliceRef} (h : s.memWf) : (s.endSlice r).memWf :=
  h.withdraw.leaveQueues.leaveEnqueues.modSlice fun _ hsl => hsl.finish

/-! ### Registers, stack and transaction of a slice -/

theorem State.memWf.takeSem {s : State} {sem holder : Nat} (h : s.memWf) : (s.takeSem sem holder).memWf := h

theorem State.memWf.acquireSem {s : State} {ports : List Nat} {sem : Nat} (h : s.memWf) : (s.acquireSem ports sem).memWf := by
  unfold State.acquireSem
  split
  · exact h
  · split
    · exact h.frame rfl rfl rfl rfl
    · exact h.takeSem
    · exact h.takeSem
    · split
      · exact h.takeSem
      · exact h

theorem State.memWf.releaseSem {s : State} {port sem : Nat} (h : s.memWf) : (s.releaseSem port sem).memWf := by
  unfold State.releaseSem
  split
  · exact h.takeSem
  · exact h

theorem State.memWf.barWrite {s : State} {port offset : Nat} {value : Word} (h : s.memWf) : (s.barWrite port offset value).memWf := by
  unfold State.barWrite
  split
  · extract_lets s1
    have hs1 : s1.memWf := by
      unfold s1
      split
      · exact h.releaseSem
      · exact h
    split
    · exact hs1.acquireSem
    · exact hs1
  · split
    · exact h.frame rfl rfl rfl rfl
    · exact h

theorem State.memWf.windowWrite {s : State} {pa : Nat} {data : List Byte} (h : s.memWf) : (s.windowWrite pa data).memWf := by
  unfold State.windowWrite
  refine h.foldl fun _ _ ht => ?_
  extract_lets w x
  split
  · exact ht.barWrite.barWrite
  · exact ht

/-! ### Base dies -/

theorem Memory.writeLine_wf {m : Memory} {pa kind : Nat} {q : BaseRequest} (h : m.wf = true) : (m.writeLine pa kind q).wf = true := by
  unfold Memory.writeLine
  split
  · exact Memory.foldl_wf (Memory.clearPoison_wf _ _ _ (Memory.setBytes_wf _ _ h)) fun _ _ hx => Memory.setFull_wf _ _ hx
  · refine Memory.foldl_wf h fun _ _ hx => ?_
    split
    · exact Memory.setByte_wf _ _ hx
    · exact hx

theorem State.memWf.modBase {s : State} {n : Nat} {f : BaseDie → BaseDie} (h : s.memWf) : (s.modBase n f).memWf := h

theorem State.writtenBy_wf {s : State} {kind : Nat} {q : BaseRequest} (h : s.memWf) : (s.writtenBy kind q).wf = true := by
  unfold State.writtenBy
  split
  · exact h.mem
  · split
    · exact Memory.writeLine_wf h.mem
    · exact h.mem

theorem State.memWf.cleanedBy {s : State} {kind : Nat} {q : BaseRequest} (h : s.memWf) : ∀ x ∈ (s.cleanedBy kind q).cells, x.memWf := by
  unfold State.cleanedBy
  split
  · exact h.dies
  · split
    · exact Bank.forall_mem_modify h.dies fun _ hx1 => hx1
    · exact h.dies

theorem State.memWf.takeRequest {s : State} {kind : Nat} {q : BaseRequest} (h : s.memWf) : (s.takeRequest kind q).memWf := by
  unfold State.takeRequest
  split
  · exact h
  · extract_lets x
    have hx : x.memWf := h.modBase
    exact ⟨State.writtenBy_wf h, hx.groups, h.cleanedBy, hx.partitions⟩

theorem State.memWf.askBases {s : State} {xs : List OwnRequest} (h : s.memWf) : (s.askBases xs).memWf := h

theorem State.memWf.controlAsks {s : State} {kind : Nat} {xs : List (Nat × Nat)} (h : s.memWf) : (s.controlAsks kind xs).memWf := h.askBases

theorem State.memWf.l2Touch {s : State} {pa : Nat} {u : L2Use} (h : s.memWf) : (s.l2Touch pa u).memWf := .askBases (h.modDie fun _ hd => hd)

/-! ### Translation and faults -/

theorem State.memWf.noteWalk {s : State} {part va : Nat} (h : s.memWf) : (s.noteWalk part va).memWf := by
  unfold State.noteWalk
  split
  · exact .controlAsks (h.modPart fun _ hp1 => hp1)
  · exact h

theorem State.memWf.translate {s : State} {c : CoreRef} {part va : Nat} {write : Bool} (h : s.memWf) : (s.translate c part va write).1.memWf := by
  unfold State.translate
  extract_lets va1 s1
  have hs1 : s1.memWf := h.noteWalk
  split
  · exact h.modCore
  · split
    · exact hs1
    · exact hs1
    · extract_lets l a1 e3 s2 s3 t
      have hs2 : s2.memWf := hs1.setMem (Memory.setNum_wf _ _ _ hs1.mem)
      have hs3 : s3.memWf := by
        unfold s3
        split
        · exact hs2
        · exact hs2.l2Touch
      exact hs3.modCore

theorem State.memWf.raiseFault {s : State} {part va kind cause unitId die core : Nat} (h : s.memWf) :
    (s.raiseFault part va kind cause unitId die core).1.memWf := by
  unfold State.raiseFault
  split
  · exact h
  · extract_lets page f x1
    have hx1 : x1.memWf := h.modPart fun _ hp1 => hp1
    split
    · split <;> exact h
    · exact hx1

theorem State.memWf.reach {s : State} {c : CoreRef} {part unitId : Nat} {va : Dword} {need : Need} {kind : Nat} {atHome : Bool} (h : s.memWf) :
    (s.reach c part unitId va need kind atHome).1.memWf := by
  unfold State.reach
  split
  · rename_i e
    exact (h.translate.of_pair e).raiseFault
  · rename_i e
    exact (h.translate.of_pair e).raiseFault
  · rename_i e
    split
    · exact h.translate.of_pair e
    · split
      · exact h.translate.of_pair e
      · split <;> exact h.translate.of_pair e

theorem State.memWf.reachSpan {s : State} {c : CoreRef} {part unitId : Nat} {va : Dword} {need : Need} {kind fuel n : Nat} (h : s.memWf) :
    (s.reachSpan c part unitId va need kind fuel n).1.memWf := by
  induction fuel generalizing s va n with
  | zero => exact h
  | succ fuel ih =>
    unfold State.reachSpan
    split
    · exact h
    · split
      · rename_i e
        extract_lets here
        split <;> rename_i e3 <;> exact (ih (h.reach.of_pair e)).of_pair e3
      · rename_i e
        exact h.reach.of_pair e

/-! ### Caches, homes and physical memory; traps -/

theorem State.memWf.reply {s : State} {r : HostReply} (h : s.memWf) : (s.reply r).memWf := h

theorem State.memWf.smivik {s : State} {f : State → Outcome} (h : s.memWf) (hf : ∀ (a : State), a.memWf → (f a).memWf) : (s.smivik f).memWf := by
  unfold State.smivik
  split
  · exact hf _ h
  · exact .next h.reply

theorem State.memWf.viaPort {s : State} {port : Nat} {f : State → Outcome} (h : s.memWf) (hf : ∀ (a : State), a.memWf → (f a).memWf) :
    (s.viaPort port f).memWf := by
  unfold State.viaPort
  split
  · exact hf _ h
  · exact .next h

theorem State.memWf.smivikHeld {s : State} {port sem : Nat} {f : State → Outcome} (h : s.memWf) (hf : ∀ (a : State), a.memWf → (f a).memWf) :
    (s.smivikHeld port sem f).memWf := by
  unfold State.smivikHeld
  refine h.viaPort fun _ ha => ?_
  refine ha.smivik fun _ ha1 => ?_
  split
  · exact hf _ ha1
  · exact .next ha1.reply

theorem State.memWf.countLost {s : State} {c : CoreRef} {slot : Nat} (h : s.memWf) : (s.countLost c slot).memWf := by
  unfold State.countLost
  extract_lets s1
  have hs1 : s1.memWf := by
    unfold s1
    refine ⟨h.mem, ?_, h.dies, h.partitions⟩
    refine List.forall_mem_map.2 fun _ hx => ?_
    split
    · exact (h.groups _ hx).frame rfl rfl rfl rfl
    · exact h.groups _ hx
  exact hs1.modCore

theorem State.memWf.l1Miss {s : State} {c : CoreRef} {slot : Option Nat} {pa : Nat} (h : s.memWf) : (s.l1Miss c slot pa).memWf := by
  unfold State.l1Miss
  extract_lets found s1
  have hs1 : s1.memWf := h.modCore
  clear_value found
  split
  · split
    · exact hs1.countLost
    · exact hs1
  · exact hs1

theorem State.memWf.l1Touch {s : State} {c : CoreRef} {slot : Option Nat} {pa : Nat} (h : s.memWf) : (s.l1Touch c slot pa).memWf := by
  unfold State.l1Touch
  extract_lets s1
  have hs1 : s1.memWf := by
    unfold s1
    split
    · exact h
    · exact h.l1Miss
  exact hs1.modCore

theorem State.memWf.l1Store {s : State} {c : CoreRef} {slot : Option Nat} {pa : Nat} (h : s.memWf) : (s.l1Store c slot pa).memWf := by
  unfold State.l1Store
  split
  · exact h.l1Touch
  · exact h.l1Miss

theorem State.memWf.acquire {s : State} {c : CoreRef} {scope : Nat} (h : s.memWf) : (s.acquire c scope).memWf := by
  unfold State.acquire
  split
  · exact h
  · exact h.modCore

theorem State.memWf.homeLookup {s : State} {die pa : Nat} (h : s.memWf) : (s.homeLookup die pa).memWf := by
  unfold State.homeLookup
  split
  · exact h.modDie fun _ hd => hd
  · exact h

theorem State.memWf.recall {s : State} {pa : Nat} (h : s.memWf) : (s.recall pa).memWf := by
  unfold State.recall
  split
  · exact h
  · exact .l2Touch (.modCore (h.modDie fun _ hd => hd))

theorem Slice.memWf.ownWrite {sl : Slice} {pa n : Nat} (h : sl.memWf) : (sl.ownWrite pa n).memWf := by
  unfold Slice.ownWrite
  split
  · split <;> exact h
  · exact h

theorem State.memWf.conflictLine {s : State} {by_ : Option SliceRef} {line : Nat} (h : s.memWf) : (s.conflictLine by_ line).memWf := by
  unfold State.conflictLine
  refine ⟨h.mem, ?_, h.dies, h.partitions⟩
  refine List.forall_mem_map.2 fun _ hx => ?_
  refine ⟨(h.groups _ hx).scr, (h.groups _ hx).backing, ?_, (h.groups _ hx).shadows⟩
  refine forall_mem_mapIdx (h.groups _ hx).slices fun _ _ hx1 => ?_
  split
  · split <;> exact hx1
  · exact hx1

theorem State.memWf.snoop {s : State} {line : Nat} (h : s.memWf) : (s.snoop line).memWf := by
  unfold State.snoop
  split <;> exact h

theorem State.memWf.findHome {s : State} {hint : Option Nat} {die pa : Nat} (h : s.memWf) : (s.findHome hint die pa).memWf := by
  unfold State.findHome
  split
  · split
    · exact h
    · exact h.homeLookup
  · exact h.homeLookup

theorem State.memWf.useHome {s : State} {pa : Nat} {write : Bool} (h : s.memWf) : (s.useHome pa write).memWf := by
  unfold State.useHome
  split
  · exact h
  · exact h.recall.l2Touch

theorem State.memWf.readHome {s : State} {die pa n : Nat} (h : s.memWf) : (s.readHome die pa n).memWf := by
  unfold State.readHome
  split
  · exact h
  · exact h.foldl fun _ _ ht => ht.homeLookup.recall.l2Touch

theorem State.memWf.meetsPaths {s : State} {r : SliceRef} {sp : Space} {home a n : Nat} (h : s.memWf) : (s.meetsPaths r sp home a n).memWf :=
  h.modSlice fun _ hsl => hsl.meets

theorem State.memWf.writePhys {s : State} {by_ : Option SliceRef} {pa : Nat} {data : List Byte} {poisoned : Bool} (h : s.memWf) :
    (s.writePhys by_ pa data poisoned).memWf := by
  unfold State.writePhys
  extract_lets s1 s2
  have hs1 : s1.memWf := h.foldl fun _ _ ht => ht.recall.conflictLine.l2Touch.snoop
  have hs2 : s2.memWf := by
    unfold s2
    split
    · exact hs1.meetsPaths.modSlice fun _ hsl => hsl.ownWrite
    · exact hs1
  exact hs2.setMem (Memory.store_wf _ _ _ _ hs2.mem)

theorem State.memWf.markWoken {s : State} (h : s.memWf) : s.markWoken.memWf := by
  unfold State.markWoken
  refine h.foldl fun _ _ ht => ?_
  split
  · refine ht.modSlice fun _ hsl => ?_
    split
    · split <;> exact hsl
    · exact hsl
  · exact ht

theorem State.memWf.wake {s : State} {space : Space} {home word_ : Nat} {full : Bool} (h : s.memWf) : (s.wake space home word_ full).memWf :=
  .markWoken h

theorem State.memWf.setPhysFull {s : State} {by_ : Option SliceRef} {pa : Nat} {full : Bool} (h : s.memWf) : (s.setPhysFull by_ pa full).memWf := by
  unfold State.setPhysFull
  split
  · exact h
  · exact (h.useHome.setMem (Memory.setFull_wf _ _ h.mem)).conflictLine.wake

theorem State.memWf.readGlb {s : State} {r : SliceRef} {va : Dword} {n : Nat} {need : Need} {kind : Nat} (h : s.memWf) :
    (s.readGlb r va n need kind).1.memWf := by
  unfold State.readGlb
  extract_lets g unitId
  split
  · rename_i e
    exact (h.reachSpan.of_pair e).foldl fun _ _ ht => ht.readHome
  · rename_i e
    exact h.reachSpan.of_pair e

theorem Slice.memWf.record {sl : Slice} {t : Trap} {a : Dword} {hnd : Bool} (h : sl.memWf) : (sl.record t a hnd).memWf := h

theorem State.memWf.cancelBy {s : State} {r : SliceRef} {cause : Nat} (h : s.memWf) : (s.cancelBy r cause).memWf := h.cancelUnit.endSlice

theorem State.memWf.enterHandler {s : State} {r : SliceRef} {cause : Nat} (h : s.memWf) : (s.enterHandler r cause).memWf := by
  unfold State.enterHandler
  extract_lets frame
  split
  · exact h.cancelBy
  · split
    · rename_i e
      extract_lets h1
      split
      · exact (h.readGlb.of_pair e).cancelBy
      · exact (h.readGlb.of_pair e).modSlice fun _ hsl => hsl
    · rename_i e
      exact (h.readGlb.of_pair e).modSlice fun _ hsl => hsl
    · rename_i e
      exact (h.readGlb.of_pair e).modSlice fun _ hsl => hsl
    · rename_i e
      exact (h.readGlb.of_pair e).cancelBy

theorem State.memWf.deliverTrap {s : State} {r : SliceRef} {a : Dword} {t : Trap} (h : s.memWf) : (s.deliverTrap r a t).memWf := by
  unfold State.deliverTrap
  extract_lets sl never s1
  have hs1 : s1.memWf := by
    unfold s1
    split
    · refine h.modSlice fun _ hsl1 => ?_
      extract_lets x
      have hx : x.memWf := hsl1.abortTx
      exact hx
    · exact h
  split
  · exact h.modSlice fun _ hsl1 => hsl1.abortTx
  · split
    · exact .cancelBy (hs1.modSlice fun _ hsl1 => hsl1.record)
    · refine .enterHandler ?_
      refine hs1.modSlice fun _ hsl1 => ?_
      extract_lets x
      have hx : x.memWf := hsl1.record
      exact hx

theorem State.memWf.takeMismatch {s : State} {r : SliceRef} {a : Dword} {eff : Mask} {kind : Nat} {addr : Dword} (h : s.memWf) :
    (s.takeMismatch r a eff kind addr).memWf := by
  unfold State.takeMismatch
  split
  · exact h.modSlice fun _ hsl => hsl.restart
  · exact h.deliverTrap

theorem State.memWf.takeTrap {s : State} {r : SliceRef} {a : Dword} {t : Trap} (h : s.memWf) : (s.takeTrap r a t).memWf := by
  unfold State.takeTrap
  split
  · exact h.takeMismatch
  · exact h.deliverTrap

theorem Slice.memWf.returnFromTrap {sl : Slice} (h : sl.memWf) : sl.returnFromTrap.memWf := h

theorem State.memWf.consumePoison {s : State} {r : SliceRef} {a : Dword} {lanes : Mask} {origin : Dword} (h : s.memWf) :
    (s.consumePoison r a lanes origin).memWf := by
  unfold State.consumePoison
  extract_lets sl
  split
  · exact h.modSlice fun _ hsl1 => hsl1.abortTx
  · split
    · exact h.modSlice fun _ hsl1 => hsl1.restart
    · exact h.takeTrap

/-! ### Flags -/

theorem State.memWf.raiseFlags {s : State} {r : SliceRef} {eff : Mask} {f : Lanes Flags} (h : s.memWf) : (s.raiseFlags r eff f).memWf := by
  unfold State.raiseFlags
  extract_lets s1
  have hs1 : s1.memWf := h.modSlice fun _ hsl => hsl.orFlags
  split
  · exact hs1.modGroup fun _ hg => hg
  · exact hs1

theorem State.memWf.raiseFlagsAll {s : State} {r : SliceRef} {eff : Mask} {f : Flags} (h : s.memWf) : (s.raiseFlagsAll r eff f).memWf := h.raiseFlags

/-! ### The issue of a group -/

theorem State.memWf.settleFate {s : State} {g : Grp} {r : SliceRef} {f : Fate} (h : s.memWf) : (s.settleFate g r f).memWf := by
  unfold State.settleFate
  split
  · exact h.modSlice fun _ hsl => hsl
  · exact h.modSlice fun _ hsl => hsl
  · exact h.modSlice fun _ hsl => hsl
  · exact h.takeTrap
  · extract_lets u
    have hu : u.memWf := h.modSlice fun _ hsl => hsl.abortMisuse
    split
    · exact hu
    · exact hu.takeTrap
  · exact h.modSlice fun _ hsl => hsl
  · exact h.modSlice fun _ hsl => hsl
  · exact h.consumePoison
  · exact h.takeMismatch
  · exact h

theorem Group.memWf.divide {g : Group} {k : Nat} (h : g.memWf) : (g.divide k).memWf := by
  unfold Group.divide
  extract_lets ids labels g'
  have hg' : g'.memWf := by
    unfold g'
    refine ⟨h.scr, h.backing, ?_, h.shadows⟩
    refine forall_mem_mapIdx h.slices fun _ _ hx => ?_
    split <;> exact hx
  clear_value labels
  split
  · exact hg'
  · split
    · exact hg'
    · exact hg'.modGang

theorem State.memWf.divide {s : State} {gid k : Nat} (h : s.memWf) : (s.divide gid k).memWf := h.modGroup fun _ hg => hg.divide

theorem State.memWf.conclude {s : State} {who : Issuer} {g : Grp} {fates : List (Nat × Fate)} (h : s.memWf) : (s.conclude who g fates).memWf :=
  .divide (.foldl (h.foldl fun _ _ ht => ht.settleFate) fun _ _ ht => ht.modSlice fun _ hsl => hsl)

theorem State.memWf.closeRegion {s : State} {r : SliceRef} (h : s.memWf) : (s.closeRegion r).memWf := h.modSlice fun _ hsl => hsl

theorem State.memWf.joinPaths {s : State} {r : SliceRef} (h : s.memWf) : (s.joinPaths r).memWf := h.modSlice fun _ hsl => hsl

theorem State.memWf.closing {s : State} {g : Grp} {cs : List Ctx} (h : s.memWf) : (s.closing g cs).memWf := by
  unfold State.closing
  extract_lets s1
  have hs1 : s1.memWf := by
    unfold s1
    split
    · exact h.foldl fun _ _ ht => ht.closeRegion
    · exact h
  split
  · exact hs1.foldl fun _ _ ht => ht.joinPaths
  · exact hs1

/-- An issue closes regions, runs and settles the fates: of a run only its state is asked. -/
theorem State.memWf.issueGrp {s : State} {who : Issuer} {g : Grp} {own : Own} {run : Run}
    (h : s.memWf) (hrun : ∀ (cs : List Ctx) (t : State), t.memWf → (run cs t).s.memWf) :
    (s.issueGrp who g own run).memWf := by
  unfold State.issueGrp
  extract_lets cs vs0 vs runs full s1 ran
  have hs1 : s1.memWf := h.closing
  have hran : ran.s.memWf := by
    unfold ran
    split
    · exact hs1
    · exact hrun _ _ hs1
  split
  · exact .next h
  · split
    · exact .next h.conclude
    · exact .next hran.conclude

theorem issue_memWf {op : Nat} {wide : Bool} {p : List Prefix} {w : WForm} {own : Own} {run : Run} {s : State}
    (h : s.memWf) (hrun : ∀ (cs : List Ctx) (t : State), t.memWf → (run cs t).s.memWf) :
    (issue op wide p w own run s).memWf := by
  unfold issue
  split
  · exact .fault _
  · exact h.issueGrp hrun

/-- A run slice by slice keeps what its action keeps. -/
theorem eachSlice_memWf {act : Ctx → State → State × Fate} {cs : List Ctx} {s : State} (hact : ∀ c t, t.memWf → (act c t).1.memWf)
    (h : s.memWf) : (eachSlice act cs s).s.memWf := by
  induction cs generalizing s with
  | nil => exact h
  | cons c cs ih => exact ih (hact c s h)

theorem issueEach_memWf {op : Nat} {wide : Bool} {p : List Prefix} {w : WForm} {act : Ctx → State → State × Fate} {s : State}
    (h : s.memWf) (hact : ∀ (c : Ctx) (t : State), t.memWf → (act c t).1.memWf) :
    (issueEach op wide p w act s).memWf := issue_memWf h fun _ _ ht => eachSlice_memWf hact ht

/-! ### Fetch -/

theorem State.memWf.fetchWord {s : State} {r : SliceRef} {a : Dword} (h : s.memWf) : (s.fetchWord r a).1.memWf := by
  unfold State.fetchWord
  split
  · exact h
  · split <;> rename_i e2 <;> exact h.readGlb.of_pair e2

theorem State.memWf.fetchWords {s : State} {r : SliceRef} {a : Dword} {fuel : Nat} (h : s.memWf) : (s.fetchWords r a fuel).1.memWf := by
  induction fuel generalizing s a with
  | zero => exact h
  | succ fuel ih =>
    unfold State.fetchWords
    split
    · rename_i e
      exact h.fetchWord.of_pair e
    · rename_i e
      split
      · split <;> rename_i e3 <;> exact (h.fetchWord.of_pair e).fetchWord.of_pair e3
      · split <;> rename_i e3 <;> exact (ih (h.fetchWord.of_pair e)).of_pair e3
      · exact h.fetchWord.of_pair e

theorem State.memWf.fetchStopped {s : State} {who : Issuer} {at_ : Dword} {e : Reach} (h : s.memWf) : (s.fetchStopped who at_ e).memWf := h.conclude

theorem State.memWf.fetchInstr {s : State} {who : Issuer} (h : s.memWf) : (s.fetchInstr who).1.memWf := by
  unfold State.fetchInstr
  extract_lets grp
  split
  · exact h
  · split
    · rename_i e
      split <;> exact h.fetchWords.of_pair e
    · rename_i e
      exact (h.fetchWords.of_pair e).fetchStopped

/-! ### Leases -/

theorem State.memWf.resident {s : State} {c : CoreRef} (h : s.memWf) : ∀ x ∈ s.resident c, x.memWf :=
  fun x hx => h.groups x (List.mem_filter.mp hx).1

theorem execLeaseActivation_memWf {at_ : CoreRef} {s : State} (h : s.memWf) : (execLeaseActivation at_ s).memWf :=
  .next (h.foldl fun _ _ ht => ht.modGang)

theorem execGangIdle_memWf {gid gang : Nat} {s : State} (h : s.memWf) : (execGangIdle gid gang s).memWf := by
  unfold execGangIdle
  extract_lets g
  split
  · exact .next h.modGang
  · exact .next h

theorem Group.memWf.endWindow {g : Group} (h : g.memWf) : g.endWindow.memWf := h

theorem execLeaseWindowEnd_memWf {at_ : CoreRef} {s : State} (h : s.memWf) : (execLeaseWindowEnd at_ s).memWf := by
  unfold execLeaseWindowEnd
  extract_lets k gs victim s1 s2
  have hs1 : s1.memWf := by
    unfold s1
    refine ⟨h.mem, ?_, h.dies, h.partitions⟩
    refine List.forall_mem_map.2 fun _ hx => ?_
    split
    · exact (h.groups _ hx).endWindow
    · exact h.groups _ hx
  have hs2 : s2.memWf := by
    unfold s2
    clear_value victim
    split
    · exact hs1.modGang
    · exact hs1
  split
  · exact .next h
  · exact .next hs2.modCore

theorem execIssueSelection_memWf {at_ : CoreRef} {pipe : Nat} {s : State} (h : s.memWf) : (execIssueSelection at_ pipe s).memWf := by
  unfold execIssueSelection
  extract_lets r s1
  have hs1 : s1.memWf := h.modCore
  refine .next ?_
  split <;> exact hs1

theorem State.memWf.endRuns {s : State} (h : s.memWf) : s.endRuns.memWf := by
  unfold State.endRuns
  refine h.foldl fun _ _ ht => ?_
  split
  · split
    · exact ht
    · exact ht.modCore
  · exact ht

theorem State.memWf.endIssuerRun {s : State} {who : Issuer} (h : s.memWf) : (s.endIssuerRun who).memWf := h.modCore

end Sys2Proof.Machine
end

section
/-! Places, lanes and paths: what the instructions of one slice do: each operation keeps the canonical form of the memories. -/

namespace Sys2Proof.Machine

/-! ### Places of the memory spaces -/

theorem State.memAt_wf {s : State} {a : Place} (h : s.memWf) : (s.memAt a).wf = true := by
  unfold State.memAt
  split
  · exact h.mem
  · exact Memory.blank_wf
  · exact h.group.scr
  · exact h.die.clsAt
  · exact h.die.chp
  · exact h.slice _

theorem State.memWf.modMem {s : State} {p : Place} {f : Memory → Memory} (h : s.memWf) (hf : ∀ (x : Memory), x.wf = true → (f x).wf = true) :
    (s.modMem p f).memWf := by
  unfold State.modMem
  split
  · exact h.setMem (hf _ h.mem)
  · exact h
  · exact h.modGroup fun _ hg => ⟨hf _ hg.scr, hg.backing, hg.slices, hg.shadows⟩
  · exact h.modDie fun _ hd => ⟨hd.chp, Bank.forall_mem_modify hd.cls hf⟩
  · exact h.modDie fun _ hd => ⟨hf _ hd.chp, hd.cls⟩
  · exact h.modSlice fun _ hsl => hsl.setStore (hf _ (hsl _))

theorem State.memWf.meetsPlace {s : State} {r : SliceRef} {p : Place} {n : Nat} (h : s.memWf) : (s.meetsPlace r p n).memWf := h.meetsPaths

theorem State.memWf.writePlace {s : State} {by_ : Option SliceRef} {p : Place} {data : List Byte} {poisoned : Bool} (h : s.memWf) :
    (s.writePlace by_ p data poisoned).memWf := by
  unfold State.writePlace
  split
  · exact h.writePhys
  · exact h.windowWrite
  · refine .modMem ?_ fun _ hx => Memory.store_wf _ _ _ _ hx
    split
    · exact h.meetsPlace
    · exact h

theorem State.memWf.writeMarked {s : State} {by_ : Option SliceRef} {p : Place} {xs : List (Byte × Bool)} (h : s.memWf) :
    (s.writeMarked by_ p xs).memWf := h.foldl_fst fun _ _ _ ht => ht.writePlace

theorem State.memWf.setFullPlace {s : State} {by_ : Option SliceRef} {p : Place} {full : Bool} (h : s.memWf) : (s.setFullPlace by_ p full).memWf := by
  unfold State.setFullPlace
  split
  · exact h.setPhysFull
  · split
    · exact h
    · exact .wake (h.modMem fun _ hx => Memory.setFull_wf _ _ hx)

theorem State.memWf.startRefill {s : State} {gid line : Nat} (h : s.memWf) : (s.startRefill gid line).memWf := h.modGroup fun _ hg => hg

theorem Group.held_wf {g : Group} {off : Nat} (h : g.memWf) : (g.held off).wf = true := by
  unfold Group.held
  split
  · exact h.backing
  · exact h.scr

theorem State.memWf.modHeld {s : State} {gid off : Nat} {f : Memory → Memory} (h : s.memWf) (hf : ∀ (x : Memory), x.wf = true → (f x).wf = true) :
    (s.modHeld gid off f).memWf := by
  unfold State.modHeld
  split
  · exact .startRefill (h.modGroup fun _ hg => ⟨hg.scr, hf _ hg.backing, hg.slices, hg.shadows⟩)
  · exact h.modGroup fun _ hg => ⟨hf _ hg.scr, hg.backing, hg.slices, hg.shadows⟩

theorem State.memWf.fillHeld {s : State} {gid off : Nat} (h : s.memWf) : (s.fillHeld gid off).memWf := by
  unfold State.fillHeld
  split
  · exact h.modHeld fun _ hx => hx
  · exact .wake (h.modHeld fun _ hx => Memory.setFull_wf _ _ hx)

theorem State.memWf.spot {s : State} {r : SliceRef} {lane : Nat} {sp : Space} {ea : Dword} {n : Nat} {w : Option Window} {need : Need} {kind : Nat} {atHome : Bool}
    (h : s.memWf) :
    (s.spot r lane sp ea n w need kind atHome).1.memWf := by
  unfold State.spot
  extract_lets g viaTlb
  have hviaTlb : viaTlb.1.memWf := by
    unfold viaTlb
    split <;> rename_i e <;> exact h.reach.of_pair e
  split
  · split
    · split
      · exact h
      · split
        · exact hviaTlb
        · exact h
    · exact hviaTlb
  · split
    · exact h.startRefill
    · exact h
  · exact h

/-! ### Accesses -/

theorem Slice.memWf.abandon {sl : Slice} {a : Access} (h : sl.memWf) : (sl.abandon a).memWf := by
  unfold Slice.abandon
  extract_lets sl1 x
  have hsl1 : sl1.memWf := by
    unfold sl1
    split
    · exact h.makeFullN
    · exact h
  exact hsl1

theorem State.memWf.atomicAtHome {s : State} {c : CoreRef} {pa : Nat} (h : s.memWf) : (s.atomicAtHome c pa).memWf := h.homeLookup.recall.l2Touch

theorem State.memWf.grantLine {s : State} {c : CoreRef} {pa : Nat} (h : s.memWf) : (s.grantLine c pa).memWf :=
  h.homeLookup.recall.l2Touch.modDie fun _ hd => hd

theorem State.memWf.atomicOwner {s : State} {by_ : Option SliceRef} {c : CoreRef} {pa : Nat} {routine : Bool} (h : s.memWf) :
    (s.atomicOwner by_ c pa routine).memWf := by
  unfold State.atomicOwner
  extract_lets n s1 s2
  have hs1 : s1.memWf := h.modCore
  have hs2 : s2.memWf := by
    unfold s2
    split
    · split
      · split
        · exact hs1
        · exact hs1.homeLookup.l2Touch
      · exact h.modCore.grantLine
    · exact h.modCore.grantLine
  split
  · exact h.atomicAtHome
  · split
    · exact h.modCore.atomicAtHome
    · exact hs2.l1Touch

theorem State.memWf.writeAtomic {s : State} {by_ : Option SliceRef} {c : CoreRef} {routine : Bool} {p : Place} {was data : List Byte} (h : s.memWf) :
    (s.writeAtomic by_ c routine p was data).memWf := by
  unfold State.writeAtomic
  extract_lets s1 s2
  have hs1 : s1.memWf := h.modMem fun _ hx => Memory.setBytes_wf _ _ hx
  have hs2 : s2.memWf := by
    unfold s2
    split
    · exact hs1
    · exact hs1.modSlice fun _ hsl => hsl.stores
    · exact hs1
  split
  · extract_lets s3
    have hs3 : s3.memWf := by
      unfold s3
      split
      · exact hs2
      · exact hs2.atomicOwner
    split
    · exact hs3
    · exact hs3.conflictLine.snoop
  · exact hs1.windowWrite
  · exact hs2

theorem State.memWf.loadTouch {s : State} {r : SliceRef} {hint : Option Nat} {pa : Nat} (h : s.memWf) : (s.loadTouch r hint pa).memWf := by
  unfold State.loadTouch
  extract_lets g s1
  have hs1 : s1.memWf := by
    unfold s1
    split
    · exact h
    · exact h.findHome.recall.l2Touch
  exact hs1.l1Touch

theorem State.memWf.toHome {s : State} {r : SliceRef} {op : AccessOp} {p : Place} (h : s.memWf) : (s.toHome r op p).memWf := by
  unfold State.toHome
  extract_lets s1
  have hs1 : s1.memWf := by
    unfold s1
    split
    · split
      · exact h.homeLookup.useHome
      · exact h.homeLookup
    · exact h
  split
  · exact hs1.meetsPaths
  · exact hs1

theorem State.memWf.loadSeen {s : State} {r : SliceRef} {p : Place} {n : Nat} (h : s.memWf) : (s.loadSeen r p n).memWf :=
  h.modSlice fun _ hsl => hsl.meets

theorem State.memWf.storeNoted {s : State} {r : SliceRef} {p : Place} {n : Nat} (h : s.memWf) : (s.storeNoted r p n).memWf := by
  unfold State.storeNoted
  split
  · exact h
  · exact h.modSlice fun _ hsl => hsl.stores

theorem State.memWf.performLane {s : State} {r : SliceRef} {a : Access} {i : Nat} {p : Place} (h : s.memWf) : (s.performLane r a i p).1.memWf := by
  unfold State.performLane
  extract_lets g mark bs s1
  have hs1 : s1.memWf := h.storeNoted.toHome.writePlace
  split
  · refine .loadSeen ?_
    split
    · exact h.loadTouch
    · exact h
  · exact h.toHome
  · split
    · exact hs1.l1Store
    · exact hs1
  · exact h.toHome.setFullPlace
  · exact h.toHome
  · split
    · exact h.toHome.setFullPlace
    · exact h.toHome
  · split
    · exact h.toHome
    · exact h.toHome.writePlace.setFullPlace
  · exact h.writeAtomic

theorem State.memWf.parkLane {s : State} {r : SliceRef} {i : Nat} {p : Place} {wantsFull takes : Bool} (h : s.memWf) :
    (s.parkLane r i p wantsFull takes).memWf := by
  unfold State.parkLane
  split
  · extract_lets s1
    have hs1 : s1.memWf := h
    split
    · exact hs1.modSlice fun _ hsl => hsl
    · exact hs1
  · exact h

theorem State.memWf.unparkLane {s : State} {r : SliceRef} {i : Nat} (h : s.memWf) : (s.unparkLane r i).memWf := h

theorem State.memWf.presentLane {s : State} {r : SliceRef} {a : Access} {i : Nat} {p : Place} (h : s.memWf) : (s.presentLane r a i p).1.memWf := by
  unfold State.presentLane
  split
  · rename_i e
    exact .unparkLane ((h.performLane.of_pair e).foldl fun _ _ ht => ht.modSlice fun _ hsl => hsl)
  · rename_i e
    exact (h.performLane.of_pair e).unparkLane
  · rename_i e
    exact (h.performLane.of_pair e).parkLane

theorem State.memWf.transactLanes {s : State} {r : SliceRef} {a : Access} {xs : List (Nat × Nat)} (h : s.memWf) :
    (s.transactLanes r a xs).1.memWf := by
  induction xs generalizing s a with
  | nil => exact h
  | cons x xs ih =>
    unfold State.transactLanes
    split
    · exact h
    · split
      · exact h.modSlice fun _ hsl => hsl.abortTx
      · split
        · extract_lets t2 t3 g s1
          have hs1 : s1.memWf := h.modSlice fun _ hsl => hsl
          refine ih ?_
          split
          · exact hs1.homeLookup.l1Store
          · exact hs1
        · extract_lets bs mark owe s1
          have howe : ∀ (t' : State), t'.memWf → ∀ (i : Nat), (owe t' i).memWf := fun _ ht' _ => ht'.modSlice fun _ hsl => hsl
          have hs1 : s1.memWf := .foldl (h.modSlice fun _ hsl => hsl) fun _ _ ht2 => howe _ ht2 _
          refine ih ?_
          split
          · exact hs1.loadTouch
          · exact hs1

theorem State.memWf.spots {s : State} {r : SliceRef} {a : Access} {w : Option Window} {tx : Bool} {is : List Nat} (h : s.memWf) :
    (s.spots r a w tx is).1.memWf := by
  induction is generalizing s with
  | nil => exact h
  | cons i is ih =>
    unfold State.spots
    exact ih h.spot

theorem State.memWf.noteStale {s : State} {r : SliceRef} {a : Access} (h : s.memWf) : (s.noteStale r a).memWf := by
  unfold State.noteStale
  split
  · split
    · exact h.modSlice fun _ hsl => hsl
    · exact h
  · exact h

theorem State.memWf.dropAccess {s : State} {r : SliceRef} {a : Access} (h : s.memWf) : (s.dropAccess r a).memWf :=
  h.withdraw.modSlice fun _ hsl => hsl.abandon

theorem State.memWf.placeLane {r : SliceRef} {x : State × Access} {y : Nat × Spot} (h : x.1.memWf) : (State.placeLane r x y).1.memWf := by
  unfold State.placeLane
  split
  · exact h.presentLane
  · exact h
  · exact h
  · exact h
  · exact h
  · exact h

theorem State.memWf.holdLane {r : SliceRef} {x : State × Access} {y : Nat × Spot} (h : x.1.memWf) : (State.holdLane r x y).1.memWf := by
  unfold State.holdLane
  split
  · exact h.placeLane
  · exact h

theorem State.memWf.placeLanes {s : State} {r : SliceRef} {a : Access} {xs : List (Nat × Spot)} (h : s.memWf) : (s.placeLanes r a xs).1.memWf := by
  unfold State.placeLanes
  extract_lets a1 y
  have hy : y.1.memWf := by
    unfold y
    split
    · exact h.foldl_fst fun _ _ _ ht => ht.holdLane
    · exact h.foldl_fst fun _ _ _ ht => ht.placeLane
  exact hy

theorem State.memWf.finishAccess {s : State} {r : SliceRef} {a : Access} (h : s.memWf) : (s.finishAccess r a).memWf := by
  unfold State.finishAccess
  extract_lets s1
  have hs1 : s1.memWf := h.modSlice fun _ hsl => hsl
  split
  · exact hs1.acquire
  · exact hs1

theorem State.memWf.restAccess {s : State} {r : SliceRef} {a : Access} (h : s.memWf) : (s.restAccess r a).1.memWf := by
  unfold State.restAccess
  split
  · exact h.finishAccess
  · exact h

theorem State.memWf.advance {s : State} {r : SliceRef} {a : Access} (h : s.memWf) : (s.advance r a).1.memWf := by
  unfold State.advance
  extract_lets sl tx x s1 y y1
  have hx : x.1.memWf := h.noteStale.spots
  have hy : y.1.memWf := by
    unfold y
    split
    · exact hx
    · exact hx.placeLanes
  have hy1 : y1.1.memWf := hx.placeLanes
  split
  · exact hx.dropAccess
  · split
    · exact hx.dropAccess
    · split
      · split
        · exact hx.dropAccess.modSlice fun _ hsl1 => hsl1.abortTx
        · split
          · rename_i e
            exact (hx.transactLanes.of_pair e).restAccess
          · rename_i e
            exact (hx.transactLanes.of_pair e).modSlice fun _ hsl1 => hsl1.abandon
      · split
        · exact hy.dropAccess
        · split
          · exact hx.dropAccess
          · exact hy1.restAccess

theorem State.memWf.issueAccess {s : State} {r : SliceRef} {a : Access} (h : s.memWf) : (s.issueAccess r a).1.memWf := by
  unfold State.issueAccess
  split
  · exact h
  · refine .advance ?_
    split
    · exact h.modSlice fun _ hsl => hsl.makeEmptyN
    · exact h

theorem State.memWf.resume {s : State} {r : SliceRef} {addr next : Dword} {f : Fate} (h : s.memWf) : (s.resume r addr next f).memWf := by
  unfold State.resume
  extract_lets k s1
  have hs1 : s1.memWf := by
    unfold s1
    split
    · exact h.modSlice fun _ hsl => hsl.frame rfl
    · exact h
    · exact .settleFate (h.modSlice fun _ hsl => hsl.frame rfl)
  exact hs1.divide

theorem State.memWf.budgetTrap {s : State} {r : SliceRef} {a : Access} {cycles : Bool} (h : s.memWf) : (s.budgetTrap r a cycles).memWf :=
  h.dropAccess.resume

theorem State.memWf.reissue {s : State} {r : SliceRef} {lane : Nat} (h : s.memWf) : (s.reissue r lane).memWf := by
  unfold State.reissue
  split
  · exact .next h
  · split
    · exact .next h
    · extract_lets others back
      split
      · rename_i e
        split
        · exact .next (h.advance.of_pair e).budgetTrap
        · exact .next (h.advance.of_pair e).resume
      · rename_i e
        exact .next (h.advance.of_pair e).resume

theorem State.memWf.replayAccess {s : State} {r : SliceRef} (h : s.memWf) : (s.replayAccess r).memWf := by
  unfold State.replayAccess
  split
  · exact .next h
  · extract_lets b hold back
    split
    · exact .next h
    · split
      · rename_i e
        split
        · exact .next (h.advance.of_pair e).budgetTrap
        · exact .next (h.advance.of_pair e).resume
      · rename_i e
        exact .next (h.advance.of_pair e).resume

theorem execLoadValueArrival_memWf {r : SliceRef} {k : Nat} {s : State} (h : s.memWf) : (execLoadValueArrival r k s).memWf := by
  unfold execLoadValueArrival
  split
  · exact .next (h.modSlice fun _ hsl => hsl.deliver.frame rfl)
  · exact .next h

theorem execFeReissue_memWf {r : SliceRef} {lane : Nat} {s : State} (h : s.memWf) : (execFeReissue r lane s).memWf := h.unlessEarly h.reissue

theorem execRetryBudgetExhausted_memWf {r : SliceRef} {s : State} (h : s.memWf) : (execRetryBudgetExhausted r s).memWf := by
  unfold execRetryBudgetExhausted
  split
  · exact .next h
  · extract_lets x1
    split
    · exact h.unlessEarly (.next h.budgetTrap)
    · split
      · exact h.unlessEarly (.next h.budgetTrap)
      · exact .next h

/-! ### Integer lanes -/

theorem writeLanes_memWf {words : Nat} {x : Lanes (Dword × Flags)} {c : Ctx} {s : State} (h : s.memWf) : (writeLanes words x c s).memWf := by
  unfold writeLanes
  extract_lets d v s1
  have hs1 : s1.memWf := by
    unfold s1
    refine h.modSlice fun _ hsl => ?_
    split
    · exact hsl.setPairs
    · exact hsl.setLanes
  split
  · exact hs1
  · exact hs1.raiseFlags

theorem laneResult_memWf {words : Nat} {f : Ctx → Slice → Nat → Dword × Flags} {c : Ctx} {s : State} (h : s.memWf) :
    (laneResult words f c s).1.memWf := writeLanes_memWf h

theorem writeMaskLanes_memWf {k : Nat} {f : Nat → Bool} {c : Ctx} {s : State} (h : s.memWf) : (writeMaskLanes k f c s).memWf :=
  h.modSlice fun _ hsl => hsl.setMask

theorem laneInt_memWf {f : Bool → Nat → Nat → Nat → Nat} {c : Ctx} {s : State} (h : s.memWf) : (laneInt f c s).1.memWf := by
  unfold laneInt
  exact laneResult_memWf h

theorem laneLogic_memWf {f : Nat → Nat → Nat → Nat} {c : Ctx} {s : State} (h : s.memWf) : (laneLogic f c s).1.memWf := by
  unfold laneLogic
  exact laneResult_memWf h

theorem laneShift_memWf {f : Nat → Nat → Nat → Nat} {c : Ctx} {s : State} (h : s.memWf) : (laneShift f c s).1.memWf := by
  unfold laneShift
  exact laneResult_memWf h

theorem actNop_memWf {c : Ctx} {s : State} (h : s.memWf) : (actNop c s).1.memWf := h

theorem moveLanes_memWf {words : Nat} {from_ : Slice → Nat → Nat} {c : Ctx} {s : State} (h : s.memWf) : (moveLanes words from_ c s).1.memWf :=
  h.modSlice fun _ hsl => hsl.foldl fun _ _ hx => hx.setLanesP

theorem actMov_memWf {c : Ctx} {s : State} (h : s.memWf) : (actMov c s).1.memWf := moveLanes_memWf h

theorem actSel_memWf {c : Ctx} {s : State} (h : s.memWf) : (actSel c s).1.memWf := moveLanes_memWf h

theorem actImad_memWf {c : Ctx} {s : State} (h : s.memWf) : (actImad c s).1.memWf := by
  unfold actImad
  exact laneResult_memWf h

theorem actDivide_memWf {f : Bool → Nat → Nat → Nat → Nat} {c : Ctx} {s : State} (h : s.memWf) : (actDivide f c s).1.memWf := by
  unfold actDivide
  extract_lets n sl zero
  split
  · exact h
  · exact laneInt_memWf h

theorem actIabs_memWf {c : Ctx} {s : State} (h : s.memWf) : (actIabs c s).1.memWf := by
  unfold actIabs
  exact laneResult_memWf h

theorem actIcmp_memWf {c : Ctx} {s : State} (h : s.memWf) : (actIcmp c s).1.memWf := writeMaskLanes_memWf h

theorem actNot_memWf {c : Ctx} {s : State} (h : s.memWf) : (actNot c s).1.memWf := by
  unfold actNot
  exact laneResult_memWf h

theorem actBfx_memWf {c : Ctx} {s : State} (h : s.memWf) : (actBfx c s).1.memWf := laneShift_memWf h

theorem actBfi_memWf {c : Ctx} {s : State} (h : s.memWf) : (actBfi c s).1.memWf := by
  unfold actBfi
  exact laneResult_memWf h

theorem actCount_memWf {f : Nat → Nat → Nat} {c : Ctx} {s : State} (h : s.memWf) : (actCount f c s).1.memWf := by
  unfold actCount
  exact laneResult_memWf h

theorem actBrev_memWf {c : Ctx} {s : State} (h : s.memWf) : (actBrev c s).1.memWf := by
  unfold actBrev
  exact laneResult_memWf h

theorem actLea_memWf {c : Ctx} {s : State} (h : s.memWf) : (actLea c s).1.memWf := by
  unfold actLea
  exact laneResult_memWf h

theorem actBperm_memWf {c : Ctx} {s : State} (h : s.memWf) : (actBperm c s).1.memWf := laneResult_memWf h

theorem actIaddx_memWf {c : Ctx} {s : State} (h : s.memWf) : (actIaddx c s).1.memWf := writeMaskLanes_memWf (laneResult_memWf h)

theorem setRng_memWf {c : Ctx} {f : Slice → Nat → Dword} {s : State} (h : s.memWf) : (setRng c f s).memWf := h.modSlice fun _ hsl => hsl

theorem actRsplit_memWf {c : Ctx} {s : State} (h : s.memWf) : (actRsplit c s).1.memWf := setRng_memWf h

theorem actRnext_memWf {c : Ctx} {s : State} (h : s.memWf) : (actRnext c s).1.memWf := by
  unfold actRnext
  extract_lets s1
  have hs1 : s1.memWf := setRng_memWf h
  split <;> exact laneResult_memWf hs1

theorem actRunif_memWf {c : Ctx} {s : State} (h : s.memWf) : (actRunif c s).1.memWf := by
  unfold actRunif
  exact laneResult_memWf (setRng_memWf h)

/-! ### Control flow -/

theorem transfer_memWf {c : Ctx} {s : State} {t : Dword} {effect : State → State}
    (h : s.memWf) (heffect : ∀ (t' : State), t'.memWf → (effect t').memWf) :
    (transfer c s t effect).1.memWf := by
  unfold transfer
  extract_lets f
  clear_value f
  split
  · exact heffect _ h
  · exact h

theorem actBra_memWf {c : Ctx} {s : State} (h : s.memWf) : (actBra c s).1.memWf := h

theorem actBrx_memWf {c : Ctx} {s : State} (h : s.memWf) : (actBrx c s).1.memWf := transfer_memWf h fun _ ht' => ht'

theorem actCall_memWf {c : Ctx} {s : State} (h : s.memWf) : (actCall c s).1.memWf :=
  transfer_memWf h fun _ ht' => ht'.modSlice fun _ hsl => hsl.setPairs

theorem actRet_memWf {c : Ctx} {s : State} (h : s.memWf) : (actRet c s).1.memWf := by
  unfold actRet
  extract_lets sl
  split
  · exact transfer_memWf h fun _ ht' => ht'.modSlice fun _ hsl1 => hsl1.returnFromTrap
  · exact transfer_memWf h fun _ ht' => ht'

theorem actCbr_memWf {c : Ctx} {s : State} (h : s.memWf) : (actCbr c s).1.memWf := h

theorem runCbrGang_memWf {cs : List Ctx} {s : State} (h : s.memWf) : (runCbrGang cs s).s.memWf := by
  unfold runCbrGang
  extract_lets set
  split
  · exact h
  · extract_lets taken f
    split <;> exact h

theorem actLoop_memWf {c : Ctx} {s : State} (h : s.memWf) : (actLoop c s).1.memWf := by
  unfold actLoop
  extract_lets n dec
  have hdec : ∀ (t : State), t.memWf → (dec t).memWf := fun _ ht => ht.modSlice fun _ hsl => hsl.setLane
  split
  · exact hdec _ h
  · split
    · exact hdec _ h
    · exact h

theorem actSplit_memWf {c : Ctx} {s : State} (h : s.memWf) : (actSplit c s).1.memWf := by
  unfold actSplit
  extract_lets sl m pa pb lother both s1
  have hs1 : s1.memWf := by
    unfold s1
    refine h.modSlice fun _ hsl1 => ?_
    extract_lets x x1
    have hx : x.memWf := hsl1.push
    have hx1 : x1.memWf := by
      unfold x1
      split
      · exact hx.push
      · exact hx
    exact hx1
  split
  · split
    · exact h
    · exact hs1
  · split
    · exact h
    · exact hs1

theorem actJoin_memWf {c : Ctx} {s : State} (h : s.memWf) : (actJoin c s).1.memWf := by
  unfold actJoin
  split
  · exact h
  · rename_i e
    exact h.modSlice fun _ _ => h.slice.pop _ e

theorem popLive_memWf {n : Nat} {sl : Slice} (h : sl.memWf) : ∀ x ∈ popLive n sl, x.2.memWf := by
  induction n generalizing sl with
  | zero => exact forall_mem_none
  | succ n ih =>
    unfold popLive
    split
    · exact forall_mem_none
    · rename_i e
      split
      · exact forall_mem_some (h.pop _ e)
      · exact ih (h.pop _ e)

theorem actExit_memWf {c : Ctx} {s : State} (h : s.memWf) : (actExit c s).1.memWf := by
  unfold actExit
  extract_lets sl left
  have hsl : sl.memWf := h.slice.dropLanes
  split
  · exact h.modSlice fun _ _ => hsl.frame rfl
  · split
    · rename_i e
      exact h.modSlice fun _ _ => ((popLive_memWf hsl) _ e).frame rfl
    · exact h.modSlice fun _ _ => hsl.finish

theorem actPart_memWf {c : Ctx} {s : State} (h : s.memWf) : (actPart c s).1.memWf := h

theorem actRegang_memWf {c : Ctx} {s : State} (h : s.memWf) : (actRegang c s).1.memWf := by
  unfold actRegang
  extract_lets g
  split <;> exact h

theorem actElect_memWf {c : Ctx} {s : State} (h : s.memWf) : (actElect c s).1.memWf := h.modSlice fun _ hsl => hsl.setMask.setLanes

theorem runElectGang_memWf {cs : List Ctx} {s : State} (h : s.memWf) : (runElectGang cs s).s.memWf := by
  unfold runElectGang
  split
  · exact h
  · exact h.foldl fun _ _ ht => ht.modSlice fun _ hsl => hsl.setMask.setLanes

theorem actYield_memWf {c : Ctx} {s : State} (h : s.memWf) : (actYield c s).1.memWf := h.endIssuerRun

theorem actTrap_memWf {cause : Nat} {c : Ctx} {s : State} (h : s.memWf) : (actTrap cause c s).1.memWf := h

theorem actRegion_memWf {c : Ctx} {s : State} (h : s.memWf) : (actRegion c s).1.memWf := h.modSlice fun _ hsl => hsl

theorem actSrd_memWf {c : Ctx} {s : State} (h : s.memWf) : (actSrd c s).1.memWf := by
  unfold actSrd
  extract_lets n x d s1
  have hs1 : s1.memWf := by
    unfold s1
    split
    · exact h.modSlice fun _ hsl => hsl.frame rfl
    · exact h
  exact writeLanes_memWf hs1

theorem actSwr_memWf {c : Ctx} {s : State} (h : s.memWf) : (actSwr c s).1.memWf := by
  unfold actSwr
  extract_lets n sl x v lo bad put s1
  have hput : ∀ (x' : Slice → Slice), (∀ (sl' : Slice), sl'.memWf → (x' sl').memWf) → (put x').1.memWf := fun _ e => h.modSlice e
  have hs1 : s1.memWf := h.modSlice fun _ hsl1 => hsl1.frame rfl
  clear_value n
  split
  · split
    · exact hs1.modGroup fun _ hg => hg.frame rfl rfl rfl rfl
    · exact hs1
  · split
    · exact h
    · exact hput _ fun _ hsl' => hsl'.frame rfl
  · exact hput _ fun _ hsl' => hsl'.frame rfl
  · exact hput _ fun _ hsl' => hsl'.frame rfl
  · exact hput _ fun _ hsl' => hsl'.frame rfl
  · exact hput _ fun _ hsl' => hsl'.frame rfl
  · exact hput _ fun _ hsl' => hsl'.frame rfl
  · exact hput _ fun _ hsl' => hsl'.frame rfl
  · exact hput _ fun _ hsl' => hsl'.frame rfl
  · split
    · exact h
    · exact hput _ fun _ hsl' => hsl'.frame rfl
  · exact h

theorem runLease_memWf {cs : List Ctx} {s : State} (h : s.memWf) : (runLease cs s).s.memWf := by
  unfold runLease
  split
  · exact h
  · extract_lets req n k s1 s2
    have hs1 : s1.memWf := h.modGang
    have hs2 : s2.memWf := hs1.foldl fun _ _ ht => ht.modSlice fun _ hsl => hsl.frame rfl
    split
    · exact h
    · split
      · exact hs2
      · exact h.modGang

theorem runLeaseq_memWf {cs : List Ctx} {s : State} (h : s.memWf) : (runLeaseq cs s).s.memWf := by
  unfold runLeaseq
  split
  · exact h
  · exact h.foldl fun _ _ ht => writeLanes_memWf ht

theorem actSetfmt_memWf {c : Ctx} {s : State} (h : s.memWf) : (actSetfmt c s).1.memWf := h.modSlice fun _ hsl => hsl

theorem State.memWf.issueRaw {s : State} {who : Issuer} {g : RawGroup} (h : s.memWf) : (s.issueRaw who g).memWf := by
  unfold State.issueRaw
  extract_lets a grp cs
  split
  · exact h
  · exact h.conclude

/-! ### Loads and stores of a slice -/

theorem actLoad_memWf {op : AccessOp} {acqDefault once : Bool} {c : Ctx} {s : State} (h : s.memWf) : (actLoad op acqDefault once c s).1.memWf :=
  h.issueAccess

theorem actStore_memWf {op : AccessOp} {relDefault : Bool} {c : Ctx} {s : State} (h : s.memWf) : (actStore op relDefault c s).1.memWf := h.issueAccess

theorem actFeq_memWf {c : Ctx} {s : State} (h : s.memWf) : (actFeq c s).1.memWf := h.issueAccess

theorem actFeset_memWf {c : Ctx} {s : State} (h : s.memWf) : (actFeset c s).1.memWf := h.issueAccess

theorem actBwin_memWf {c : Ctx} {s : State} (h : s.memWf) : (actBwin c s).1.memWf := by
  unfold actBwin
  extract_lets sl g va
  split
  · exact h
  · split
    · rename_i e
      extract_lets w
      refine (h.reach.of_pair e).modSlice fun _ hsl1 => ?_
      extract_lets sl2
      have hsl2 : sl2.memWf := hsl1.frame rfl
      split
      · exact hsl2.setLanes
      · exact hsl2
    · rename_i e
      exact h.reach.of_pair e
    · rename_i e
      exact h.reach.of_pair e
    · rename_i e
      exact h.reach.of_pair e
    · rename_i e
      exact h.reach.of_pair e

theorem actBwrel_memWf {c : Ctx} {s : State} (h : s.memWf) : (actBwrel c s).1.memWf := by
  unfold actBwrel
  refine h.modSlice fun _ hsl => ?_
  split <;> exact hsl.frame rfl

theorem execWindowRetranslation_memWf {r : SliceRef} {k : Nat} {s : State} (h : s.memWf) : (execWindowRetranslation r k s).memWf := by
  unfold execWindowRetranslation
  extract_lets g put
  have hput : ∀ (t : State), t.memWf → ∀ (x' : Window), (put t x').memWf := fun _ ht _ => .next (ht.modSlice fun _ hsl => hsl)
  split
  · split
    · split
      · rename_i e
        split <;> exact hput _ (h.translate.of_pair e) _
      · rename_i e
        exact hput _ (h.translate.of_pair e) _
    · exact .next h
  · exact .next h

theorem State.memWf.prefetchLane {c : Ctx} {a : Access} {level : Nat} {s : State} {i : Nat} (h : s.memWf) :
    (State.prefetchLane c a level s i).memWf := by
  unfold State.prefetchLane
  extract_lets g found
  have hfound : found.1.memWf := by
    unfold found
    split
    · exact h
    · split <;> rename_i e2 <;> exact h.translate.of_pair e2
  split
  · clear_value found
    split
    · split
      · exact hfound
      · split
        · exact hfound.loadTouch
        · split
          · exact hfound.homeLookup.recall.l2Touch
          · exact hfound.homeLookup.askBases
    · exact hfound
  · split
    · exact h.startRefill
    · exact h
  · exact h

theorem actPref_memWf {c : Ctx} {s : State} (h : s.memWf) : (actPref c s).1.memWf := by
  unfold actPref
  extract_lets a
  split
  · exact h
  · exact h.noteStale.foldl fun _ _ ht => ht.prefetchLane

theorem actFence_memWf {c : Ctx} {s : State} (h : s.memWf) : (actFence c s).1.memWf := by
  unfold actFence
  extract_lets acquires
  split
  · exact h
  · split
    · exact h.acquire
    · exact h

/-! ### Atomics and transactions -/

theorem partOfAtomic_memWf {act : Ctx → State → State × Fate} {c : Ctx} {s : State}
    (h : s.memWf) (hact : ∀ (c' : Ctx) (t : State), t.memWf → (act c' t).1.memWf) :
    (partOfAtomic act c s).1.memWf := by
  unfold partOfAtomic
  split
  · rename_i e
    exact ((hact _ _ h).of_pair e).modSlice fun _ hsl => hsl
  · exact hact _ _ h

theorem runAtomic_memWf {act : Ctx → State → State × Fate} {cs : List Ctx} {s : State}
    (h : s.memWf) (hact : ∀ (c : Ctx) (t : State), t.memWf → (act c t).1.memWf) :
    (runAtomic act cs s).s.memWf := by
  unfold runAtomic
  extract_lets r
  have hr : r.s.memWf := eachSlice_memWf (fun _ _ ht => partOfAtomic_memWf ht hact) h
  split
  · exact hr
  · exact h

theorem actAtom_memWf {returns : Bool} {c : Ctx} {s : State} (h : s.memWf) : (actAtom returns c s).1.memWf := h.issueAccess

theorem actAtomp_memWf {c : Ctx} {s : State} (h : s.memWf) : (actAtomp c s).1.memWf := h.issueAccess

theorem actBfins_memWf {c : Ctx} {s : State} (h : s.memWf) : (actBfins c s).1.memWf := h.issueAccess

theorem actBffcs_memWf {c : Ctx} {s : State} (h : s.memWf) : (actBffcs c s).1.memWf := h.issueAccess

theorem actBfpls_memWf {c : Ctx} {s : State} (h : s.memWf) : (actBfpls c s).1.memWf := h.issueAccess

theorem actAtomw_memWf {c : Ctx} {s : State} (h : s.memWf) : (actAtomw c s).1.memWf := h.issueAccess

theorem actTxb_memWf {c : Ctx} {s : State} (h : s.memWf) : (actTxb c s).1.memWf := by
  unfold actTxb
  extract_lets sl
  split
  · exact h
  · exact h.modSlice fun _ hsl1 => hsl1.frame rfl

theorem actTxc_memWf {c : Ctx} {s : State} (h : s.memWf) : (actTxc c s).1.memWf := by
  unfold actTxc
  split
  · exact h
  · exact h.modDie fun _ hd => hd

theorem actTxa_memWf {c : Ctx} {s : State} (h : s.memWf) : (actTxa c s).1.memWf := by
  unfold actTxa
  split
  · exact h
  · exact h.modSlice fun _ hsl => hsl.abortTx

theorem State.memWf.writeSet {s : State} {r : SliceRef} {t : Transaction} (h : s.memWf) : (s.writeSet r t).memWf := by
  unfold State.writeSet
  extract_lets s1 s2 whole mark
  have hs1 : s1.memWf := by
    unfold s1
    refine h.foldl fun _ _ ht1 => ?_
    split
    · exact ht1.homeLookup
    · exact ht1
  have hs2 : s2.memWf := hs1.foldl fun _ _ ht1 => ht1.writePlace
  have hmark : ∀ (x : Memory), x.wf = true → ∀ (x' : Nat × Bool), (mark x x').wf = true := by
    unfold mark
    intro _ hx _
    split
    · exact hx
    · split
      · exact Memory.addPoison_wf _ _ _ hx
      · split
        · exact Memory.clearPoison_wf _ _ _ hx
        · exact hx
  exact hs2.setMem (Memory.foldl_wf hs2.mem fun _ _ hx => hmark _ hx _)

theorem State.memWf.commitSlice {s : State} {r : SliceRef} {t : Transaction} (h : s.memWf) : (s.commitSlice r t).memWf := by
  unfold State.commitSlice
  extract_lets k s1
  have hs1 : s1.memWf := h.writeSet.modSlice fun _ hsl => hsl
  split
  · exact .divide (h.modSlice fun _ hsl => .abortTx hsl)
  · exact hs1.acquire.divide

theorem execCommit_memWf {die : Nat} {s : State} (h : s.memWf) : (execCommit die s).memWf := by
  unfold execCommit
  split
  · exact .next h
  · split
    · exact .next h
    · extract_lets s1
      have hs1 : s1.memWf := h.modDie fun _ hd => hd
      split
      · exact .next hs1.commitSlice
      · exact .next hs1

theorem State.memWf.breakWait {s : State} {r : SliceRef} (h : s.memWf) : (s.breakWait r).memWf := by
  unfold State.breakWait
  split
  · exact h.dropAccess
  · exact ⟨h.mem, h.groups, Bank.forall_mem_map h.dies fun _ hx1 => hx1, h.partitions⟩
  · exact h

theorem execConflict_memWf {r : SliceRef} {s : State} (h : s.memWf) : (execConflict r s).memWf := by
  unfold execConflict
  split
  · split
    · exact .next (.divide (h.breakWait.modSlice fun _ hsl => .abortTx hsl))
    · exact .next h
  · exact .next h

end Sys2Proof.Machine
end

section
/-! Shadows, barriers, scratchpads and copies: each operation keeps the canonical form of the memories. -/

namespace Sys2Proof.Machine

/-! ### Shadow execution -/

theorem State.memWf.trailIssue {before : State} {who : Issuer} {i : Instr} {after : State} (hafter : after.memWf) :
    (before.trailIssue who i after).memWf := by
  unfold State.trailIssue
  split
  · exact hafter
  · split
    · exact hafter
    · extract_lets a g cs now own item
      refine hafter.modGroup fun _ hg1 => ?_
      refine ⟨hg1.scr, hg1.backing, hg1.slices, ?_⟩
      refine forall_mem_mapIdx hg1.shadows fun _ _ hx1 => ?_
      split <;> exact hx1

theorem Group.memWf.received {g : Group} (h : g.memWf) : g.received.memWf := by
  unfold Group.received
  extract_lets closing
  refine ⟨h.scr, h.backing, h.slices, ?_⟩
  refine forall_mem_mapIdx h.shadows fun _ _ hx => ?_
  split <;> exact hx

theorem Slice.memWf.divertWith {before after sh : Slice} (hsh : sh.memWf) : (before.divertWith after sh).memWf := by
  unfold Slice.divertWith
  extract_lets x sh1
  have hx : x.memWf := hsh.abortTx
  have hsh1 : sh1.memWf := by
    unfold sh1
    split
    · exact hx.frame rfl
    · exact hsh
  exact hsh1.frame rfl

theorem Group.memWf.followSlice {before g : Group} {i : Nat} (hg : g.memWf) : (before.followSlice g i).memWf := by
  unfold Group.followSlice
  split
  · exact hg.dropTrail
  · split
    · extract_lets x
      have hx : x.memWf := hg.dropTrail
      exact ⟨hx.scr, hx.backing, hx.slices, forall_mem_modify hg.shadows fun _ hx1 => hx1.divertWith⟩
    · exact hg

theorem Group.memWf.followFrom {before g : Group} (hg : g.memWf) : (before.followFrom g).memWf := by
  unfold Group.followFrom
  split
  · exact hg
  · exact hg.foldl fun _ _ hx => hx.followSlice

theorem State.memWf.followFrom {s before : State} (h : s.memWf) : (s.followFrom before).memWf :=
  ⟨h.mem, List.forall_mem_map.2 fun _ hx => (h.groups _ hx).followFrom, h.dies, h.partitions⟩

theorem Group.memWf.follow {before g : Group} (hg : g.memWf) : (before.follow g).memWf := by
  unfold Group.follow
  split
  · exact hg
  · exact hg.followFrom.received

theorem State.memWf.followShadows {s before : State} (h : s.memWf) : (s.followShadows before).memWf :=
  ⟨h.mem, List.forall_mem_map.2 fun _ hx => (h.groups _ hx).follow, h.dies, h.partitions⟩

theorem Slice.memWf.after {x : Shadow} {sl : Slice} (hsl : sl.memWf) : (x.after sl).slice.memWf := hsl.foldl fun _ _ hx1 => hx1.deliver

theorem Slice.memWf.take {x : Shadow} {e : QueueEntry} (h : x.slice.memWf) : (x.take e).slice.memWf :=
  .after (.carry (h.foldl fun _ _ hx1 => hx1.deliver))

theorem State.memWf.upsetPair {s : State} {r : SliceRef} {a : Dword} {eff : Mask} {kind : Nat} {addr : Dword} (h : s.memWf) :
    (s.upsetPair r a eff kind addr).memWf := .divide (.takeMismatch (h.breakWait.modSlice fun _ hsl => hsl))

theorem State.memWf.takeEntry {x : Trailing} {g : Grp} {size gid : Nat} {s : State} {i : Nat} (h : s.memWf) :
    (State.takeEntry x g size gid s i).memWf := by
  unfold State.takeEntry
  split
  · exact h
  · extract_lets c
    split
    · exact h.upsetPair
    · exact h.modGroup fun _ hg1 => ⟨hg1.scr, hg1.backing, hg1.slices, forall_mem_modify hg1.shadows fun _ hx3 => hx3.take⟩

theorem Slice.memWf.besidePair {primary shadow : Slice} (hshadow : shadow.memWf) : (primary.besidePair shadow).memWf := hshadow

theorem State.memWf.asShadows {s : State} {gid gang : Nat} {members : List Nat} {a : Dword} (h : s.memWf) :
    (s.asShadows gid gang members a).memWf := by
  unfold State.asShadows
  extract_lets x
  have hx : x.memWf := by
    unfold x
    refine h.modGroup fun _ hg => ?_
    refine ⟨hg.scr, hg.backing, ?_, hg.shadows⟩
    refine forall_mem_mapIdx hg.shadows fun _ _ hx1 => ?_
    split
    · extract_lets x2
      have hx2 : x2.memWf := hx1.besidePair
      exact hx2.frame rfl
    · extract_lets x2
      have hx2 : x2.memWf := hg.slice
      exact hx2.frame rfl
  exact ⟨hx.mem, hx.groups, Bank.forall_mem_map h.dies fun _ hx1 => hx1, hx.partitions⟩

theorem Slice.memWf.ranShadow {x : Trailing} {gid : Nat} {sl : Slice} {s : State} {i : Nat} (h : sl.memWf) (hs : s.memWf) :
    (State.ranShadow x gid sl s i).memWf := by
  unfold State.ranShadow
  extract_lets r was mask
  split
  · exact .divide (hs.breakWait.modSlice fun _ hsl1 => .restart hsl1)
  · split
    · exact hs.upsetPair
    · refine hs.modGroup fun _ hg => ?_
      refine ⟨hg.scr, hg.backing, hg.slices, ?_⟩
      refine forall_mem_modify hg.shadows fun _ hx1 => ?_
      split
      · split
        · exact hx1.take
        · exact hx1
      · exact h.after

theorem Group.memWf.without {g : Group} {at_ : Nat} {x : Trailing} (h : g.memWf) : (g.without at_ x).memWf := h

theorem State.memWf.trailStep {run : Instr → State → Outcome} {who : Issuer} {s : State}
    (h : s.memWf) (hrun : ∀ (x : Instr) (t : State), t.memWf → (run x t).memWf) :
    (State.trailStep run who s).memWf := by
  unfold State.trailStep
  extract_lets g
  split
  · exact h
  · extract_lets rest
    have hrest : rest.memWf := h.modGroup fun _ hg1 => hg1.without
    split
    · exact hrest
    · split
      · exact hrest.foldl fun _ _ ht => ht.takeEntry
      · split
        · rename_i e
          exact hrest.foldl fun _ _ ht1 => (hrun _ _ h.asShadows _ e).group.slice.ranShadow ht1
        · exact hrest.foldl fun _ _ ht => ht.takeEntry

theorem State.memWf.trapsCompared {before : State} {who : Issuer} {eff : Nat → Mask} {go : State → State} {t : State}
    (h : before.memWf) (ht : t.memWf) :
    (before.trapsCompared who eff go t).memWf := by
  unfold State.trapsCompared
  extract_lets g ids ref trapped at_ u bad
  split
  · exact ht
  · split
    · exact h.conclude
    · split
      · exact ht
      · exact h.conclude

/-! ### Barriers -/

theorem Slice.memWf.phaseDone {sl : Slice} {a : Nat} {phases : List Nat} (h : sl.memWf) : (sl.phaseDone a phases).memWf := by
  unfold Slice.phaseDone
  extract_lets x sl1
  have hsl1 : sl1.memWf := h.frame rfl
  split
  · split
    · exact hsl1.frame rfl
    · exact hsl1
  · exact hsl1

theorem Slice.memWf.phaseGone {sl : Slice} {a : Nat} (h : sl.memWf) : (sl.phaseGone a).memWf := .phaseDone h

theorem State.memWf.setBarrier {s : State} {gid a : Nat} {o : BarrierObject} {phases : List Nat} (h : s.memWf) :
    (s.setBarrier gid a o phases).memWf := by
  unfold State.setBarrier
  extract_lets s1
  have hs1 : s1.memWf := .modHeld (.modHeld (h.modHeld fun _ hx => Memory.setNum_wf _ _ _ hx) fun _ hx => Memory.setNum_wf _ _ _ hx) fun _ hx => Memory.setNum_wf _ _ _ hx
  exact hs1.modGroup fun _ hg => ⟨hg.scr, hg.backing, List.forall_mem_map.2 fun _ hx => (hg.slices _ hx).phaseDone, hg.shadows⟩

theorem State.memWf.initBarrier {s : State} {gid a : Nat} (h : s.memWf) : (s.initBarrier gid a).memWf :=
  h.setBarrier.modGroup fun _ hg => ⟨hg.scr, hg.backing, List.forall_mem_map.2 fun _ hx => (hg.slices _ hx).phaseGone, hg.shadows⟩

theorem State.memWf.arriveAt {s : State} {gid a t n : Nat} (h : s.memWf) : (s.arriveAt gid a t n).1.memWf := h.setBarrier

theorem State.memWf.poisonBarrier {s : State} {gid a : Nat} (h : s.memWf) : (s.poisonBarrier gid a).memWf := h.setBarrier

theorem State.memWf.absentAmong {s : State} {gid : Nat} {lines : List Nat} (h : s.memWf) : (s.absentAmong gid lines).1.memWf := by
  unfold State.absentAmong
  split
  · exact h.startRefill
  · exact h

theorem State.memWf.deliverReport {s : State} {r : SliceRef} {x : CopyReport} (h : s.memWf) : (s.deliverReport r x).memWf :=
  h.modSlice fun _ hsl => hsl

theorem State.memWf.deliverFlags {s : State} {r : SliceRef} {covers : CopyReport → Bool} (h : s.memWf) : (s.deliverFlags r covers).memWf :=
  .modSlice (h.foldl fun _ _ ht => ht.raiseFlagsAll) fun _ hsl => hsl

theorem State.memWf.tryCwait {s : State} {r : SliceRef} {n : Nat} {eff : Mask} (h : s.memWf) : ∀ x ∈ s.tryCwait r n eff, x.1.memWf := by
  unfold State.tryCwait
  extract_lets open_ cp covers s1
  have hs1 : s1.memWf := h.deliverFlags
  split
  · exact forall_mem_none
  · split
    · exact forall_mem_some h.deliverReport
    · exact forall_mem_some (hs1.modSlice fun _ hsl => hsl.frame rfl)

theorem State.memWf.tryCseal {s : State} {r : SliceRef} {d : Option Nat} {eff : Mask} (h : s.memWf) : ∀ x ∈ s.tryCseal r d eff, x.1.memWf := by
  unfold State.tryCseal
  split
  · exact forall_mem_none
  · refine forall_mem_some ?_
    refine h.modSlice fun _ hsl => ?_
    extract_lets n x sl1
    have hsl1 : sl1.memWf := hsl
    split
    · exact hsl1.setLanes
    · exact hsl1

theorem State.memWf.tryBwait {s : State} {r : SliceRef} {a t : Nat} {eff : Mask} (h : s.memWf) : ∀ x ∈ s.tryBwait r a t eff, x.1.memWf := by
  unfold State.tryBwait
  extract_lets o finish
  have hfinish : finish.1.memWf := h.deliverFlags
  split
  · exact forall_mem_some hfinish
  · split
    · exact forall_mem_some h.deliverReport
    · split
      · exact forall_mem_some h
      · split
        · exact forall_mem_some h
        · split
          · exact forall_mem_some hfinish
          · exact forall_mem_some h
          · exact forall_mem_none

/-! ### Scratchpad pages and queues -/

theorem State.memWf.refillPages {s : State} {gid a b : Nat} (h : s.memWf) : (s.refillPages gid a b).memWf := h.foldl fun _ _ ht => ht.startRefill

theorem actSppin_memWf {c : Ctx} {s : State} (h : s.memWf) : (actSppin c s).1.memWf := by
  unfold actSppin
  extract_lets a b s1
  have hs1 : s1.memWf := h.refillPages
  split
  · exact h
  · split
    · exact h
    · split
      · split <;> exact hs1
      · exact hs1

theorem actSpunp_memWf {c : Ctx} {s : State} (h : s.memWf) : (actSpunp c s).1.memWf := by
  unfold actSpunp
  extract_lets a b drop mark
  split
  · exact h
  · split
    · exact h
    · exact h.modGroup fun _ hg => hg

theorem Group.memWf.pinPage {g : Group} {page : Nat} (h : g.memWf) : (g.pinPage page).memWf := by
  unfold Group.pinPage
  split <;> exact h

theorem execRefill_memWf {gid page line : Nat} {s : State} (h : s.memWf) : (execRefill gid page line s).memWf := by
  unfold execRefill
  extract_lets g
  split
  · refine .next ?_
    refine h.modGroup fun _ hg1 => ?_
    extract_lets g2
    have hg2 : g2.memWf := ⟨Memory.movePart_wf _ _ hg1.scr, hg1.backing, hg1.slices, hg1.shadows⟩
    split
    · exact hg2
    · exact hg2.pinPage
  · exact .next h

theorem Group.memWf.unpin {g : Group} {page : Nat} {drop : Bool} (h : g.memWf) : (g.unpin page drop).memWf := by
  unfold Group.unpin
  refine ⟨Memory.eraseSpan_wf _ _ _ h.scr, ?_, h.slices, h.shadows⟩
  split
  · exact Memory.eraseSpan_wf _ _ _ h.backing
  · exact Memory.movePart_wf _ _ h.backing

theorem State.memWf.refillWanted {s : State} {gid : Nat} (h : s.memWf) : (s.refillWanted gid).memWf := by
  unfold State.refillWanted
  refine h.foldl fun _ _ ht => ?_
  split
  · exact ht.startRefill
  · exact ht

theorem State.memWf.dropWakes {s : State} {g : Group} {page : Nat} (h : s.memWf) : (s.dropWakes g page).memWf := h.foldl fun _ _ ht => ht.wake

theorem execUnpinWriteback_memWf {gid page : Nat} {s : State} (h : s.memWf) : (execUnpinWriteback gid page s).memWf := by
  unfold execUnpinWriteback
  extract_lets g
  split
  · split
    · exact .next h
    · extract_lets s1
      have hs1 : s1.memWf := by
        unfold s1
        refine .modGroup ?_ fun _ hg1 => hg1.unpin
        split
        · exact h.dropWakes
        · exact h
      refine .next ?_
      split
      · exact hs1.startRefill
      · exact hs1
  · exact .next h

theorem State.memWf.modQueue {s : State} {gid n : Nat} {f : Queue → Queue} (h : s.memWf) : (s.modQueue gid n f).memWf := h.modGroup fun _ hg => hg

theorem actQinit_memWf {c : Ctx} {s : State} (h : s.memWf) : (actQinit c s).1.memWf := by
  unfold actQinit
  extract_lets n base cfg len g q wide nprod plo allow entry cap
  split
  · exact h
  · split
    · exact h
    · split
      · exact h
      · split
        · exact h
        · split
          · exact h
          · exact h.modQueue

theorem State.memWf.tryPush {s : State} {gid n k : Nat} {words : List Word} {poison : List (Option Dword)} (h : s.memWf) :
    (s.tryPush gid n k words poison).1.memWf := by
  unfold State.tryPush
  extract_lets q
  split
  · exact h
  · split
    · rename_i e
      exact h.absentAmong.of_pair e
    · rename_i e
      extract_lets s2
      have hs2 : s2.memWf := (h.absentAmong.of_pair e).modGroup fun _ hg => ⟨Memory.storeUnits_wf _ _ hg.scr, hg.backing, hg.slices, hg.shadows⟩
      exact hs2

theorem State.memWf.tryPush_some {s : State} {gid n k : Nat} {words : List Word} {poison : List (Option Dword)} (h : s.memWf) :
    ∀ t ∈ (s.tryPush gid n k words poison).2, t.memWf := by
  unfold State.tryPush
  extract_lets q
  split
  · exact forall_mem_none
  · split
    · exact forall_mem_none
    · rename_i e
      extract_lets s2
      have hs2 : s2.memWf := (h.absentAmong.of_pair e).modGroup fun _ hg => ⟨Memory.storeUnits_wf _ _ hg.scr, hg.backing, hg.slices, hg.shadows⟩
      exact forall_mem_some hs2.modQueue

theorem State.memWf.tryPop {s : State} {r : SliceRef} {n dst regs : Nat} {eff : Mask} (h : s.memWf) :
    (s.tryPop r n dst regs eff).1.memWf := by
  unfold State.tryPop
  extract_lets g q lanes owed
  split
  · exact h
  · split
    · rename_i e
      exact h.absentAmong.of_pair e
    · rename_i e
      exact .modQueue ((h.absentAmong.of_pair e).modSlice fun _ hsl => hsl)

theorem State.memWf.tryPop_some {s : State} {r : SliceRef} {n dst regs : Nat} {eff : Mask} (h : s.memWf) :
    ∀ t ∈ (s.tryPop r n dst regs eff).2, t.memWf := by
  unfold State.tryPop
  extract_lets g q lanes owed
  split
  · exact forall_mem_none
  · split
    · exact forall_mem_none
    · rename_i e
      exact forall_mem_some (.modQueue ((h.absentAmong.of_pair e).modSlice fun _ hsl => hsl))

theorem actQpush_memWf {c : Ctx} {s : State} (h : s.memWf) : (actQpush c s).1.memWf := by
  unfold actQpush
  extract_lets n w64 g sl k a lane words poison
  split
  · rename_i e
    exact .of_pair_some h.tryPush_some e
  · rename_i e
    exact (h.tryPush.of_pair e).modQueue

theorem actQpop_memWf {c : Ctx} {s : State} (h : s.memWf) : (actQpop c s).1.memWf := by
  unfold actQpop
  extract_lets n d regs s1
  have hs1 : s1.memWf := h.modSlice fun _ hsl => hsl.makeEmptyN
  split
  · rename_i e
    refine .of_pair_some ?_ e
    split
    · exact hs1.tryPop_some
    · exact forall_mem_none
  · rename_i e
    refine .modQueue ?_
    refine .of_pair ?_ e
    split
    · exact hs1.tryPop
    · exact hs1

theorem actQpeek_memWf {c : Ctx} {s : State} (h : s.memWf) : (actQpeek c s).1.memWf := by
  unfold actQpeek
  extract_lets n w64 k g q x
  split
  · exact h.modSlice fun _ hsl => hsl.setMask
  · split
    · rename_i e
      exact h.absentAmong.of_pair e
    · rename_i e
      exact (h.absentAmong.of_pair e).modSlice fun _ hsl => .setMask (hsl.foldl fun _ _ hx1 => hx1.setLanesP)

theorem atBarrier_memWf {c : Ctx} {s : State} {f : Nat → State → State × Fate}
    (h : s.memWf) (hf : ∀ (i : Nat) (t : State), t.memWf → (f i t).1.memWf) :
    (atBarrier c s f).1.memWf := by
  unfold atBarrier
  extract_lets a
  split
  · exact h
  · split
    · rename_i e
      exact h.absentAmong.of_pair e
    · rename_i e
      exact hf _ _ (h.absentAmong.of_pair e)

theorem actBinit_memWf {c : Ctx} {s : State} (h : s.memWf) : (actBinit c s).1.memWf := atBarrier_memWf h fun _ _ ht => ht.initBarrier

theorem actBexp_memWf {c : Ctx} {s : State} (h : s.memWf) : (actBexp c s).1.memWf := by
  unfold actBexp
  refine atBarrier_memWf h fun _ _ ht => ?_
  split
  · exact ht
  · exact ht.setBarrier

theorem actBarv_memWf {c : Ctx} {s : State} (h : s.memWf) : (actBarv c s).1.memWf := by
  unfold actBarv
  refine atBarrier_memWf h fun _ _ ht => ?_
  split <;> rename_i e <;> exact ht.arriveAt.of_pair e

theorem parkOrCancel_memWf {c : Ctx} {s : State} {w : Wait} (h : s.memWf) : (parkOrCancel c s w).1.memWf := by
  unfold parkOrCancel
  split <;> exact h

theorem actBwait_memWf {c : Ctx} {s : State} (h : s.memWf) : (actBwait c s).1.memWf := by
  unfold actBwait
  refine atBarrier_memWf h fun _ _ ht => ?_
  split
  · rename_i e
    exact ht.tryBwait _ e
  · exact parkOrCancel_memWf ht

theorem actCseal_memWf {c : Ctx} {s : State} (h : s.memWf) : (actCseal c s).1.memWf := by
  unfold actCseal
  extract_lets d
  split
  · rename_i e
    exact h.tryCseal _ e
  · exact parkOrCancel_memWf h

theorem actCwait_memWf {c : Ctx} {s : State} (h : s.memWf) : (actCwait c s).1.memWf := by
  unfold actCwait
  extract_lets n
  split
  · rename_i e
    exact h.tryCwait _ e
  · exact parkOrCancel_memWf h

theorem State.memWf.releaseGsync {s : State} {gid : Nat} (h : s.memWf) : (s.releaseGsync gid).memWf := by
  unfold State.releaseGsync
  extract_lets g s1
  have hs1 : s1.memWf := by
    unfold s1
    refine h.foldl fun _ _ ht => ?_
    split
    · exact ht.resume
    · exact ht
  exact hs1.modGroup fun _ hg1 => hg1

theorem runGsync_memWf {cs : List Ctx} {s : State} (h : s.memWf) : (runGsync cs s).s.memWf := by
  unfold runGsync
  split
  · exact h
  · extract_lets g trapped now full s1
    have hs1 : s1.memWf := by
      unfold s1
      split
      · exact h.releaseGsync
      · exact h
    exact hs1

/-! ### Floating-point lanes -/

theorem laneFloat_memWf {f : Rounding → Num → Num → Num → Flagged} {c : Ctx} {s : State} (h : s.memWf) : (laneFloat f c s).1.memWf := by
  unfold laneFloat
  exact laneResult_memWf h

theorem actChoose_memWf {less : Bool} {c : Ctx} {s : State} (h : s.memWf) : (actChoose less c s).1.memWf := by
  unfold actChoose
  exact laneResult_memWf h

theorem actFcmp_memWf {c : Ctx} {s : State} (h : s.memWf) : (actFcmp c s).1.memWf := by
  unfold actFcmp
  extract_lets n F sl k cond a b s1
  have hs1 : s1.memWf := writeMaskLanes_memWf h
  split
  · exact hs1
  · exact hs1.raiseFlags

theorem actFclass_memWf {c : Ctx} {s : State} (h : s.memWf) : (actFclass c s).1.memWf := by
  unfold actFclass
  exact laneResult_memWf h

theorem actFscale_memWf {c : Ctx} {s : State} (h : s.memWf) : (actFscale c s).1.memWf := by
  unfold actFscale
  exact laneResult_memWf h

theorem actFdot_memWf {k : Nat} {c : Ctx} {s : State} (h : s.memWf) : (actFdot k c s).1.memWf := by
  unfold actFdot
  exact laneResult_memWf h

theorem actIdot4_memWf {c : Ctx} {s : State} (h : s.memWf) : (actIdot4 c s).1.memWf := by
  unfold actIdot4
  exact laneResult_memWf h

/-! ### Conversions -/

theorem actCvt_memWf {c : Ctx} {s : State} (h : s.memWf) : (actCvt c s).1.memWf := by
  unfold actCvt
  exact laneResult_memWf h

theorem writeBlock_memWf {n : Nat} {x : Lanes Converted} {c : Ctx} {s : State} (h : s.memWf) : (writeBlock n x c s).memWf := by
  unfold writeBlock
  extract_lets d s1
  have hs1 : s1.memWf := h.modSlice fun _ hsl => hsl.foldl fun _ _ hx1 => hx1.setLanes
  split
  · exact hs1
  · exact hs1.raiseFlags

theorem deliverConverted_memWf {dst n : Nat} {x : Lanes Converted} {c : Ctx} {s : State} (h : s.memWf) : (deliverConverted dst n x c s).1.memWf := by
  unfold deliverConverted
  extract_lets met
  split
  · exact h
  · exact writeBlock_memWf h

theorem actCvtn_memWf {c : Ctx} {s : State} (h : s.memWf) : (actCvtn c s).1.memWf := by
  unfold actCvtn
  extract_lets src dst sl
  split <;> exact deliverConverted_memWf h

theorem actPackbx_memWf {c : Ctx} {s : State} (h : s.memWf) : (actPackbx c s).1.memWf := writeBlock_memWf h

theorem actUnpkbx_memWf {c : Ctx} {s : State} (h : s.memWf) : (actUnpkbx c s).1.memWf := writeBlock_memWf h

/-! ### Copies -/

theorem State.memWf.postCopy {s : State} {c : Ctx} {k : Copy} (h : s.memWf) : (s.postCopy c k).1.memWf := by
  unfold State.postCopy
  extract_lets g s1 s2
  have hs1 : s1.memWf := h
  have hs2 : s2.memWf := by
    unfold s2
    split
    · exact hs1.acquire
    · exact hs1
  split
  · exact hs2
  · exact hs2.modCore

theorem actCpy_memWf {c : Ctx} {s : State} (h : s.memWf) : (actCpy c s).1.memWf := by
  unfold actCpy
  extract_lets f g two xi b sh cvt dlen fe al bar dst src size xs x
  split
  · exact h
  · split
    · exact h
    · exact h.postCopy

theorem actCpyg_memWf {c : Ctx} {s : State} (h : s.memWf) : (actCpyg c s).1.memWf := by
  unfold actCpyg
  extract_lets f g n e fe bar dst src list listed srcs xs
  split
  · rename_i e
    exact h.absentAmong.of_pair e
  · rename_i e
    split
    · exact h.absentAmong.of_pair e
    · exact (h.absentAmong.of_pair e).postCopy

theorem actCpyr_memWf {c : Ctx} {s : State} (h : s.memWf) : (actCpyr c s).1.memWf := by
  unfold actCpyr
  extract_lets f g sh bar dst src n xs x
  split
  · exact h
  · exact h.postCopy

theorem actMcast_memWf {c : Ctx} {s : State} (h : s.memWf) : (actMcast c s).1.memWf := by
  unfold actMcast
  extract_lets f g cw b a d mask first fe barAddr bar badCores xs x
  split
  · exact h
  · split
    · exact h
    · split
      · exact h
      · exact h.postCopy

theorem State.memWf.modCopy {s : State} {at_ : CoreRef} {id : Nat} {f : Copy → Copy} (h : s.memWf) : (s.modCopy at_ id f).memWf := h.modCore

theorem State.memWf.removeCopy {s : State} {at_ : CoreRef} {id : Nat} (h : s.memWf) : (s.removeCopy at_ id).memWf := h.modCore

theorem State.memWf.addReport {s : State} {c : Copy} {x : CopyReport} (h : s.memWf) : (s.addReport c x).memWf := h.modSlice fun _ hsl => hsl

theorem State.memWf.endCopy {s : State} {at_ : CoreRef} {c : Copy} (h : s.memWf) : (s.endCopy at_ c).memWf := by
  unfold State.endCopy
  extract_lets s1
  have hs1 : s1.memWf := h.removeCopy
  split
  · exact hs1.addReport
  · exact hs1

theorem State.memWf.faultCopy {s : State} {at_ : CoreRef} {c : Copy} {a : Dword} {kind : Nat} (h : s.memWf) : (s.faultCopy at_ c a kind).memWf := by
  unfold State.faultCopy
  extract_lets s1 s2
  have hs1 : s1.memWf := h.removeCopy
  have hs2 : s2.memWf := by
    unfold s2
    split
    · exact hs1.poisonBarrier
    · exact hs1
  exact hs2.addReport

theorem State.memWf.engineSpan {s : State} {c : CoreRef} {part unitId : Nat} {va : Dword} {need : Need} {kind fuel n : Nat} (h : s.memWf) :
    (s.engineSpan c part unitId va need kind fuel n).1.memWf := by
  induction fuel generalizing s va n with
  | zero => exact h
  | succ fuel ih =>
    unfold State.engineSpan
    split
    · exact h
    · extract_lets here
      split
      · rename_i e
        extract_lets s2
        have hs2 : s2.memWf := (h.reach.of_pair e).readHome
        split <;> rename_i e <;> exact (ih hs2).of_pair e
      · rename_i e
        extract_lets s2
        have hs2 : s2.memWf := (h.reach.of_pair e).readHome
        split <;> rename_i e <;> exact (ih hs2).of_pair e
      · rename_i e
        exact h.reach.of_pair e

theorem State.memWf.sidePlaces {s : State} {c : Copy} {sp : Space} {a n : Nat} {need : Need} {kind : Nat} (h : s.memWf) :
    (s.sidePlaces c sp a n need kind).1.memWf := by
  unfold State.sidePlaces
  extract_lets g
  split
  · split
    · exact h
    · split <;> rename_i e2 <;> exact h.engineSpan.of_pair e2
  · split <;> exact h

theorem State.memWf.writePlaces {s : State} {by_ : SliceRef} {ps : List (Place × Nat)} {xs : List (Byte × Bool)} (h : s.memWf) :
    (s.writePlaces by_ ps xs).memWf := by
  induction ps generalizing s xs with
  | nil => exact h
  | cons p ps ih =>
    unfold State.writePlaces
    exact ih h.writeMarked

theorem State.memWf.setBits {s : State} {by_ : SliceRef} {ps : List (Place × Nat)} {fs : List Bool} (h : s.memWf) : (s.setBits by_ ps fs).memWf :=
  h.foldl fun _ _ ht => ht.setFullPlace

theorem State.memWf.copyWaits {s : State} {c : Copy} {gid : Nat} {lines : List Nat} {reads : Bool} (h : s.memWf) :
    (s.copyWaits c gid lines reads).1.memWf := by
  unfold State.copyWaits
  split
  · exact h.startRefill
  · exact h

theorem State.memWf.stopCopy {s : State} {at_ : CoreRef} {c : Copy} {a : Dword} {r : Reach} {code : Nat} (h : s.memWf) :
    (s.stopCopy at_ c a r code).memWf := by
  unfold State.stopCopy
  split
  · exact h.modCopy
  · exact h.modCopy
  · exact h.faultCopy
  · exact h.faultCopy

theorem State.memWf.countPiece {s : State} {at_ : CoreRef} {c : Copy} {p n : Nat} {flags : Flags} (h : s.memWf) :
    (s.countPiece at_ c p n flags).memWf := by
  unfold State.countPiece
  extract_lets c1 s1 s2
  have hs1 : s1.memWf := h.modCopy
  have hs2 : s2.memWf := by
    unfold s2
    split
    · exact hs1.endCopy
    · exact hs1
  split
  · split
    · rename_i e
      exact (hs2.arriveAt.of_pair e).addReport
    · rename_i e
      exact hs2.arriveAt.of_pair e
  · exact hs2

theorem State.memWf.recallHosts {s : State} {ps : List (Place × Nat)} (h : s.memWf) : (s.recallHosts ps).memWf := h.foldl fun _ _ ht => ht.snoop

theorem State.memWf.movePiece {s : State} {at_ : CoreRef} {c : Copy} {p row off n : Nat} (h : s.memWf) : (s.movePiece at_ c p row off n).memWf := by
  unfold State.movePiece
  extract_lets g src form need
  split
  · rename_i e
    exact .next (h.sidePlaces.of_pair e).stopCopy
  · rename_i e1
    split
    · rename_i e2
      exact .next ((h.sidePlaces.of_pair e1).sidePlaces.of_pair e2).stopCopy
    · rename_i e
      extract_lets s3 x2 marks s4 s5
      have hs3 : s3.memWf := by
        unfold s3
        split
        · exact ((h.sidePlaces.of_pair e1).sidePlaces.of_pair e).recallHosts
        · exact (h.sidePlaces.of_pair e1).sidePlaces.of_pair e
      have hs4 : s4.memWf := hs3.writePlaces
      have hs5 : s5.memWf := by
        unfold s5
        split
        · exact hs4.setBits
        · exact hs4.setBits
        · exact hs4
      split
      · exact .next hs3
      · exact .next hs5.countPiece

theorem State.memWf.landPiece {s : State} {at_ : CoreRef} {c : Copy} {p : Nat} (h : s.memWf) : (s.landPiece at_ c p).memWf := by
  unfold State.landPiece
  split
  · exact .next h
  · split
    · exact .next h
    · extract_lets lines
      split
      · rename_i e
        exact .next (h.copyWaits.of_pair e)
      · rename_i e
        split
        · rename_i e1
          exact .next ((h.copyWaits.of_pair e).copyWaits.of_pair e1)
        · rename_i e1
          exact ((h.copyWaits.of_pair e).copyWaits.of_pair e1).movePiece

theorem State.memWf.sibling {s : State} {g : Group} {core : Nat} (h : s.memWf) : ∀ x ∈ s.sibling g core, x.memWf :=
  fun x hx => h.groups x (List.mem_of_find?_eq_some hx)

theorem State.memWf.acceptReceiver {s : State} {at_ : CoreRef} {c : Copy} {j : Nat} (h : s.memWf) : (s.acceptReceiver at_ c j).memWf := by
  unfold State.acceptReceiver
  split <;> exact h.modCopy

theorem State.memWf.deliverPiece {s : State} {at_ : CoreRef} {c : Copy} {j gid p : Nat} (h : s.memWf) : (s.deliverPiece at_ c j gid p).memWf := by
  unfold State.deliverPiece
  split
  · exact h
  · split
    · exact h
    · extract_lets a
      split
      · rename_i e
        exact h.copyWaits.of_pair e
      · rename_i e
        split
        · rename_i e1
          exact (h.copyWaits.of_pair e).copyWaits.of_pair e1
        · rename_i e1
          extract_lets rd marks s3 s4 s5
          have hs3 : s3.memWf := ((h.copyWaits.of_pair e).copyWaits.of_pair e1).writePlaces
          have hs4 : s4.memWf := by
            unfold s4
            split
            · exact hs3.setBits
            · exact hs3.setBits
            · exact hs3
          have hs5 : s5.memWf := by
            unfold s5
            split
            · exact hs4.arriveAt
            · exact hs4
          exact hs5.modCopy

theorem State.memWf.ownReceiver {s : State} {at_ : CoreRef} {c : Copy} {j : Nat} (h : s.memWf) : (s.ownReceiver at_ c j).memWf := by
  unfold State.ownReceiver
  extract_lets s1 s2
  have hs1 : s1.memWf := by
    unfold s1
    split
    · exact h.foldl fun _ _ ht => ht.fillHeld
    · exact h
  have hs2 : s2.memWf := by
    unfold s2
    split
    · exact hs1.arriveAt
    · exact hs1
  exact hs2.modCopy

theorem State.memWf.judgeMcast {s : State} {at_ : CoreRef} {id : Nat} (h : s.memWf) : (s.judgeMcast at_ id).memWf := by
  unfold State.judgeMcast
  split
  · exact h
  · extract_lets c1 s1 open_ s2
    have hs1 : s1.memWf := h.modCopy
    have hs2 : s2.memWf := by
      unfold s2
      split
      · exact hs1.modHeld fun _ hx2 => Memory.store_wf _ _ _ _ hx2
      · exact hs1
    clear_value open_
    split
    · exact hs2.removeCopy
    · split
      · exact hs1.ownReceiver
      · exact hs1
    · exact hs1

theorem State.memWf.landMcast {s : State} {at_ : CoreRef} {c : Copy} {p : Nat} (h : s.memWf) : (s.landMcast at_ c p).memWf := by
  unfold State.landMcast
  extract_lets s1
  have hs1 : s1.memWf := by
    unfold s1
    split
    · split
      · exact h.acceptReceiver
      · exact h
    · split
      · split
        · exact h.deliverPiece
        · exact h
      · exact h
  exact hs1.judgeMcast.judgeMcast

theorem execCopyResume_memWf {at_ : CoreRef} {id : Nat} {s : State} (h : s.memWf) : (execCopyResume at_ id s).memWf := by
  unfold execCopyResume
  split
  · split
    · refine .next ?_
      split
      · exact h.faultCopy
      · split
        · exact h.modCopy
        · exact h
    · exact .next h
  · exact .next h

end Sys2Proof.Machine
end

section
/-! The matrix engine and the Mint: each operation keeps the canonical form of the memories. -/

namespace Sys2Proof.Machine

/-! ### The matrix engine -/

theorem readOnce_memWf {c : Ctx} {s : State} {glb : Bool} {a : Dword} {n align : Nat} (h : s.memWf) : (readOnce c s glb a n align).1.memWf := by
  unfold readOnce
  extract_lets g
  split
  · split
    · exact h
    · split
      · exact h
      · split <;> rename_i e6 <;> exact h.readGlb.of_pair e6
  · split
    · exact h
    · split
      · exact h
      · split
        · rename_i e
          exact h.absentAmong.of_pair e
        · rename_i e
          split <;> exact h.absentAmong.of_pair e

theorem State.memWf.enqueueMatrix {s : State} {c : Ctx} {op : MatrixOp} (h : s.memWf) : (s.enqueueMatrix c op).memWf := h.modCore

theorem State.memWf.postMatrix {s : State} {c : Ctx} {op : MatrixOp} (h : s.memWf) : (s.postMatrix c op).1.memWf :=
  h.enqueueMatrix.modSlice fun _ hsl => hsl

theorem issuePost_memWf {op : Nat} {p : List Prefix} {w : WForm} {act : Ctx → State → State × Fate} {s : State}
    (h : s.memWf) (hact : ∀ (c : Ctx) (t : State), t.memWf → (act c t).1.memWf) :
    (issuePost op p w act s).memWf := issue_memWf h fun _ _ ht => eachSlice_memWf hact ht

theorem actPost_memWf {f : Ctx → State → MatrixOp} {c : Ctx} {s : State} (h : s.memWf) : (actPost f c s).1.memWf := h.postMatrix

theorem actMlay_memWf {c : Ctx} {s : State} (h : s.memWf) : (actMlay c s).1.memWf := by
  unfold actMlay
  extract_lets f glb a add
  split
  · rename_i e
    exact (readOnce_memWf h).of_pair e
  · rename_i e
    extract_lets r x1
    split
    · exact (readOnce_memWf h).of_pair e
    · split
      · exact (readOnce_memWf h).of_pair e
      · split
        · exact (readOnce_memWf h).of_pair e
        · exact ((readOnce_memWf h).of_pair e).postMatrix

theorem actMmask_memWf {c : Ctx} {s : State} (h : s.memWf) : (actMmask c s).1.memWf := by
  unfold actMmask
  extract_lets f glb a bad
  split
  · rename_i e
    exact (readOnce_memWf h).of_pair e
  · rename_i e
    extract_lets n
    split
    · exact (readOnce_memWf h).of_pair e
    · split
      · exact (readOnce_memWf h).of_pair e
      · split
        · rename_i e1
          exact (readOnce_memWf ((readOnce_memWf h).of_pair e)).of_pair e1
        · rename_i e1
          extract_lets ws
          split
          · exact (readOnce_memWf ((readOnce_memWf h).of_pair e)).of_pair e1
          · split
            · exact (readOnce_memWf ((readOnce_memWf h).of_pair e)).of_pair e1
            · exact ((readOnce_memWf ((readOnce_memWf h).of_pair e)).of_pair e1).postMatrix

theorem actMst_memWf {c : Ctx} {s : State} (h : s.memWf) : (actMst c s).1.memWf := by
  unfold actMst
  extract_lets f a b
  split
  · exact h
  · exact h.postMatrix

theorem actMldc_memWf {c : Ctx} {s : State} (h : s.memWf) : (actMldc c s).1.memWf := by
  unfold actMldc
  extract_lets f a b
  split
  · exact h
  · exact h.postMatrix

theorem actMmam_memWf {c : Ctx} {s : State} (h : s.memWf) : (actMmam c s).1.memWf := by
  unfold actMmam
  extract_lets f a
  split
  · exact h
  · split
    · exact h
    · exact h.postMatrix

theorem actMgather_memWf {c : Ctx} {s : State} (h : s.memWf) : (actMgather c s).1.memWf := by
  unfold actMgather
  extract_lets f g a n
  split
  · exact h
  · split
    · exact h
    · exact h.postMatrix

theorem actStc_memWf {c : Ctx} {s : State} (h : s.memWf) : (actStc c s).1.memWf := by
  unfold actStc
  extract_lets f g n u q o ext
  split
  · exact h
  · split
    · exact h
    · exact h.postMatrix

theorem actMaccr_memWf {c : Ctx} {s : State} (h : s.memWf) : (actMaccr c s).1.memWf := by
  unfold actMaccr
  extract_lets f sl row col bad s1
  have hs1 : s1.memWf := h.modSlice fun _ hsl1 => hsl1.makeEmptyN
  split
  · exact h
  · exact hs1.enqueueMatrix

theorem State.memWf.finishBatch {s : State} {gid : Nat} {b : MatrixBatch} (h : s.memWf) : (s.finishBatch gid b).memWf := by
  unfold State.finishBatch
  split
  · exact h
  · split
    · exact h.poisonBarrier
    · exact h.arriveAt

theorem State.memWf.tryMbatch {s : State} {r : SliceRef} {eff : Mask} {barrier : Option (Nat × Nat × Nat)} {d : Option Nat} (h : s.memWf) :
    ∀ x ∈ s.tryMbatch r eff barrier d, x.1.memWf := by
  unfold State.tryMbatch
  extract_lets m x b s1
  have hs1 : s1.memWf := by
    unfold s1
    refine h.modSlice fun _ hsl => ?_
    extract_lets sl1
    have hsl1 : sl1.memWf := hsl
    split
    · exact hsl1.setLanes
    · exact hsl1
  split
  · exact forall_mem_none
  · refine forall_mem_some ?_
    split
    · exact hs1.finishBatch
    · exact hs1

theorem State.memWf.tryMwait {s : State} {r : SliceRef} {a : Nat} {eff : Mask} (h : s.memWf) : ∀ x ∈ s.tryMwait r a eff, x.1.memWf := by
  unfold State.tryMwait
  extract_lets m upTo covered s1
  have hs1 : s1.memWf := h.foldl fun _ _ ht => ht.raiseFlags
  split
  · exact forall_mem_none
  · split <;> exact forall_mem_some (hs1.modSlice fun _ hsl => hsl.frame rfl)

theorem actMbatch_memWf {c : Ctx} {s : State} (h : s.memWf) : (actMbatch c s).1.memWf := by
  unfold actMbatch
  extract_lets f d go
  have hgo : ∀ (x : Option (Nat × Nat × Nat)) (t : State), t.memWf → (go x t).1.memWf := by
    unfold go
    intro _ _ ht
    split
    · rename_i e
      exact ht.tryMbatch _ e
    · exact parkOrCancel_memWf ht
  split
  · exact atBarrier_memWf h fun _ _ ht => hgo _ _ ht
  · exact hgo _ _ h

theorem actMwait_memWf {c : Ctx} {s : State} (h : s.memWf) : (actMwait c s).1.memWf := by
  unfold actMwait
  extract_lets a age
  split
  · exact h
  · split
    · rename_i e
      exact h.tryMwait _ e
    · exact parkOrCancel_memWf h

theorem Executed.memWf.mma {m : Matrix} {scr : Memory} {d src off : Nat} (h : scr.wf = true) : (m.mma scr d src off).memWf := by
  unfold Matrix.mma
  split
  · exact .failed _ _
  · split
    · exact .failed _ _
    · split
      · exact .failed _ _
      · split
        · exact .failed _ _
        · exact .done h

theorem Matrix.storeTile_wf {m : Matrix} {scr : Memory} {d fmt a : Nat} {stride : Int} {int : Bool} {rm : Rounding} {satB : Bool}
    (h : scr.wf = true) :
    (m.storeTile scr d fmt a stride int rm satB).1.wf = true := by
  refine Memory.foldl_fst_wf h fun x _ r hx => ?_
  refine Memory.foldl_wf (Memory.store_wf _ _ _ _ hx) fun y c hy => ?_
  dsimp only
  split
  · exact Memory.addPoison_wf _ _ _ hy
  · exact hy

theorem stcOn_wf {scr : Memory} {axis : Nat} {f64 : Bool} {u q o : Nat} {rm : Rounding} (h : scr.wf = true) :
    (stcOn scr axis f64 u q o rm).1.wf = true := by
  unfold stcOn
  extract_lets _ _ _ _ _ _ _ outs m
  have hm : m.wf = true := Memory.store_wf _ _ _ _ h
  clear_value m outs
  exact Memory.foldl_wf hm fun _ _ hx => Memory.addPoison_wf _ _ _ hx

theorem Executed.memWf.loadStage {m : Matrix} {scr : Memory} {gid x : Nat} {g : LayoutRecord} {rows : List Nat} {indices : Option (Nat × Nat)}
    (h : scr.wf = true) :
    (m.loadStage scr gid x g rows indices).memWf := by
  unfold Matrix.loadStage
  split
  · exact .failed _ _
  · exact .done h

theorem Matrix.run_memWf {m : Matrix} {scr : Memory} {gid : Nat} {op : MatrixOp} (h : scr.wf = true) : (m.run scr gid op).memWf := by
  unfold Matrix.run
  split
  · exact .done h
  · split
    · exact .failed _ _
    · split
      · exact .failed _ _
      · split
        · exact .failed _ _
        · exact .done h
  · split
    · exact .failed _ _
    · split
      · exact .failed _ _
      · exact .loadStage h
  · split
    · exact .failed _ _
    · extract_lets rows
      split
      · exact .failed _ _
      · exact .loadStage h
  · exact .done h
  · exact .mma h
  · split
    · exact .failed _ _
    · exact .done h
  · exact .done h
  · exact .done (Matrix.storeTile_wf h)
  · exact .done h
  · exact .done h
  · exact .done (stcOn_wf h)
  · exact .done h

theorem State.memWf.endMatrixCommand {s : State} {c : MatrixCommand} {flags : Flags} {error : Option Nat} (h : s.memWf) :
    (s.endMatrixCommand c flags error).memWf := by
  unfold State.endMatrixCommand
  extract_lets r upd s1
  have hs1 : s1.memWf := h.modSlice fun _ hsl => hsl
  split
  · split
    · exact hs1.finishBatch
    · exact hs1
  · exact hs1

theorem State.memWf.deliverAccr {s : State} {c : MatrixCommand} {m : Matrix} {t fmt dst : Nat} {int : Bool} {rows cols : List Nat} {rm : Rounding} {satB : Bool}
    (h : s.memWf) :
    (s.deliverAccr c m t fmt dst int rows cols rm satB).memWf := by
  unfold State.deliverAccr
  extract_lets r x lanes put s1
  have hput : ∀ (sl' : Slice), sl'.memWf → ∀ (i' : Nat), (put sl' i').memWf := fun _ hsl' _ => hsl'.deliver
  have hs1 : s1.memWf := by
    unfold s1
    refine h.modSlice fun _ hsl => ?_
    split
    · exact hsl
    · exact hsl.foldl fun _ _ hx1 => hput _ hx1 _
  split
  · exact hs1
  · exact hs1.raiseFlags

theorem State.memWf.execMatrixHead {s : State} {at_ : CoreRef} {c : MatrixCommand} (h : s.memWf) : (s.execMatrixHead at_ c).memWf := by
  unfold State.execMatrixHead
  extract_lets k g pop
  have hg : g.memWf := h.group
  have hpop : ∀ (t : State), t.memWf → ∀ (x : Matrix), (pop t x).memWf := fun _ ht _ => ht.modCore
  split
  · rename_i e
    exact h.absentAmong.of_pair e
  · rename_i e
    split
    · exact (hpop _ (h.absentAmong.of_pair e) _).deliverAccr
    · split
      · exact h.absentAmong.of_pair e
      · exact (hpop _ (h.absentAmong.of_pair e) _).endMatrixCommand
      · rename_i e1
        exact .endMatrixCommand ((hpop _ (h.absentAmong.of_pair e) _).modGroup fun _ hg1 => ⟨Matrix.run_memWf hg.scr _ _ _ e1, hg1.backing, hg1.slices, hg1.shadows⟩)

theorem execMatrixCommandExecute_memWf {at_ : CoreRef} {s : State} (h : s.memWf) : (execMatrixCommandExecute at_ s).memWf := by
  unfold execMatrixCommandExecute
  split
  · exact .next h.execMatrixHead
  · exact .next h

/-! ### The Mint -/

theorem State.memWf.postMint {s : State} {c : Ctx} {op : MintOp} (h : s.memWf) : (s.postMint c op).1.memWf := h.modCore.modSlice fun _ hsl => hsl

theorem postMintAt_memWf {align n : Nat} {f : Nat → MintOp} {c : Ctx} {s : State} (h : s.memWf) : (postMintAt align n f c s).1.memWf := by
  unfold postMintAt
  extract_lets a
  split
  · exact h
  · split
    · exact h
    · exact h.postMint

theorem actMncpl_memWf {c : Ctx} {s : State} (h : s.memWf) : (actMncpl c s).1.memWf := by
  unfold actMncpl
  extract_lets a
  split
  · exact h
  · split
    · exact h
    · exact h.postMint

theorem actMnbias_memWf {c : Ctx} {s : State} (h : s.memWf) : (actMnbias c s).1.memWf := by
  unfold actMnbias
  extract_lets n a
  split
  · exact h
  · split
    · exact h
    · split
      · exact h
      · exact h.postMint

theorem postCoin_memWf {f : Nat → MintOp} {c : Ctx} {s : State} (h : s.memWf) : (postCoin f c s).1.memWf := by
  unfold postCoin
  extract_lets i
  split
  · exact h
  · exact h.postMint

theorem actMnclamp_memWf {c : Ctx} {s : State} (h : s.memWf) : (actMnclamp c s).1.memWf := by
  unfold actMnclamp
  split
  · exact postCoin_memWf h
  · exact postMintAt_memWf h

theorem actMnfree_memWf {c : Ctx} {s : State} (h : s.memWf) : (actMnfree c s).1.memWf := by
  unfold actMnfree
  split
  · exact postMintAt_memWf h
  · exact postCoin_memWf h
  · exact h.postMint

theorem actMnbeta_memWf {c : Ctx} {s : State} (h : s.memWf) : (actMnbeta c s).1.memWf := by
  unfold actMnbeta
  extract_lets b
  split
  · exact h.postMint
  · split
    · exact h
    · exact h.postMint

theorem actMnmode_memWf {c : Ctx} {s : State} (h : s.memWf) : (actMnmode c s).1.memWf := postMintAt_memWf h

theorem postCount_memWf {f : Nat → MintOp} {c : Ctx} {s : State} (h : s.memWf) : (postCount f c s).1.memWf := by
  unfold postCount
  extract_lets n
  split
  · exact h
  · exact h.postMint

theorem actMnread_memWf {c : Ctx} {s : State} (h : s.memWf) : (actMnread c s).1.memWf := by
  unfold actMnread
  split
  · rename_i e
    exact ((postMintAt_memWf h).of_pair e).modSlice fun _ hsl => hsl.makeEmpty
  · exact postMintAt_memWf h

theorem actMnstate_memWf {c : Ctx} {s : State} (h : s.memWf) : (actMnstate c s).1.memWf := postMintAt_memWf h

theorem State.memWf.tryMnwait {s : State} {r : SliceRef} {eff : Mask} (h : s.memWf) : ∀ x ∈ s.tryMnwait r eff, x.1.memWf := by
  unfold State.tryMnwait
  extract_lets sl s1
  have hs1 : s1.memWf := h.modSlice fun _ hsl1 => hsl1
  split
  · exact forall_mem_none
  · split <;> exact forall_mem_some hs1

theorem actMnwait_memWf {c : Ctx} {s : State} (h : s.memWf) : (actMnwait c s).1.memWf := by
  unfold actMnwait
  split
  · rename_i e
    exact h.tryMnwait _ e
  · exact parkOrCancel_memWf h

theorem State.memWf.publish {s : State} {at_ : CoreRef} {first : Bool} (h : s.memWf) : (s.publish at_ first).memWf := h

theorem State.memWf.openEpoch {s : State} {at_ : CoreRef} (h : s.memWf) : (s.openEpoch at_).memWf := .modCore h

theorem State.memWf.unsubscribe {s : State} {at_ : CoreRef} (h : s.memWf) : (s.unsubscribe at_).memWf := .modCore (h.foldl fun _ _ ht => ht.modCore)

theorem State.memWf.subscribe {s : State} {at_ : CoreRef} {table : List (Nat × Nat × Nat)} (h : s.memWf) : (s.subscribe at_ table).memWf := h.modCore

theorem State.memWf.endMint {s : State} {at_ : CoreRef} {c : MintCommand} (h : s.memWf) : (s.endMint at_ c).memWf :=
  h.modCore.modSlice fun _ hsl => hsl

theorem State.memWf.failMint {s : State} {at_ : CoreRef} {c : MintCommand} {last : Nat} {f : MintFailure} (h : s.memWf) :
    (s.failMint at_ c last f).memWf := by
  unfold State.failMint
  extract_lets s1 s2
  have hs1 : s1.memWf := h.modCore
  have hs2 : s2.memWf := by
    unfold s2
    refine hs1.modSlice fun _ hsl => ?_
    extract_lets sl1
    have hsl1 : sl1.memWf := by
      unfold sl1
      split
      · exact hsl.makeFull
      · exact hsl
    exact hsl1
  exact hs2.endMint

theorem State.memWf.mintFault {s : State} {at_ : CoreRef} {c : MintCommand} {code : Nat} {a : Dword} {extra : Nat} (h : s.memWf) :
    (s.mintFault at_ c code a extra).memWf := h.failMint

theorem State.memWf.modMint {s : State} {at_ : CoreRef} {f : Mint → Mint} (h : s.memWf) : (s.modMint at_ f).memWf := h.modCore

theorem State.memWf.endJoining {s : State} {at_ : CoreRef} (h : s.memWf) : (s.endJoining at_).memWf := by
  unfold State.endJoining
  split
  · exact h
  · split
    · exact h
    · extract_lets restart s1 s2
      have hs1 : s1.memWf := h.modMint
      have hs2 : s2.memWf := hs1.modMint
      split
      · exact hs2.mintFault
      · split
        · exact hs1.modMint.endMint
        · refine .endMint ?_
          refine .publish ?_
          refine .modMint ?_
          split
          · exact hs1.openEpoch
          · exact hs1

theorem State.memWf.join {s : State} {at_ : CoreRef} {j : Joining} {table : List (Nat × Nat × Nat)} (h : s.memWf) : (s.join at_ j table).memWf :=
  h.unsubscribe.subscribe.modMint.endJoining

theorem State.memWf.imageBytes {s : State} {at_ : CoreRef} {part unitId : Nat} {a : Dword} {n : Nat} (h : s.memWf) :
    (s.imageBytes at_ part unitId a n).1.memWf := by
  unfold State.imageBytes
  split
  · rename_i e
    exact h.engineSpan.of_pair e
  · rename_i e
    split <;> exact h.engineSpan.of_pair e

theorem State.memWf.readImage {s : State} {at_ : CoreRef} {part unitId : Nat} {a : Dword} (h : s.memWf) :
    (s.readImage at_ part unitId a).1.memWf := by
  unfold State.readImage
  split
  · rename_i e
    exact h.imageBytes.of_pair e
  · rename_i e1
    extract_lets w h1
    split
    · exact h.imageBytes.of_pair e1
    · split
      · rename_i e2
        exact (h.imageBytes.of_pair e1).imageBytes.of_pair e2
      · rename_i e3
        extract_lets dies
        split <;> exact (h.imageBytes.of_pair e1).imageBytes.of_pair e3

theorem State.memWf.runMncpl {s : State} {at_ : CoreRef} {c : MintCommand} {a : Dword} (h : s.memWf) : (s.runMncpl at_ c a).memWf := by
  unfold State.runMncpl
  extract_lets g lose
  have hlose : ∀ (t : State), t.memWf → (lose t).memWf := fun _ ht => ht.modMint
  split
  · rename_i e
    exact (h.readImage.of_pair e).modMint
  · rename_i e
    exact (h.readImage.of_pair e).modMint
  · rename_i e
    exact (hlose _ (h.readImage.of_pair e)).mintFault
  · rename_i e
    exact (hlose _ (h.readImage.of_pair e)).mintFault
  · rename_i e
    exact (hlose _ (h.readImage.of_pair e)).mintFault
  · rename_i e
    extract_lets x1 s2
    have hs2 : s2.memWf := (h.readImage.of_pair e).modMint
    split
    · exact hs2.join
    · exact hs2.modMint.endMint

theorem State.memWf.runMnbias {s : State} {at_ : CoreRef} {c : MintCommand} {a n : Nat} (h : s.memWf) : (s.runMnbias at_ c a n).memWf := by
  unfold State.runMnbias
  extract_lets scr bs bsc
  split
  · exact h.mintFault
  · exact h.modMint.endMint

theorem State.memWf.runMnmode {s : State} {at_ : CoreRef} {c : MintCommand} {wn ws wc : Bool} {a : Nat} (h : s.memWf) :
    (s.runMnmode at_ c wn ws wc a).memWf := by
  unfold State.runMnmode
  extract_lets scr m w0 w1 w
  split
  · exact h.mintFault
  · split
    · exact h.mintFault
    · split
      · exact h.join
      · refine .endMint ?_
        refine .modMint ?_
        split
        · exact h.unsubscribe
        · exact h

theorem State.memWf.runMnread {s : State} {at_ : CoreRef} {c : MintCommand} {a d : Nat} (h : s.memWf) : (s.runMnread at_ c a d).memWf := by
  unfold State.runMnread
  extract_lets m counts s1 lanes s2
  clear_value counts
  have hs1 : s1.memWf := h.modGroup fun _ hg => ⟨Memory.store_wf _ _ _ _ hg.scr, hg.backing, hg.slices, hg.shadows⟩
  have hs2 : s2.memWf := by
    unfold s2
    refine hs1.modSlice fun _ hsl => ?_
    split
    · exact hsl
    · exact hsl.foldl fun _ _ hx => hx.deliver
  split
  · exact h.mintFault
  · exact hs2.modMint.endMint

theorem State.memWf.resetMint {s : State} {at_ : CoreRef} (h : s.memWf) : (s.resetMint at_).memWf := h.unsubscribe.modMint

theorem State.memWf.startSweeps {s : State} {at_ : CoreRef} {c : MintCommand} {n : Nat} (h : s.memWf) : (s.startSweeps at_ c n).memWf := by
  unfold State.startSweeps
  extract_lets m
  split
  · exact h.mintFault
  · split
    · exact h.endMint
    · split
      · exact h.mintFault
      · split
        · exact h.mintFault
        · exact h.modMint

theorem Mint.storeCoins_wf {m : Mint} {scr : Memory} {a : Nat} (h : scr.wf = true) : (m.storeCoins scr a).wf = true :=
  Memory.foldl_wf (Memory.store_wf _ _ _ _ h) fun _ _ hx => Memory.addPoison_wf _ _ _ hx

theorem State.memWf.runMint {s : State} {at_ : CoreRef} {c : MintCommand} (h : s.memWf) : (s.runMint at_ c).memWf := by
  unfold State.runMint
  extract_lets scr m put
  have hput : ∀ (x : Mint → Mint), (put x).memWf := fun _ => h.modMint.endMint
  split
  · exact h.runMncpl
  · exact h.runMnbias
  · split
    · exact h.mintFault
    · exact hput _
  · split
    · exact h.mintFault
    · exact hput _
  · exact hput _
  · exact hput _
  · exact hput _
  · exact hput _
  · exact h.runMnmode
  · exact h.startSweeps
  · exact h.startSweeps
  · exact h.runMnread
  · split
    · exact h.mintFault
    · exact hput _
  · exact .endMint (h.modGroup fun _ hg => ⟨Mint.storeCoins_wf hg.scr, hg.backing, hg.slices, hg.shadows⟩)
  · split
    · exact h.resetMint.endMint
    · exact hput _

theorem State.memWf.execMintHead {s : State} {at_ : CoreRef} {c : MintCommand} (h : s.memWf) : (s.execMintHead at_ c).memWf := by
  unfold State.execMintHead
  extract_lets g block failed blocked vpage
  split
  · exact h.modMint.mintFault
  · split
    · exact h
    · split
      · rename_i e
        exact h.absentAmong.of_pair e
      · rename_i e
        split
        · exact (h.absentAmong.of_pair e).mintFault
        · exact (h.absentAmong.of_pair e).runMint

theorem State.memWf.rereadImage {s : State} {at_ : CoreRef} (h : s.memWf) : (s.rereadImage at_).memWf := by
  unfold State.rereadImage
  extract_lets m lose
  have hlose : ∀ (t : State), t.memWf → (lose t).memWf := fun _ ht => ht.modMint
  split
  · exact hlose _ h
  · extract_lets ended
    split
    · exact h
    · split
      · split
        · exact hlose _ h
        · split
          · rename_i e
            exact (h.readImage.of_pair e).modMint
          · rename_i e
            exact (h.readImage.of_pair e).modMint
          · rename_i e
            exact (h.readImage.of_pair e).modMint
          · rename_i e
            exact hlose _ (h.readImage.of_pair e)
      · split
        · exact hlose _ h
        · split
          · rename_i e
            exact (h.readImage.of_pair e).modMint
          · rename_i e
            exact (h.readImage.of_pair e).modMint
          · rename_i e
            exact (h.readImage.of_pair e).modMint
          · rename_i e
            exact hlose _ (h.readImage.of_pair e)

theorem execMintCommandExecute_memWf {at_ : CoreRef} {s : State} (h : s.memWf) : (execMintCommandExecute at_ s).memWf := by
  unfold execMintCommandExecute
  extract_lets m
  split
  · exact .next h.rereadImage
  · split
    · exact .next h.execMintHead
    · exact .next h

theorem State.memWf.mintTurn {s : State} {at_ : CoreRef} {c : MintCommand} {left : Nat} {turn : Couplings → (Nat → Bool) → Mint → Mint}
    (h : s.memWf) :
    (s.mintTurn at_ c left turn).memWf := by
  unfold State.mintTurn
  split
  · exact h.rereadImage
  · split
    · exact h.mintFault
    · split
      · exact h.modMint
      · exact h.mintFault
      · extract_lets m x2 x3 s1 s2
        have hs1 : s1.memWf := h.modMint
        have hs2 : s2.memWf := by
          unfold s2
          split
          · exact hs1.publish
          · exact hs1
        split
        · exact hs2.mintFault
        · split
          · exact hs2.endMint
          · exact hs2

theorem execMintSweep_memWf {at_ : CoreRef} {s : State} (h : s.memWf) : (execMintSweep at_ s).memWf := by
  unfold execMintSweep
  split
  · split
    · exact .next h.mintTurn
    · exact .next h
  · exact .next h

theorem execMintPickStep_memWf {at_ : CoreRef} {s : State} (h : s.memWf) : (execMintPickStep at_ s).memWf := by
  unfold execMintPickStep
  split
  · split
    · exact .next h.mintTurn
    · exact .next h
  · exact .next h

theorem execLabelArrival_memWf {k : Nat} {s : State} (h : s.memWf) : (execLabelArrival k s).memWf := by
  unfold execLabelArrival
  split
  · split
    · exact .next (.modMint h)
    · exact .next h
  · exact .next h

theorem State.memWf.takeSubscription {s : State} {p : ClearPacket} (h : s.memWf) : (s.takeSubscription p).memWf := by
  unfold State.takeSubscription
  extract_lets pub sub others x s1 m
  have hs1 : s1.memWf := h.modMint
  split
  · exact h.modMint.endJoining
  · refine .endJoining ?_
    split <;> exact hs1

theorem execSubscription_memWf {k : Nat} {s : State} (h : s.memWf) : (execSubscription k s).memWf := by
  unfold execSubscription
  split
  · refine .next ?_
    split
    · exact h
    · exact .takeSubscription h
  · exact .next h

theorem execClearingTimeout_memWf {at_ : CoreRef} {s : State} (h : s.memWf) : (execClearingTimeout at_ s).memWf := by
  unfold execClearingTimeout
  extract_lets m
  split
  · split
    · exact .next h.failMint
    · exact .next h
  · exact .next h

theorem State.memWf.dropMint {s : State} {at_ : CoreRef} {gone : Nat → Bool} (h : s.memWf) : (s.dropMint at_ gone).memWf := by
  unfold State.dropMint
  extract_lets m lose s1 m1 busy keep rest drop s2
  have hlose : ∀ (t : State), t.memWf → ∀ (x : MintCommand), (lose t x).memWf := fun _ ht _ => ht.modMint.endMint
  have hs1 : s1.memWf := by
    unfold s1
    split
    · split
      · exact h.endMint
      · exact h
    · split
      · split
        · exact hlose _ h _
        · exact h
      · split
        · exact hlose _ h _
        · exact h
    · split
      · exact hlose _ h _
      · exact h
    · exact h
  have hdrop : ∀ (t : State), t.memWf → ∀ (x : MintCommand), (drop t x).memWf := by
    unfold drop
    intro _ ht _
    refine ht.modSlice fun _ hsl => ?_
    extract_lets sl1
    have hsl1 : sl1.memWf := by
      unfold sl1
      split
      · exact hsl.makeFull
      · exact hsl
    exact hsl1
  have hs2 : s2.memWf := hs1.foldl fun _ _ ht => hdrop _ ht _
  exact hs2.modMint

theorem State.memWf.rereadMint {s : State} {at_ : CoreRef} (h : s.memWf) : (s.rereadMint at_).memWf := by
  unfold State.rereadMint
  extract_lets m
  split
  · exact h.modMint.rereadImage
  · exact h

theorem State.memWf.haltMint {s : State} {at_ : CoreRef} (h : s.memWf) : (s.haltMint at_).memWf := by
  unfold State.haltMint
  split
  · split
    · exact h.foldl fun _ _ ht => .takeSubscription ht
    · exact h.modMint
  · exact h.modMint

end Sys2Proof.Machine
end

section
/-! Packets, clusters and work: each operation keeps the canonical form of the memories. -/

namespace Sys2Proof.Machine

/-! ### Packets of the package -/

theorem State.memWf.send {s : State} {dst : Nat} {ordered : Bool} {payload : Payload} {copy : Option (Nat × Nat × Nat)} (h : s.memWf) :
    (s.send dst ordered payload copy).memWf := h

/-! ### Barriers of clusters and jobs -/

theorem State.memWf.leaveJobSlots {s : State} {gids : List Nat} (h : s.memWf) : (s.leaveJobSlots gids).memWf := h

theorem State.memWf.leaveSlots {s : State} {r : SliceRef} (h : s.memWf) : (s.leaveSlots r).memWf := by
  unfold State.leaveSlots
  extract_lets mine s1
  have hs1 : s1.memWf := by
    unfold s1
    split
    · exact h.leaveJobSlots
    · exact h
  split
  · exact hs1
  · exact h

theorem State.memWf.releaseHbar {s : State} {gid level : Nat} (h : s.memWf) : (s.releaseHbar gid level).memWf :=
  .acquire (h.foldl fun _ _ ht => ht.resume)

theorem State.memWf.misuseHbar {s : State} {gid code : Nat} (h : s.memWf) : (s.misuseHbar gid code).memWf := h.foldl fun _ _ ht => ht.resume

theorem State.memWf.jobAnswer {s : State} {gids : List Nat} {misuse : Bool} (h : s.memWf) : (s.jobAnswer gids misuse).memWf := by
  unfold State.jobAnswer
  refine h.leaveJobSlots.foldl fun _ _ ht => ?_
  split
  · exact ht.misuseHbar
  · exact ht.releaseHbar

theorem State.memWf.answerPackage {s : State} {p : Nat} {gids : List Nat} {misuse : Bool} (h : s.memWf) : (s.answerPackage p gids misuse).memWf := by
  unfold State.answerPackage
  split
  · exact h.jobAnswer
  · split
    · exact h
    · exact h.send

theorem State.memWf.sendAnswers {s : State} (h : s.memWf) : s.sendAnswers.memWf := .foldl h fun _ _ ht => ht.answerPackage

theorem State.memWf.jobArrive {s : State} {m : JobArrival} (h : s.memWf) : (s.jobArrive m).memWf := by
  unfold State.jobArrive
  extract_lets here slot x others x1 s1
  have hs1 : s1.memWf := h
  split
  · exact h
  · split
    · exact h.answerPackage
    · split
      · exact hs1.foldl fun _ _ ht => ht.answerPackage
      · exact h

theorem State.memWf.arriveSlot {s : State} {gid level id expected : Nat} (h : s.memWf) : (s.arriveSlot gid level id expected).1.memWf := by
  unfold State.arriveSlot
  extract_lets g place key here others b s1 m
  have hs1 : s1.memWf := h
  split
  · split
    · exact hs1
    · exact hs1.send
  · split
    · exact h
    · split
      · exact .foldl h fun _ _ ht => ht.releaseHbar
      · exact hs1

theorem Slice.memWf.countHbar {sl : Slice} (h : sl.memWf) : sl.countHbar.memWf := by
  unfold Slice.countHbar
  split <;> exact h

theorem State.memWf.hbarTry {s : State} {gid : Nat} {now : List (Nat × Nat × Nat × Nat)} (h : s.memWf) : (s.hbarTry gid now).1.memWf := by
  unfold State.hbarTry
  extract_lets g ops count
  have hcount : ∀ (t : State), t.memWf → (count t).memWf := fun _ ht => ht.modGroup fun _ hg1 => ⟨hg1.scr, hg1.backing, List.forall_mem_map.2 fun _ hx => (hg1.slices _ hx).countHbar, hg1.shadows⟩
  clear_value ops
  split
  · exact h
  · split
    · exact h
    · split
      · exact h.misuseHbar
      · split
        · exact hcount _ h
        · split
          · rename_i e
            exact hcount _ (h.arriveSlot.of_pair e)
          · rename_i e
            exact (h.arriveSlot.of_pair e).misuseHbar
          · rename_i e
            exact (h.arriveSlot.of_pair e).releaseHbar

theorem runHbarAbove_memWf {level id : Nat} {cs : List Ctx} {s : State} (h : s.memWf) : (runHbarAbove level id cs s).s.memWf := by
  unfold runHbarAbove
  split
  · exact h
  · extract_lets g a trapped now x
    have hx : x.1.memWf := by
      unfold x
      split
      · exact h
      · exact h.hbarTry
    exact hx

theorem runHbar_memWf {cs : List Ctx} {s : State} (h : s.memWf) : (runHbar cs s).s.memWf := by
  unfold runHbar
  split
  · exact h
  · extract_lets f
    split
    · exact runGsync_memWf h
    · exact runHbarAbove_memWf h

theorem State.memWf.admitted {gid level : Nat} {a : State × Arrival} (h : a.1.memWf) : (State.admitted gid level a).memWf := by
  unfold State.admitted
  split
  · exact h
  · exact h.misuseHbar
  · exact h.releaseHbar

theorem execHbarSlotAdmit_memWf {k : Nat} {s : State} (h : s.memWf) : (execHbarSlotAdmit k s).memWf := by
  unfold execHbarSlotAdmit
  split
  · split
    · exact .next (.admitted (.arriveSlot h))
    · exact .next h
  · extract_lets j
    split
    · exact .next (.jobArrive h)
    · exact .next h

theorem execJobBarrierMessage_memWf {m : JobArrival} {s : State} (h : s.memWf) : (execJobBarrierMessage m s).memWf := .next (.jobArrive h)

/-! ### Levels, units and placement -/

theorem State.memWf.modLevel {s : State} {part : Nat} {key : LevelKey} {f : Level → Level} (h : s.memWf) : (s.modLevel part key f).memWf := h

theorem State.memWf.enterLevel {s : State} {part : Nat} {key : LevelKey} (h : s.memWf) : (s.enterLevel part key).memWf := by
  unfold State.enterLevel
  split
  · exact h.modLevel
  · exact h

theorem State.memWf.levelError {s : State} {part : Nat} {key : LevelKey} {cause : Nat} (h : s.memWf) : (s.levelError part key cause).memWf :=
  h.modLevel

theorem State.memWf.logLevel {s : State} {part : Nat} {e : LevelLogEntry} (h : s.memWf) : (s.logLevel part e).memWf :=
  h.modPart fun _ hp => ⟨hp.savedChp, hp.savedCls⟩

theorem State.memWf.destroyLevel {s : State} {part : Nat} {key : LevelKey} (h : s.memWf) : (s.destroyLevel part key).memWf := by
  unfold State.destroyLevel
  split
  · exact h
  · exact .logLevel h

theorem State.memWf.leaveLevel {s : State} {part : Nat} {key : LevelKey} (h : s.memWf) : (s.leaveLevel part key).memWf := by
  unfold State.leaveLevel
  extract_lets s1
  have hs1 : s1.memWf := h.modLevel
  split
  · split
    · exact hs1.destroyLevel
    · exact hs1
  · exact hs1

theorem State.memWf.workReach {s : State} {c : CoreRef} {part unitId : Nat} {va : Dword} {need : Need} {kind : Nat} (h : s.memWf) :
    (s.workReach c part unitId va need kind).1.memWf := by
  unfold State.workReach
  split <;> rename_i e <;> exact h.reach.of_pair e

theorem State.memWf.unitReach {s : State} {u : UnitState} {va : Dword} (h : s.memWf) : (s.unitReach u va).1.memWf := by
  unfold State.unitReach
  split
  · exact h
  · exact .workReach h

theorem State.memWf.readyOn {s : State} {part : Nat} {va : Dword} (h : s.memWf) : (s.readyOn part va).memWf := h

theorem State.memWf.atHome {s : State} {pa : Nat} (h : s.memWf) : (s.atHome pa).memWf := by
  unfold State.atHome
  split
  · exact h
  · exact h.useHome

theorem State.memWf.decrementAt {s : State} {part : Nat} {va : Dword} {pa n : Nat} (h : s.memWf) : (s.decrementAt part va pa n).memWf := by
  unfold State.decrementAt
  extract_lets x s1 s2
  have hs1 : s1.memWf := h.atHome
  have hs2 : s2.memWf := hs1.writePlace
  split
  · exact hs2.readyOn
  · exact hs2

theorem State.memWf.orAt {s : State} {pa mask : Nat} (h : s.memWf) : (s.orAt pa mask).memWf := h.atHome.writePlace

theorem State.memWf.enterQueue {s : State} {q : Queued} {origin : Option Nat} {spawn : Bool} (h : s.memWf) : (s.enterQueue q origin spawn).memWf := by
  unfold State.enterQueue
  extract_lets s1 s2 s3
  have hs1 : s1.memWf := h
  have hs2 : s2.memWf := hs1.foldl fun _ _ ht => ht.enterLevel
  have hs3 : s3.memWf := by
    unfold s3
    split
    · exact hs2.modLevel
    · exact hs2
  exact hs3.modLevel

theorem State.memWf.enqueue {s : State} {q : Queued} {origin : Option Nat} {spawn : Bool} (h : s.memWf) : (s.enqueue q origin spawn).1.memWf := by
  unfold State.enqueue
  split
  · exact h.enterQueue
  · split
    · rename_i e
      exact (h.workReach.of_pair e).enterQueue
    · rename_i e
      exact h.workReach.of_pair e
    · rename_i e
      exact h.workReach.of_pair e

theorem State.memWf.enqueueAll {s : State} {origin : Option Nat} {spawn : Bool} {qs : List Queued} (h : s.memWf) :
    (s.enqueueAll origin spawn qs).1.memWf := by
  induction qs generalizing s with
  | nil => exact h
  | cons q qs ih =>
    unfold State.enqueueAll
    split
    · exact h
    · split
      · rename_i e
        exact ih (h.enqueue.of_pair e)
      · rename_i e
        exact h.enqueue.of_pair e

theorem State.memWf.holdUnit {s : State} {u : UnitState} {va : Dword} {b : Block} (h : s.memWf) : (s.holdUnit u va b).memWf := h

theorem State.memWf.finishUnit {s : State} {u : UnitState} (h : s.memWf) : (s.finishUnit u).memWf := by
  unfold State.finishUnit
  extract_lets key close
  have hclose : ∀ (t : State), t.memWf → (close t).memWf := by
    intro t ht
    unfold close
    extract_lets s1 s2
    have hs1 : s1.memWf := ht
    have hs2 : s2.memWf := hs1.foldl fun _ _ ht1 => ht1.leaveLevel
    split
    · exact hs2
    · exact hs2.logLevel
  split
  · exact hclose _ h
  · split
    · rename_i e
      exact hclose _ (h.unitReach.of_pair e).decrementAt
    · rename_i e
      exact (h.unitReach.of_pair e).holdUnit
    · rename_i e
      exact hclose _ (h.unitReach.of_pair e).levelError

theorem State.memWf.markUnit {s : State} {u : UnitState} (h : s.memWf) : (s.markUnit u).memWf := by
  unfold State.markUnit
  extract_lets errors
  have herrors : ∀ (t : State), t.memWf → (errors t).memWf := by
    intro t ht
    unfold errors
    extract_lets s1 s2
    have hs1 : s1.memWf := by
      unfold s1
      split
      · exact ht.foldl fun _ _ ht1 => ht1.levelError
      · exact ht
    have hs2 : s2.memWf := hs1.modUnit
    exact hs2.finishUnit
  split
  · exact herrors _ h
  · extract_lets t
    split
    · rename_i e
      exact herrors _ (h.unitReach.of_pair e).orAt
    · rename_i e
      exact (h.unitReach.of_pair e).holdUnit
    · rename_i e
      exact herrors _ (h.unitReach.of_pair e).levelError

theorem State.memWf.completeUnit {s : State} {uid : Nat} (h : s.memWf) : (s.completeUnit uid).memWf := by
  unfold State.completeUnit
  split
  · exact h
  · split
    · exact h
    · split
      · exact h.markUnit
      · exact h.finishUnit

theorem execUnitCompletion_memWf {uid : Nat} {s : State} (h : s.memWf) : (execUnitCompletion uid s).memWf := by
  unfold execUnitCompletion
  refine .next ?_
  split
  · exact h
  · exact h.completeUnit

theorem execGroupCompletion_memWf {gid : Nat} {s : State} (h : s.memWf) : (execGroupCompletion gid s).memWf := by
  unfold execGroupCompletion
  split
  · exact .next h
  · rename_i x _ _
    split
    · exact .next h
    · extract_lets s1 s2
      have hs1 : s1.memWf := by
        unfold s1
        split
        · exact h.cancelUnit
        · exact h
      have hs2 : s2.memWf := hs1.foldl fun _ _ ht => ht.modCore
      exact .next (.modUnit ⟨hs2.mem, fun x hx => hs2.groups x (List.mem_filter.mp hx).1, hs2.dies, hs2.partitions⟩)

theorem State.memWf.dropRecord {s : State} {q : Queued} (h : s.memWf) : (s.dropRecord q).memWf := .completeUnit h

theorem State.memWf.pruneReservations {s : State} (h : s.memWf) : s.pruneReservations.memWf :=
  ⟨h.mem, h.groups, Bank.forall_mem_mapIdx h.dies fun _ _ hx => hx, h.partitions⟩

theorem State.memWf.cancelWhere {s : State} {records : Queued → Bool} {units : UnitState → Bool} {code : Nat} (h : s.memWf) :
    (s.cancelWhere records units code).memWf := .pruneReservations (.foldl h fun _ _ ht => ht.dropRecord)

theorem State.memWf.cancelLevel {s : State} {part : Nat} {key : LevelKey} (h : s.memWf) : (s.cancelLevel part key).memWf := h.cancelWhere

theorem execHostCancel_memWf {part : Nat} {key : LevelKey} {s : State} (h : s.memWf) : (execHostCancel part key s).memWf :=
  h.smivik fun _ ha => .next ha.cancelLevel.reply

theorem execCycleBudget_memWf {uid : Nat} {s : State} (h : s.memWf) : (execCycleBudget uid s).memWf := .next h.modUnit

theorem execCancelTaken_memWf {r : SliceRef} {s : State} (h : s.memWf) : (execCancelTaken r s).memWf := by
  unfold execCancelTaken
  split
  · exact .next h.leaveSlots.takeTrap.divide
  · exact .next h

theorem Slice.memWf.sliceAt {r : Record} {i : Nat} : (r.sliceAt i).memWf := by
  unfold Record.sliceAt
  extract_lets x
  have hx : x.memWf := .start _ _
  exact hx

theorem State.memWf.instantiate {s : State} {u : UnitState} {die core index : Nat} (h : s.memWf) : (s.instantiate u die core index).memWf := by
  unfold State.instantiate
  extract_lets c r s1 here n age g
  have hs1 : s1.memWf := by
    unfold s1
    split
    · exact h.resetMint.modCore
    · exact h
  have hg : g.memWf := by
    unfold g
    refine ⟨Memory.blank_wf, Memory.blank_wf, List.forall_mem_map.2 fun _ _ => .sliceAt, ?_⟩
    split
    · exact List.forall_mem_map.2 fun _ _ => .sliceAt
    · exact List.forall_mem_nil _
  exact .modCore ⟨hs1.mem, List.forall_mem_append.2 ⟨hs1.groups, List.forall_mem_cons.2 ⟨hg, List.forall_mem_nil _⟩⟩, hs1.dies, hs1.partitions⟩

theorem State.memWf.place {s : State} {q : Queued} {cores : List Nat} (h : s.memWf) : (s.place q cores).memWf :=
  .pruneReservations (.foldl h fun _ _ ht => ht.instantiate)

theorem State.memWf.reserve {s : State} {q : Queued} (h : s.memWf) : (s.reserve q).memWf := by
  unfold State.reserve
  split
  · exact h
  · exact h.modDie fun _ hd => hd

theorem State.memWf.placeFirst {s : State} {seen : List Nat} {qs : List Queued} (h : s.memWf) : (s.placeFirst seen qs).memWf := by
  induction qs generalizing s seen with
  | nil => exact h
  | cons q qs ih =>
    unfold State.placeFirst
    split
    · exact h.place
    · extract_lets s1
      have hs1 : s1.memWf := by
        unfold s1
        split
        · exact h.reserve
        · exact h
      exact ih hs1

theorem execPlacement_memWf {die : Nat} {s : State} (h : s.memWf) : (execPlacement die s).memWf := by
  unfold execPlacement
  split
  · exact .next h
  · exact .next h.placeFirst

theorem execReservationLapse_memWf {k : Nat} {s : State} (h : s.memWf) : (execReservationLapse k s).memWf := by
  unfold execReservationLapse
  split
  · exact .next h
  · split
    · exact .next h
    · exact .next (h.modDie fun _ hd => hd)

theorem State.memWf.releaseJwait {s : State} {part : Nat} {key : LevelKey} (h : s.memWf) : (s.releaseJwait part key).memWf := by
  unfold State.releaseJwait
  refine h.foldl fun _ _ ht => ?_
  split
  · exact ht
  · refine ht.foldl fun _ _ ht1 => ?_
    split
    · split
      · exact ht1.acquire.resume
      · exact ht1
    · exact ht1

theorem State.memWf.endRound {s : State} {part : Nat} {key : LevelKey} {t : TokenRound} (h : s.memWf) : (s.endRound part key t).memWf := by
  unfold State.endRound
  extract_lets idle
  have hidle : idle.memWf := h.modLevel
  split
  · exact hidle
  · split
    · exact hidle.releaseJwait
    · exact h.destroyLevel

theorem execTokenRound_memWf {part : Nat} {key : LevelKey} {s : State} (h : s.memWf) : (execTokenRound part key s).memWf := by
  unfold execTokenRound
  split
  · split
    · exact .next h
    · extract_lets dies waiting
      split
      · split
        · exact .next h.modLevel
        · split
          · exact .next h.modLevel
          · exact .next h
      · split
        · exact .next h
        · extract_lets t1 s1
          have hs1 : s1.memWf := h.modLevel
          split
          · exact .next hs1.modLevel
          · exact .next hs1.endRound
  · exact .next h

theorem withRecord_memWf {c : Ctx} {s : State} {a : Dword} {inherit_ : Bool} {f : Record → State → State × Fate}
    (h : s.memWf) (hf : ∀ (x : Record) (t : State), t.memWf → (f x t).1.memWf) :
    (withRecord c s a inherit_ f).1.memWf := by
  unfold withRecord
  split
  · rename_i e
    exact (readOnce_memWf h).of_pair e
  · rename_i e
    extract_lets r own r1 dies
    split
    · exact (readOnce_memWf h).of_pair e
    · exact hf _ _ ((readOnce_memWf h).of_pair e)

theorem enqueueFor_memWf {c : Ctx} {s : State} {qs : List Queued} {spawn : Bool} (h : s.memWf) : (enqueueFor c s qs spawn).1.memWf := by
  unfold enqueueFor
  extract_lets g s1
  have hs1 : s1.memWf := by
    unfold s1
    split
    · exact h.foldl fun _ _ ht => ht.modLevel
    · exact h
  split
  · rename_i e
    exact hs1.enqueueAll.of_pair e
  · rename_i e1
    exact hs1.enqueueAll.of_pair e1
  · rename_i e1
    split
    · rename_i e2
      exact ((parkOrCancel_memWf (hs1.enqueueAll.of_pair e1)).of_pair e2).frame rfl rfl rfl rfl
    · exact parkOrCancel_memWf (hs1.enqueueAll.of_pair e1)

theorem actSpawn_memWf {c : Ctx} {s : State} (h : s.memWf) : (actSpawn c s).1.memWf := by
  unfold actSpawn
  extract_lets a
  split
  · exact h
  · exact withRecord_memWf h fun _ _ ht => enqueueFor_memWf ht

theorem actJdec_memWf {c : Ctx} {s : State} (h : s.memWf) : (actJdec c s).1.memWf := by
  unfold actJdec
  extract_lets a g
  split
  · exact h
  · split
    · exact h
    · split
      · rename_i e
        exact (h.workReach.of_pair e).homeLookup.decrementAt
      · rename_i e
        exact h.workReach.of_pair e
      · rename_i e
        exact h.workReach.of_pair e

theorem State.memWf.watch {s : State} {r : SliceRef} {a : Dword} {eff : Mask} (h : s.memWf) : (s.watch r a eff).1.memWf := by
  unfold State.watch
  split <;> rename_i e3 <;> exact h.readGlb.of_pair e3

theorem State.memWf.tryJwait {s : State} {r : SliceRef} {a : Dword} {eff : Mask} (h : s.memWf) : ∀ x ∈ s.tryJwait r a eff, x.1.memWf := by
  unfold State.tryJwait
  split
  · rename_i e
    exact forall_mem_some (h.watch.of_pair e).acquire
  · exact forall_mem_none
  · rename_i e
    exact forall_mem_some (h.watch.of_pair e)

theorem actJwait_memWf {c : Ctx} {s : State} (h : s.memWf) : (actJwait c s).1.memWf := by
  unfold actJwait
  extract_lets mode g a key
  split
  · split
    · exact h
    · split
      · rename_i e
        exact h.tryJwait _ e
      · exact parkOrCancel_memWf h
  · split
    · exact h.acquire
    · exact parkOrCancel_memWf h

theorem actLaunch_memWf {c : Ctx} {s : State} (h : s.memWf) : (actLaunch c s).1.memWf := by
  unfold actLaunch
  extract_lets a n stride bitmap traps
  split
  · exact h
  · exact withRecord_memWf h fun _ _ ht => enqueueFor_memWf ht

theorem actCancel_memWf {c : Ctx} {s : State} (h : s.memWf) : (actCancel c s).1.memWf := h.cancelLevel

theorem actTdone_memWf {c : Ctx} {s : State} (h : s.memWf) : (actTdone c s).1.memWf := by
  unfold actTdone
  split
  · exact h
  · split
    · exact h
    · extract_lets t
      split
      · rename_i e
        exact (h.workReach.of_pair e).orAt
      · rename_i e
        exact (h.workReach.of_pair e).frame rfl rfl rfl rfl
      · rename_i e
        exact (h.workReach.of_pair e).levelError

theorem State.memWf.tryTwait {s : State} {r : SliceRef} {bitmap : Dword} {tile d : Nat} {eff : Mask} (h : s.memWf) :
    ∀ x ∈ s.tryTwait r bitmap tile d eff, x.1.memWf := by
  unfold State.tryTwait
  extract_lets t
  split
  · rename_i e
    extract_lets v s2
    have hs2 : s2.memWf := (h.watch.of_pair e).modSlice fun _ hsl => hsl.setLanesP
    split
    · exact forall_mem_none
    · exact forall_mem_some hs2.acquire
  · rename_i e
    exact forall_mem_some (h.watch.of_pair e)

theorem actTwait_memWf {c : Ctx} {s : State} (h : s.memWf) : (actTwait c s).1.memWf := by
  unfold actTwait
  extract_lets a tile
  split
  · exact h
  · split
    · rename_i e
      exact h.tryTwait _ e
    · exact parkOrCancel_memWf h

theorem actPrio_memWf {c : Ctx} {s : State} (h : s.memWf) : (actPrio c s).1.memWf := by
  unfold actPrio
  extract_lets b part key
  split <;> exact h

theorem State.memWf.readRecord {s : State} {part : Nat} {a : Dword} (h : s.memWf) : (s.readRecord part a).1.memWf := by
  unfold State.readRecord
  split <;> rename_i e2 <;> exact h.workReach.of_pair e2

theorem State.memWf.hostEnqueue {s : State} {part : Nat} {a : Dword} (h : s.memWf) : (s.hostEnqueue part a).memWf := by
  unfold State.hostEnqueue
  extract_lets wait
  have hwait : ∀ (t : State), t.memWf → ∀ (cs : List Queued) (x : Option Dword) (x' : Option Block), (wait t cs x x').memWf := fun _ ht _ _ _ => ht
  split
  · exact h.reply
  · split
    · exact h.reply
    · split
      · rename_i e
        exact hwait _ (h.readRecord.of_pair e) _ _ _
      · rename_i e1
        exact (h.readRecord.of_pair e1).reply
      · rename_i e
        extract_lets r
        split
        · exact (h.readRecord.of_pair e).reply
        · split
          · rename_i e2
            exact ((h.readRecord.of_pair e).enqueueAll.of_pair e2).reply
          · rename_i e3
            exact ((h.readRecord.of_pair e).enqueueAll.of_pair e3).reply
          · rename_i e3
            exact hwait _ ((h.readRecord.of_pair e).enqueueAll.of_pair e3) _ _ _
          · rename_i e4
            exact hwait _ ((h.readRecord.of_pair e).enqueueAll.of_pair e4) _ _ _

theorem execHostEnqueue_memWf {part : Nat} {addr : Dword} {s : State} (h : s.memWf) : (execHostEnqueue part addr s).memWf :=
  h.smivik fun _ ha => .next ha.hostEnqueue

theorem execEnqueueAreaWaitEnd_memWf {k : Nat} {s : State} (h : s.memWf) : (execEnqueueAreaWaitEnd k s).memWf := by
  unfold execEnqueueAreaWaitEnd
  split
  · exact .next h
  · extract_lets out stays failed held spawn
    have hout : ∀ (t : State), t.memWf → (out t).memWf := fun _ ht => ht.frame rfl rfl rfl rfl
    have hstays : ∀ (t : State), t.memWf → ∀ (cs : List Queued) (x' : Option Enqueued), (stays t cs x').memWf := fun _ ht _ _ => ht.frame rfl rfl rfl rfl
    split
    · exact .next h
    · split
      · refine .next ?_
        split
        · exact (hout _ h).reply
        · exact (hout _ h).hostEnqueue
      · extract_lets sl eff go trap
        have hgo : ∀ (t : State), t.memWf → ∀ (x' : Fate), (go t x').memWf := by
          unfold go
          intro _ ht _
          split
          · exact ht.resume
          · exact ht
        split
        · exact .next (hgo _ (hout _ h) _)
        · split
          · rename_i e
            exact .next (hgo _ (hout _ (h.enqueueAll.of_pair e)) _)
          · rename_i e
            exact .next (hgo _ (hout _ (h.enqueueAll.of_pair e)) _)
          · rename_i e
            exact .next (hstays _ (h.enqueueAll.of_pair e) _ _)
      · split
        · exact .next (hout _ h).reply
        · split
          · rename_i e
            exact .next (hout _ (h.enqueueAll.of_pair e)).reply
          · rename_i e
            exact .next (hout _ (h.enqueueAll.of_pair e)).reply
          · rename_i e
            exact .next (hstays _ (h.enqueueAll.of_pair e) _ _)

theorem State.memWf.retryCounters {s : State} (h : s.memWf) : s.retryCounters.memWf := by
  unfold State.retryCounters
  extract_lets ended todo s1
  have hs1 : s1.memWf := h.frame rfl rfl rfl rfl
  refine hs1.foldl fun t a ht => ?_
  have hx : (if t.failedBlock a.part a.block then (t, Reached.failed 0x08 1) else t.workReach controlDie a.part 0 a.va needBoth 1).1.memWf := by
    split
    · exact ht
    · exact ht.workReach
  split
  · rename_i e
    exact (hx.of_pair e).orAt
  · rename_i e
    exact (hx.of_pair e).frame rfl rfl rfl rfl
  · rename_i e
    split
    · exact (hx.of_pair e).levelError
    · exact hx.of_pair e

end Sys2Proof.Machine
end

section
/-! Page tables, partitions and dies: each operation keeps the canonical form of the memories. -/

namespace Sys2Proof.Machine

/-! ### Page tables and faults -/

theorem State.memWf.replaySlice {s : State} {r : SliceRef} (h : s.memWf) : (s.replaySlice r).memWf := by
  unfold State.replaySlice
  extract_lets g sl again
  have hagain : ∀ (x : Block) (x' : Trap), (again x x').memWf := by
    unfold again
    intro _ _
    split
    · exact .next h.resume
    · split
      · exact .next (.divide (h.modSlice fun _ hsl1 => hsl1))
      · exact .next h
  split
  · extract_lets bad
    split
    · exact h.replayAccess
    · exact .next h.dropAccess.resume
  · exact hagain _ _
  · exact hagain _ _
  · split
    · exact .next h.cancelBy.divide
    · split
      · exact .next h.enterHandler.divide
      · exact .next h
  · exact .next h

theorem execFaultReplay_memWf {r : SliceRef} {s : State} (h : s.memWf) : (execFaultReplay r s).memWf := by
  unfold execFaultReplay
  split
  · exact .next h
  · exact h.unlessEarly h.replaySlice

theorem State.memWf.answerFault {s : State} {part seq : Nat} {ok : Bool} (h : s.memWf) : ∀ x ∈ s.answerFault part seq ok, x.memWf := by
  unfold State.answerFault
  split
  · exact forall_mem_none
  · split
    · exact forall_mem_some (h.modPart fun _ hp1 => hp1)
    · exact forall_mem_none

theorem execResolve_memWf {part seq : Nat} {s : State} (h : s.memWf) : (execResolve part seq s).memWf := by
  unfold execResolve
  refine h.smivik fun _ ha => ?_
  refine .next ?_
  split
  · rename_i e
    exact (ha.answerFault _ e).reply
  · exact ha.reply

theorem State.memWf.failCopies {s : State} {at_ : CoreRef} {part seq : Nat} (h : s.memWf) : (s.failCopies at_ part seq).memWf :=
  h.foldl fun _ _ ht => ht.faultCopy

theorem State.memWf.failMintBlock {s : State} {at_ : CoreRef} {part seq vpage : Nat} (h : s.memWf) : (s.failMintBlock at_ part seq vpage).memWf := by
  unfold State.failMintBlock
  extract_lets m
  split
  · split
    · exact h.modMint
    · exact h
  · split
    · split
      · exact h.modMint.mintFault
      · exact h
    · exact h

theorem andThen_memWf {o : Outcome} {f : State → Outcome} (h : o.memWf) (hf : ∀ (t : State), t.memWf → (f t).memWf) : (andThen o f).memWf := by
  unfold andThen
  split
  · exact hf _ (h _ rfl)
  · exact h
  · exact h

theorem State.memWf.failFault {s : State} {part seq : Nat} (h : s.memWf) : (s.failFault part seq).memWf := by
  unfold State.failFault
  split
  · exact .next h.reply
  · rename_i s1 e
    have hs1 : s1.memWf := h.answerFault _ e
    extract_lets vpage s2
    have hs2 : s2.memWf := hs1.foldl fun _ _ ht => ht.failCopies.failMintBlock
    exact andThen_memWf (foldl_keeps (P := Outcome.memWf) (.next hs2) fun _ _ ho => andThen_memWf ho fun _ ht => ht.unlessEarly ht.replaySlice)
      fun _ ht => .next ht.reply

theorem execFail_memWf {part seq : Nat} {s : State} (h : s.memWf) : (execFail part seq s).memWf := h.smivik fun _ ha => ha.failFault

theorem State.memWf.residentOn {s : State} {die : Nat} (h : s.memWf) : ∀ x ∈ s.residentOn die, x.memWf :=
  fun x hx => h.partitions x (List.mem_of_find?_eq_some hx)

theorem execPageWalk_memWf {at_ : CoreRef} {va : Dword} {write : Bool} {s : State} (h : s.memWf) : (execPageWalk at_ va write s).memWf := by
  unfold execPageWalk
  split
  · exact .next h
  · extract_lets kind
    split
    · rename_i e
      exact .next (h.translate.of_pair e)
    · rename_i e
      exact .next (h.translate.of_pair e).raiseFault
    · rename_i e
      exact .next (h.translate.of_pair e).raiseFault

theorem Slice.memWf.staleWindows {va n : Nat} {sl : Slice} (h : sl.memWf) : (Slice.staleWindows va n sl).memWf := h

theorem Slice.memWf.conflictFrame {frame n : Nat} {sl : Slice} (h : sl.memWf) : (Slice.conflictFrame frame n sl).memWf := by
  unfold Slice.conflictFrame
  split
  · split <;> exact h
  · exact h

theorem Slice.memWf.forgetPaths {frame n : Nat} {sl : Slice} (h : sl.memWf) : (Slice.forgetPaths frame n sl).memWf := h

theorem State.memWf.retryLane {s : State} {r : SliceRef} {lane : Nat} (h : s.memWf) : (s.retryLane r lane).memWf := by
  unfold State.retryLane
  refine h.modSlice fun _ hsl => ?_
  split
  · split <;> exact hsl
  · exact hsl

theorem State.memWf.wakeSpan {s : State} {part va n : Nat} (h : s.memWf) : (s.wakeSpan part va n).memWf := .foldl h fun _ _ ht => ht.retryLane

theorem State.memWf.shootdown {s : State} {part va n frame : Nat} (h : s.memWf) : (s.shootdown part va n frame).memWf := by
  unfold State.shootdown
  extract_lets s1
  have hs1 : s1.memWf := by
    unfold s1
    refine ⟨h.mem, ?_, Bank.forall_mem_map h.dies fun _ hx => hx, h.partitions⟩
    refine List.forall_mem_map.2 fun _ hx => ?_
    split
    · exact ⟨(h.groups _ hx).scr, (h.groups _ hx).backing, List.forall_mem_map.2 fun _ hx1 => ((h.groups _ hx).slices _ hx1).staleWindows.conflictFrame.forgetPaths, (h.groups _ hx).shadows⟩
    · exact h.groups _ hx
  exact hs1.wakeSpan

theorem State.memWf.tableFor {s : State} {part va target n table : Nat} (h : s.memWf) : (s.tableFor part va target n table).1.memWf := by
  induction n generalizing s table with
  | zero => exact h
  | succ n ih =>
    unfold State.tableFor
    extract_lets a e
    split
    · exact ih h
    · split
      · exact h
      · split
        · exact h
        · split
          · exact h
          · extract_lets t s1
            have hs1 : s1.memWf := (h.setMem (Memory.setNum_wf _ _ _ (Memory.zeroSpan_wf _ _ _ h.mem))).controlAsks
            exact ih (hs1.modPart fun _ hp1 => hp1)

theorem State.memWf.writeRun {s : State} {a n e : Nat} (h : s.memWf) : (s.writeRun a n e).memWf :=
  .controlAsks (h.setMem (Memory.foldl_wf h.mem fun _ _ hx => Memory.setNum_wf _ _ _ hx))

theorem Partition.memWf.forget {p : Partition} {va n : Nat} (h : p.memWf) : (p.forget va n).memWf := h

theorem State.memWf.retryHeld {s : State} {k : Nat} (h : s.memWf) : (s.retryHeld k).memWf := h

theorem State.memWf.forget {s : State} {part va n : Nat} (h : s.memWf) : (s.forget part va n).memWf := .retryHeld (h.modPart fun _ hp => hp.forget)

theorem Memory.shadowPage_wf {m : Memory} {frame n : Nat} {empty : Bool} (h : m.wf = true) : (m.shadowPage frame n empty).wf = true :=
  Memory.foldl_wf h fun _ _ hx => Memory.setFull_wf _ _ hx

theorem State.memWf.mapPage {s : State} {part : Nat} {m : MapCommand} (h : s.memWf) : (s.mapPage part m).memWf := by
  unfold State.mapPage
  split
  · exact .next h.reply
  · extract_lets va n tables level old run
    split
    · exact .next h.reply
    · split
      · rename_i e
        exact .next (h.tableFor.of_pair e).reply
      · rename_i s1 table e
        have hs1 : s1.memWf := h.tableFor.of_pair e
        extract_lets a stood s2 s3 s4 s5
        have hs3 : s3.memWf := hs1.writeRun.forget.modPart fun _ hp => hp
        have hs4 : s4.memWf := by
          unfold s4
          generalize old = o
          split
          · dsimp only
            split
            · exact hs3.shootdown
            · exact hs3
          · split
            · exact hs3.shootdown
            · exact hs3
        have hs5 : s5.memWf := by
          unfold s5
          split
          · exact hs4.setMem (Memory.shadowPage_wf hs4.mem)
          · exact hs4
        exact .next hs5.reply

theorem execMap_memWf {part : Nat} {m : MapCommand} {s : State} (h : s.memWf) : (execMap part m s).memWf := h.smivik fun _ ha => ha.mapPage

theorem State.memWf.unmapPage {s : State} {part : Nat} {va : Dword} (h : s.memWf) : (s.unmapPage part va).memWf := by
  unfold State.unmapPage
  split
  · exact .next h.reply
  · exact .next h.writeRun.forget.shootdown.reply

theorem execUnmap_memWf {part : Nat} {va : Dword} {s : State} (h : s.memWf) : (execUnmap part va s).memWf := h.smivik fun _ ha => ha.unmapPage

theorem State.memWf.protectPage {s : State} {part : Nat} {va : Dword} {perm : Perm} (h : s.memWf) : (s.protectPage part va perm).memWf := by
  unfold State.protectPage
  split
  · exact .next h.reply
  · exact .next h.writeRun.shootdown.reply

theorem execProtect_memWf {part : Nat} {va : Dword} {perm : Perm} {s : State} (h : s.memWf) : (execProtect part va perm s).memWf :=
  h.smivik fun _ ha => ha.protectPage

theorem State.memWf.modDir {s : State} {part vpage : Nat} {f : DirEntry → DirEntry} (h : s.memWf) : (s.modDir part vpage f).memWf :=
  h.modPart fun _ hp => hp

theorem State.memWf.startMove {s : State} {part : Nat} {d : DirEntry} {target : PageHome} (h : s.memWf) : (s.startMove part d target).memWf := by
  unfold State.startMove
  split
  · exact h
  · exact h.modDir.shootdown

theorem execMigrationRequest_memWf {part vpage : Nat} {s : State} (h : s.memWf) : (execMigrationRequest part vpage s).memWf := by
  unfold execMigrationRequest
  split
  · exact .next h
  · refine .next ?_
    split
    · exact h
    · exact h.startMove

theorem State.memWf.hostRequest {s : State} {part vpage : Nat} (h : s.memWf) : (s.hostRequest part vpage).memWf := by
  unfold State.hostRequest
  split
  · exact .next h.reply
  · refine .next ?_
    split
    · exact h.modDir
    · split
      · exact h.reply
      · exact h.startMove

theorem execHostMigrationRequest_memWf {part vpage : Nat} {s : State} (h : s.memWf) : (execHostMigrationRequest part vpage s).memWf :=
  h.smivik fun _ ha => ha.hostRequest

theorem Memory.movePage_wf {m : Memory} {src dst : Nat} (h : m.wf = true) : (m.movePage src dst).wf = true :=
  Memory.foldl_wf (Memory.copySpan_wf _ _ _ _ h) fun _ _ hx => Memory.addPoison_wf _ _ _ hx

theorem execMoveComplete_memWf {part vpage : Nat} {s : State} (h : s.memWf) : (execMoveComplete part vpage s).memWf := by
  unfold execMoveComplete
  split
  · split
    · exact .next h
    · extract_lets dst mem d' d'1 s1 s2 s3 s4
      have hmem : mem.wf = true := by
        unfold mem
        split
        · exact Memory.eraseSpan_wf _ _ _ h.mem
        · exact Memory.movePage_wf h.mem
      have hs1 : s1.memWf := h.setMem (Memory.setNum_wf _ _ _ hmem)
      have hs2 : s2.memWf := hs1.controlAsks.controlAsks.controlAsks
      have hs3 : s3.memWf := hs2.modDir.shootdown
      have hs4 : s4.memWf := by
        unfold s4
        split
        · exact hs3.reply
        · exact hs3
      exact .next hs4.retryHeld
  · exact .next h

theorem execPinExpiry_memWf {part vpage : Nat} {s : State} (h : s.memWf) : (execPinExpiry part vpage s).memWf := by
  unfold execPinExpiry
  split
  · split
    · exact .next h
    · exact .next (h.setMem (Memory.setNum_wf _ _ _ h.mem)).controlAsks.modDir.shootdown
  · exact .next h

theorem State.memWf.setThrash {s : State} {part n w t : Nat} (h : s.memWf) : (s.setThrash part n w t).memWf := by
  unfold State.setThrash
  refine .next ?_
  split
  · exact .reply (h.modPart fun _ hp => hp)
  · exact h.reply

theorem execThrashParameters_memWf {part n w t : Nat} {s : State} (h : s.memWf) : (execThrashParameters part n w t s).memWf :=
  h.smivik fun _ ha => ha.setThrash

theorem execPinnedRemoteService_memWf {k : Nat} {s : State} (h : s.memWf) : (execPinnedRemoteService k s).memWf := by
  unfold execPinnedRemoteService
  split
  · exact .next h
  · split
    · exact .next h
    · extract_lets s1
      have hs1 : s1.memWf := h
      split
      · exact .next hs1
      · split
        · exact .next hs1
        · extract_lets bad y z
          have hy : y.1.memWf := hs1.presentLane
          have hz : z.1.memWf := hy.restAccess
          split
          · exact .next hs1.dropAccess.resume
          · clear_value z
            split
            · refine .next ?_
              split
              · exact hz.budgetTrap
              · exact hz.resume
            · exact .next hz.resume

theorem State.memWf.arriveBase {s : State} {kind : Nat} {q : BaseRequest} (h : s.memWf) : (s.arriveBase kind q).memWf := by
  unfold State.arriveBase
  split
  · split
    · exact h
    · exact h.takeRequest
  · exact h.takeRequest

theorem State.memWf.retryGen {s : State} {f : BaseFlight} (h : s.memWf) : (s.retryGen f).memWf := by
  unfold State.retryGen
  extract_lets table
  split
  · exact h
  · split
    · exact h.takeRequest
    · exact h

theorem State.memWf.endRewrite {s : State} {w : Rewrite} (h : s.memWf) : (s.endRewrite w).memWf := by
  unfold State.endRewrite
  extract_lets old s1
  have hs1 : s1.memWf := ⟨h.mem, h.groups, Bank.forall_mem_map h.dies fun _ hx => hx, h.partitions⟩
  refine .reply ?_
  refine .askBases ?_
  refine hs1.foldl fun _ _ ht => ?_
  split
  · exact ht.takeRequest
  · exact ht

theorem State.memWf.finishRewrite {s : State} (h : s.memWf) : s.finishRewrite.memWf := by
  unfold State.finishRewrite
  split
  · exact h
  · extract_lets idle dies bases w1
    split
    · exact h.endRewrite
    · refine ⟨h.mem, h.groups, ?_, h.partitions⟩
      refine Bank.forall_mem_mapIdx h.dies fun _ _ hx1 => ?_
      split <;> exact hx1

theorem execRegionTableRewrite_memWf {entries : List RegionEntry} {s : State} (h : s.memWf) : (execRegionTableRewrite entries s).memWf := by
  unfold execRegionTableRewrite
  split
  · exact .next h.reply
  · exact .next (.finishRewrite h)

theorem execRd_memWf {q : BaseRequest} {s : State} (h : s.memWf) : (execRd q s).memWf := .next h.arriveBase

theorem execWr_memWf {q : BaseRequest} {s : State} (h : s.memWf) : (execWr q s).memWf := .next h.arriveBase

theorem execWrm_memWf {q : BaseRequest} {s : State} (h : s.memWf) : (execWrm q s).memWf := .next h.arriveBase

theorem State.memWf.answerFlight {s : State} {stack : Nat} {f : BaseFlight} (h : s.memWf) : (s.answerFlight stack f).memWf := h.modBase

theorem State.memWf.serve {s : State} {stack : Nat} {f : BaseFlight} (h : s.memWf) : (s.serve stack f).memWf := by
  unfold State.serve
  extract_lets s1
  have hs1 : s1.memWf := h.answerFlight
  refine .finishRewrite ?_
  split
  · exact hs1.retryGen
  · exact hs1

theorem execRdr_memWf {stack port tag : Nat} {s : State} (h : s.memWf) : (execRdr stack port tag s).memWf := by
  unfold execRdr
  split
  · exact .next h
  · exact .next h.serve

theorem execWack_memWf {stack port tag : Nat} {s : State} (h : s.memWf) : (execWack stack port tag s).memWf := by
  unfold execWack
  split
  · exact .next h
  · exact .next h.serve

theorem execScrub_memWf {stack line : Nat} {s : State} (h : s.memWf) : (execScrub stack line s).memWf := .next h.modBase

/-! ### Partitions -/

theorem blankClusters_wf : ∀ m ∈ blankClusters.cells, m.wf = true := Bank.forall_mem_all Memory.blank_wf

theorem Die.memWf.emptied {gids : List Nat} {d : Die} : (Die.emptied gids d).memWf := ⟨Memory.blank_wf, blankClusters_wf⟩

theorem State.memWf.modDies {s : State} {dies : List Nat} {f : Die → Die} (h : s.memWf) (hf : ∀ (d : Die), d.memWf → (f d).memWf) :
    (s.modDies dies f).memWf := by
  unfold State.modDies
  refine ⟨h.mem, h.groups, ?_, h.partitions⟩
  refine Bank.forall_mem_mapIdx h.dies fun _ _ hx => ?_
  split
  · exact hf _ hx
  · exact hx

theorem State.memWf.endPartition {s : State} {part : Nat} (h : s.memWf) : (s.endPartition part).memWf := by
  unfold State.endPartition
  split
  · exact h
  · rename_i x _ _
    extract_lets gids x1 s1
    have hx1 : x1.memWf := h.modDies fun _ _ => .emptied
    have hs1 : s1.memWf := by
      unfold s1
      split
      · exact hx1
      · exact h
    exact ⟨hs1.mem, fun x hx => hs1.groups x (List.mem_filter.mp hx).1, hs1.dies, fun x hx => hs1.partitions x (List.mem_filter.mp hx).1⟩

theorem State.memWf.endTorn {s : State} (h : s.memWf) : s.endTorn.memWf := h.foldl fun _ _ ht => ht.endPartition

theorem newPartition_memWf {c : PartitionCommand} {resident : Bool} : (newPartition c resident).memWf :=
  ⟨List.forall_mem_map.2 fun _ _ => Memory.blank_wf, List.forall_mem_map.2 fun _ _ => blankClusters_wf⟩

theorem execPartitionCreate_memWf {port : Nat} {c : PartitionCommand} {s : State} (h : s.memWf) : (execPartitionCreate port c s).memWf := by
  unfold execPartitionCreate
  refine h.smivikHeld fun _ ha => ?_
  split
  · extract_lets resident s1 s2
    have hs1 : s1.memWf := ⟨Memory.zeroSpan_wf _ _ _ ha.mem, ha.groups, ha.dies, List.forall_mem_append.2 ⟨ha.partitions, List.forall_mem_cons.2 ⟨newPartition_memWf, List.forall_mem_nil _⟩⟩⟩
    have hs2 : s2.memWf := by
      unfold s2
      split
      · exact hs1.modDies fun _ _ => .emptied
      · exact hs1
    exact .next hs2.reply
  · exact .next ha.reply

theorem execPartitionTeardown_memWf {port part : Nat} {s : State} (h : s.memWf) : (execPartitionTeardown port part s).memWf := by
  unfold execPartitionTeardown
  refine h.smivikHeld fun _ ha => ?_
  split
  · exact .next ha.reply
  · extract_lets s1 s2 s3
    have hs1 : s1.memWf := ha.cancelWhere
    have hs2 : s2.memWf := hs1.modPart fun _ hp1 => hp1
    have hs3 : s3.memWf := by
      unfold s3
      split
      · exact hs2.endTorn
      · exact hs2.endPartition
    exact .next hs3.reply

theorem Slice.memWf.halt {sl : Slice} (h : sl.memWf) : sl.halt.memWf := by
  unfold Slice.halt
  extract_lets x sl1
  have hx : x.memWf := h.foldl fun _ _ hx1 => hx1.deliver
  have hsl1 : sl1.memWf := hx.frame rfl
  split
  · exact .abortTx (hsl1.abandon.frame rfl)
  · exact .abortTx (hsl1.frame rfl)
  · exact hsl1

theorem Group.memWf.writeBack {g : Group} {page : Nat} (h : g.memWf) : (g.writeBack page).memWf := by
  unfold Group.writeBack
  extract_lets lines
  exact ⟨Memory.eraseSpan_wf _ _ _ h.scr, Memory.foldl_wf h.backing fun _ _ hx => Memory.movePart_wf _ _ hx, h.slices, h.shadows⟩

theorem Group.memWf.vaultPage {owes : Nat → Bool} {g : Group} {page : Nat} (h : g.memWf) : (Group.vaultPage owes g page).memWf := by
  unfold Group.vaultPage
  extract_lets away
  have haway : away.memWf := by
    unfold away
    split
    · exact h.unpin
    · exact h.writeBack
  split
  · exact h
  · split
    · exact haway
    · exact h.unpin
  · exact haway

theorem Group.memWf.haltPair {g : Group} {i : Nat} (h : g.memWf) : (g.haltPair i).memWf :=
  .followSlice ⟨h.scr, h.backing, forall_mem_modify h.slices fun _ hx => hx.halt, h.shadows⟩

theorem Group.memWf.vault {owes : Nat → Bool} {g : Group} (h : g.memWf) : (Group.vault owes g).memWf :=
  .foldl (.foldl (h.foldl fun _ _ hx => hx.haltPair) fun _ _ hx => hx.vaultPage) fun _ _ hx => hx.divide

theorem State.memWf.swapOut {s : State} {p : Partition} (h : s.memWf) : (s.swapOut p).memWf := by
  unfold State.swapOut
  extract_lets dies gids s1 s2 s3 s4 x
  have hs1 : s1.memWf := by
    unfold s1
    refine h.foldl fun _ _ ht => ?_
    refine ht.foldl fun _ _ ht1 => ?_
    split
    · exact ht1.dropWakes
    · exact ht1
  have hs2 : s2.memWf := hs1.foldl fun _ _ ht => ht.haltMint
  have hs3 : s3.memWf := by
    unfold s3
    refine ⟨hs2.mem, ?_, hs2.dies, hs2.partitions⟩
    refine List.forall_mem_map.2 fun _ hx => ?_
    split
    · exact (hs2.groups _ hx).vault
    · exact hs2.groups _ hx
  have hs4 : s4.memWf := hs3.modPart fun _ _ => ⟨List.forall_mem_map.2 fun _ _ => hs3.die.chp, List.forall_mem_map.2 fun _ _ => hs3.die.cls⟩
  have hx : x.memWf := hs4.modDies fun _ _ => .emptied
  exact hx

theorem State.memWf.finishSwaps {s : State} (h : s.memWf) : s.finishSwaps.memWf := by
  unfold State.finishSwaps
  refine h.foldl fun _ _ ht => ?_
  split
  · exact ht.swapOut
  · exact ht

theorem execPreempt_memWf {part : Nat} {s : State} (h : s.memWf) : (execPreempt part s).memWf := by
  unfold execPreempt
  split
  · refine .next ?_
    split
    · split
      · exact h.swapOut
      · exact h.modPart fun _ hp1 => hp1
    · exact h
  · exact .next h

theorem Group.whole_wf {g : Group} : g.whole.wf = true := Memory.foldl_wf Memory.blank_wf fun _ _ hx => Memory.movePart_wf _ _ hx

theorem Group.memWf.resumed {g : Group} (h : g.memWf) : g.resumed.memWf := ⟨h.scr, h.backing, List.forall_mem_map.2 h.slices, h.shadows⟩

theorem Partition.memWf.restoreDie {p : Partition} {n : Nat} {d : Die} (h : p.memWf) : (p.restoreDie n d).memWf :=
  ⟨getD_find?_snd (P := fun m => Memory.wf m = true) h.savedChp Memory.blank_wf,
    getD_find?_snd (P := fun (b : Bank Memory 12) => ∀ m ∈ b.cells, m.wf = true) h.savedCls blankClusters_wf⟩

theorem State.memWf.rereadCore {s : State} {c : CoreRef} (h : s.memWf) : (s.rereadCore c).memWf := h.modCore.rereadMint

theorem State.memWf.swapIn {s : State} {p : Partition} (h : s.memWf) (hp : p.memWf) : (s.swapIn p).memWf := by
  unfold State.swapIn
  extract_lets dies s1 s2 s3
  have hs1 : s1.memWf := by
    unfold s1
    refine ⟨h.mem, ?_, ?_, h.partitions⟩
    · refine List.forall_mem_map.2 fun _ hx => ?_
      split
      · exact (h.groups _ hx).resumed
      · exact h.groups _ hx
    · refine Bank.forall_mem_mapIdx h.dies fun _ _ hx => ?_
      split
      · exact hp.restoreDie
      · exact hx
  have hs2 : s2.memWf := hs1.modPart fun _ _ => ⟨List.forall_mem_nil _, List.forall_mem_nil _⟩
  have hs3 : s3.memWf := hs2.foldl fun _ _ ht => ht.rereadCore
  exact hs3.foldl fun _ _ ht => ht.refillWanted

theorem execResume_memWf {part : Nat} {s : State} (h : s.memWf) : (execResume part s).memWf := by
  unfold execResume
  split
  · rename_i e
    refine .next ?_
    split
    · exact h
    · exact h.swapIn (h.part? _ e)
  · exact .next h

theorem execRoutineSlotLoad_memWf {port part slot : Nat} {body : List Word} {s : State} (h : s.memWf) :
    (execRoutineSlotLoad port part slot body s).memWf := by
  unfold execRoutineSlotLoad
  refine h.smivikHeld fun _ ha => ?_
  split
  · exact .next (.reply (ha.modPart fun _ hp => hp))
  · exact .next ha.reply

theorem execLctlWrite_memWf {part : Nat} {at_ : CoreRef} {value : Word} {s : State} (h : s.memWf) : (execLctlWrite part at_ value s).memWf := by
  unfold execLctlWrite
  refine h.smivik fun _ ha => ?_
  split
  · exact .next ha.reply
  · split
    · exact .next ha.reply
    · extract_lets here old v s1
      have hs1 : s1.memWf := ha.modPart fun _ hp1 => hp1
      refine .next ?_
      refine .reply ?_
      split
      · exact hs1.modCore
      · exact hs1

theorem execPeerTableWrite_memWf {part index : Nat} {entry : PeerEntry} {s : State} (h : s.memWf) :
    (execPeerTableWrite part index entry s).memWf := by
  unfold execPeerTableWrite
  refine h.smivik fun _ ha => ?_
  split
  · exact .next (.reply (ha.modPart fun _ hp => hp))
  · exact .next ha.reply

theorem execAcq_memWf {ports : List Nat} {sem : Nat} {s : State} (h : s.memWf) : (execAcq ports sem s).memWf := .next h.acquireSem

theorem execRel_memWf {port sem : Nat} {s : State} (h : s.memWf) : (execRel port sem s).memWf := h.viaPort fun _ ha => .next ha.releaseSem

theorem execPortLinkReset_memWf {port : Nat} {s : State} (h : s.memWf) : (execPortLinkReset port s).memWf := .next h

theorem execRegisterWrite_memWf {port offset : Nat} {value : Word} {s : State} (h : s.memWf) : (execRegisterWrite port offset value s).memWf :=
  h.viaPort fun _ ha => .next ha.barWrite

/-! ### Errors and resets -/

theorem execTimeRefresh_memWf {die : Nat} {tofs trate : Dword} {s : State} (h : s.memWf) : (execTimeRefresh die tofs trate s).memWf := by
  unfold execTimeRefresh
  extract_lets d was g near
  refine .next ?_
  split
  · exact h.modDie fun _ hd1 => hd1
  · exact h

theorem State.memWf.logEntry {s : State} {parts : List Nat} {cause : Nat} {site : Option ErrorSite} (h : s.memWf) :
    (s.logEntry parts cause site).memWf := by
  unfold State.logEntry
  split
  · exact h.modPart fun _ hp => hp
  · exact h

theorem State.memWf.logErrors {s : State} {parts : List Nat} {cause : Nat} {site : Option ErrorSite} (h : s.memWf) :
    (s.logErrors parts cause site).memWf := h.logEntry

theorem Die.memWf.reset {now : Dword} {d : Die} : (Die.reset now d).memWf := .held

theorem State.memWf.resetDie {s : State} {die : Nat} {planned : Bool} (h : s.memWf) : (s.resetDie die planned).memWf := by
  unfold State.resetDie
  extract_lets owned dirty s1 s2 s3
  have hs1 : s1.memWf := h.foldl fun _ _ ht => ht.endPartition
  have hs2 : s2.memWf := hs1.setMem (Memory.foldl_wf hs1.mem fun _ _ hx => Memory.addPoison_wf _ _ _ hx)
  have hs3 : s3.memWf := ⟨hs2.mem, hs2.groups, Bank.forall_mem_map hs2.dies fun _ hx => hx, hs2.partitions⟩
  exact hs3.modDie fun _ _ => .reset

theorem execDieReset_memWf {die : Nat} {planned : Bool} {s : State} (h : s.memWf) : (execDieReset die planned s).memWf := by
  unfold execDieReset
  refine .next ?_
  split
  · exact h
  · exact h.resetDie

theorem State.memWf.rebooted {s : State} (h : s.memWf) : s.rebooted.memWf := State.reset_memWf.setMem h.mem

theorem State.memWf.packageReset {s : State} (h : s.memWf) : s.packageReset.memWf := h.rebooted.reply.reply

theorem Slice.memWf.poisonReg {sl : Slice} {spec lane : Nat} (h : sl.memWf) : (sl.poisonReg spec lane).memWf := by
  unfold Slice.poisonReg
  split <;> exact h.frame rfl

theorem State.memWf.containSlice {s : State} {r : SliceRef} (h : s.memWf) : (s.containSlice r).memWf :=
  .divide (.cancelBy (h.leaveSlots.modSlice fun _ hsl => hsl.record))

theorem State.memWf.containCore {s : State} {c : CoreRef} (h : s.memWf) : (s.containCore c).memWf := by
  unfold State.containCore
  extract_lets refs s1 x
  have hs1 : s1.memWf := by
    unfold s1
    refine h.foldl fun _ _ ht => ?_
    split
    · exact ht.cancelUnit
    · exact ht.containSlice
  exact hs1.unsubscribe.modCore

theorem Group.memWf.poisonScr {g : Group} {off : Nat} (h : g.memWf) : (g.poisonScr off).memWf := by
  unfold Group.poisonScr
  split
  · exact ⟨h.scr, Memory.addPoison_wf _ _ _ h.backing, h.slices, h.shadows⟩
  · exact ⟨Memory.addPoison_wf _ _ _ h.scr, h.backing, h.slices, h.shadows⟩

theorem State.memWf.dropEntry {s : State} {a : ParityEntry} (h : s.memWf) : (s.dropEntry a).memWf := by
  unfold State.dropEntry
  split
  · exact h.modCore
  · exact h.modCore
  · exact h.modPart fun _ hp => hp
  · exact h.modCore
  · exact h.modCore
  · exact h.modMint.rereadMint

theorem State.memWf.strike {s : State} {site : ErrorSite} (h : s.memWf) : (s.strike site).memWf := by
  unfold State.strike
  split
  · exact h.logErrors.setMem (Memory.addPoison_wf _ _ _ h.mem)
  · exact h.logErrors.modGroup fun _ hg => hg.poisonScr
  · exact h.logErrors.modDie fun _ hd => ⟨hd.chp, Bank.forall_mem_modify hd.cls fun _ hx1 => Memory.addPoison_wf _ _ _ hx1⟩
  · exact h.logErrors.modDie fun _ hd => ⟨Memory.addPoison_wf _ _ _ hd.chp, hd.cls⟩
  · exact h.logErrors.modSlice fun _ hsl => hsl.setStore (Memory.addPoison_wf _ _ _ (hsl _))
  · exact h.logErrors.modSlice fun _ hsl => hsl.poisonReg
  · exact h.logErrors.modCore
  · exact h.logErrors.modMint
  · exact h.logErrors.dropEntry
  · exact h.logErrors.containSlice
  · exact h.logErrors.containCore
  · exact h.logErrors.resetDie
  · exact h.logErrors.packageReset

theorem execUncorrectableError_memWf {site : ErrorSite} {s : State} (h : s.memWf) : (execUncorrectableError site s).memWf := .next h.strike

theorem execCorrectedError_memWf {unit structure_ row : Nat} {s : State} (h : s.memWf) : (execCorrectedError unit structure_ row s).memWf := by
  unfold execCorrectedError
  refine .next ?_
  split
  · exact h.modDie fun _ hd => hd
  · exact h.modBase

theorem execErrorCountPoll_memWf {s : State} (h : s.memWf) : (execErrorCountPoll s).memWf := by
  unfold execErrorCountPoll
  extract_lets dies bases t
  have ht : t.memWf := h.foldl fun _ _ ht1 => ht1.logEntry
  exact .next ⟨ht.mem, ht.groups, Bank.forall_mem_map ht.dies fun _ hx => hx, ht.partitions⟩

theorem execModuleCap_memWf {caps : List (Nat × Nat)} {s : State} (h : s.memWf) : (execModuleCap caps s).memWf := by
  unfold execModuleCap
  refine h.smivik fun _ ha => ?_
  extract_lets ok
  clear_value ok
  split
  · exact .next ha.reply
  · exact .next (.reply ha)

theorem execStepControl_memWf {die milliwatts temp : Nat} {s : State} (h : s.memWf) : (execStepControl die milliwatts temp s).memWf := by
  unfold execStepControl
  split
  · exact .next (.packageReset h)
  · exact .next (h.modDie fun _ hd => hd)

theorem execBaseDieThermal_memWf {stack temp : Nat} {s : State} (h : s.memWf) : (execBaseDieThermal stack temp s).memWf := .next h.modBase

/-! ### Boot -/

theorem State.memWf.recover {s : State} {slotB : Bool} {stage err : Nat} (h : s.memWf) : (s.recover slotB stage err).memWf := h

theorem State.memWf.runImage {s : State} {img : List Byte} (h : s.memWf) : (s.runImage img).memWf := h

theorem State.memWf.startDevice {s : State} {slotB : Bool} {boot : BootOutcome} (h : s.memWf) : (s.startDevice slotB boot).memWf := by
  unfold State.startDevice
  split
  · exact h.recover
  · extract_lets s1 x
    have hs1 : s1.memWf := ⟨Memory.eraseSpan_wf _ _ _ h.mem, h.groups, Bank.forall_mem_mapIdx h.dies fun _ _ hx1 => hx1, h.partitions⟩
    have hx : x.memWf := hs1.recover
    split
    · exact hx.frame rfl rfl rfl rfl
    · split <;> exact hs1.frame rfl rfl rfl rfl

theorem State.memWf.boot {s : State} {boot : BootOutcome} (h : s.memWf) : (s.boot boot).memWf := by
  unfold State.boot
  extract_lets go
  have hgo : ∀ (x : Bool) (x' : BootOutcome), (go x x').memWf := fun _ _ => h.runImage.startDevice
  split
  · exact h.recover
  · extract_lets t u
    have ht : t.memWf := hgo _ _
    have hu : u.memWf := by
      unfold u
      split
      · exact hgo _ _
      · exact ht
    split
    · split <;> exact ht
    · exact hu

theorem execControlDieReset_memWf {boot : BootOutcome} {s : State} (h : s.memWf) : (execControlDieReset boot s).memWf := .next h.rebooted.boot

theorem execRecoveryBoot_memWf {port : Nat} {s : State} (h : s.memWf) : (execRecoveryBoot port s).memWf := by
  unfold execRecoveryBoot
  split
  · exact .next h.reply
  · refine .next ?_
    extract_lets x
    have hx : x.memWf := h.reply.rebooted
    exact hx

theorem execFirmwareUpdate_memWf {port : Nat} {image : List Byte} {s : State} (h : s.memWf) : (execFirmwareUpdate port image s).memWf := by
  unfold execFirmwareUpdate
  refine h.smivikHeld fun _ ha => ?_
  extract_lets b s1
  have hs1 : s1.memWf := by
    unfold s1
    split <;> exact ha
  split <;> exact .next (.reply hs1)

theorem execFirmwareCommit_memWf {port : Nat} {s : State} (h : s.memWf) : (execFirmwareCommit port s).memWf := by
  unfold execFirmwareCommit
  refine h.viaPort fun _ ha => ?_
  refine ha.smivik fun _ ha1 => ?_
  split
  · split
    · exact .next (.reply ha1)
    · exact .next ha1.reply
  · exact .next ha1.reply

theorem execAttestationReport_memWf {port : Nat} {nonce : List Byte} {s : State} (h : s.memWf) : (execAttestationReport port nonce s).memWf := by
  unfold execAttestationReport
  refine h.viaPort fun _ ha => ?_
  refine ha.smivik fun _ ha1 => ?_
  split <;> exact .next ha1.reply

theorem State.memWf.serveRead {s : State} {x : HostRead} (h : s.memWf) : (s.serveRead x).memWf := by
  unfold State.serveRead
  refine .tick ?_
  split
  · exact h.reply
  · exact h

end Sys2Proof.Machine
end

section
/-! The fabric and what waits: each operation keeps the canonical form of the memories. -/

namespace Sys2Proof.Machine

/-! ### The fabric -/

theorem State.memWf.modLink {s : State} {n : Nat} {f : Link → Link} (h : s.memWf) : (s.modLink n f).memWf := h

theorem State.memWf.modKept {s : State} {dst seq : Nat} {f : Kept → Kept} (h : s.memWf) : (s.modKept dst seq f).memWf := h

theorem State.memWf.transmit {s : State} {k : Kept} {old : Option (List (Nat × Nat))} (h : s.memWf) : (s.transmit k old).memWf := by
  unfold State.transmit
  split
  · exact h.modLink.modKept
  · exact h

theorem State.memWf.transmitAll {s : State} (h : s.memWf) : s.transmitAll.memWf := h.foldl fun _ _ ht => ht.transmit

theorem State.memWf.unkeep {s : State} {dst seq : Nat} (h : s.memWf) : (s.unkeep dst seq).memWf := h

theorem actPuts_memWf {c : Ctx} {s : State} (h : s.memWf) : (actPuts c s).1.memWf := by
  unfold actPuts
  extract_lets f g len dst sp src dec counter traps
  split
  · exact h
  · split
    · exact h
    · exact h.postCopy

theorem State.memWf.mapCopies {s : State} {at_ : CoreRef} {f : List Copy → List Copy} (h : s.memWf) : (s.mapCopies at_ f).memWf := by
  unfold State.mapCopies
  extract_lets s1
  have hs1 : s1.memWf := h.modCore
  exact ⟨hs1.mem, hs1.groups, hs1.dies, List.forall_mem_map.2 hs1.partitions⟩

theorem State.memWf.failPuts {s : State} {at_ : CoreRef} {id : Nat} {a : Dword} (h : s.memWf) : (s.failPuts at_ id a).memWf := by
  unfold State.failPuts
  split
  · exact h
  · exact h.mapCopies.addReport

theorem State.memWf.ackPuts {s : State} {at_ : CoreRef} {id n : Nat} (h : s.memWf) : (s.ackPuts at_ id n).memWf := by
  unfold State.ackPuts
  split
  · exact h
  · exact h.mapCopies

theorem State.memWf.sendPuts {s : State} {at_ : CoreRef} {c : Copy} (h : s.memWf) : (s.sendPuts at_ c).memWf := by
  unfold State.sendPuts
  split
  · extract_lets dst ref counted off n
    have hcounted : ∀ (t : State), t.memWf → (counted t).memWf := fun _ ht => ht.modCopy
    split
    · exact .next h
    · split
      · split
        · exact .next h.failPuts
        · split
          · exact .next h
          · exact .next (hcounted _ h.send)
      · split
        · exact .next h.failPuts
        · split
          · rename_i e
            exact .next (h.copyWaits.of_pair e)
          · rename_i e
            split
            · rename_i e1
              exact .next ((h.copyWaits.of_pair e).sidePlaces.of_pair e1).stopCopy
            · rename_i e2
              exact .next (hcounted _ ((h.copyWaits.of_pair e).sidePlaces.of_pair e2).send)
  · exact .next h

theorem execCopyLineLands_memWf {at_ : CoreRef} {id piece : Nat} {s : State} (h : s.memWf) : (execCopyLineLands at_ id piece s).memWf := by
  unfold execCopyLineLands
  split
  · exact .next h
  · split
    · exact .next h.landMcast
    · exact h.sendPuts
    · exact h.landPiece

theorem State.memWf.modGetr {s : State} {r : SliceRef} {tag : Nat} {f : Getr → Getr} (h : s.memWf) : (s.modGetr r tag f).memWf :=
  h.modSlice fun _ hsl => hsl

theorem State.memWf.sendLane {s : State} {r : SliceRef} {x : Getr} {i : Nat} (h : s.memWf) : (s.sendLane r x i).memWf := by
  unfold State.sendLane
  split
  · exact h.modGetr
  · split
    · exact h
    · exact h.send.modGetr

theorem State.memWf.sendGetr {s : State} {r : SliceRef} {x : Getr} (h : s.memWf) : (s.sendGetr r x).memWf := h.foldl fun _ _ ht => ht.sendLane

theorem actGetr_memWf {c : Ctx} {s : State} (h : s.memWf) : (actGetr c s).1.memWf := by
  unfold actGetr
  extract_lets f sl n ea bad out mis d s1
  have hs1 : s1.memWf := h
  split
  · exact h
  · split
    · exact h
    · split
      · exact h
      · exact .sendGetr (hs1.modSlice fun _ hsl1 => hsl1.makeEmptyN)

theorem State.memWf.answerLane {s : State} {r : SliceRef} {i tag : Nat} {data : List Byte} {poison ok : Bool} (h : s.memWf) :
    (s.answerLane r i tag data poison ok).memWf := h.modGetr

theorem State.memWf.endGetr {s : State} {r : SliceRef} {x : Getr} (h : s.memWf) : (s.endGetr r x).memWf := by
  unfold State.endGetr
  extract_lets gone s1 s2
  have hgone : ∀ (sl' : Slice), sl'.memWf → (gone sl').memWf := fun _ hsl' => hsl'.frame rfl
  have hs1 : s1.memWf := h.modSlice fun _ hsl => hgone _ (hsl.foldl fun _ _ hx1 => hx1.deliver)
  have hs2 : s2.memWf := h.modSlice fun _ hsl => (hgone _ hsl.makeFullN).frame rfl
  split
  · exact h
  · split
    · split
      · exact hs1.acquire
      · exact hs1
    · exact hs2.resume

theorem State.memWf.trySigw {s : State} {r : SliceRef} {a : Dword} {eq : Bool} {target : Dword} {d : Option Nat} {eff : Mask} (h : s.memWf) :
    ∀ x ∈ s.trySigw r a eq target d eff, x.1.memWf := by
  unfold State.trySigw
  split
  · rename_i e
    split
    · extract_lets s2
      have hs2 : s2.memWf := by
        unfold s2
        split
        · exact (h.watch.of_pair e).modSlice fun _ hsl => hsl.setLanesP.setLanesP
        · exact h.watch.of_pair e
      exact forall_mem_some hs2.acquire
    · exact forall_mem_none
  · rename_i e
    exact forall_mem_some (h.watch.of_pair e)

theorem actSigw_memWf {c : Ctx} {s : State} (h : s.memWf) : (actSigw c s).1.memWf := by
  unfold actSigw
  extract_lets a eq target d
  split
  · exact h
  · split
    · exact h
    · split
      · rename_i e
        exact h.trySigw _ e
      · exact parkOrCancel_memWf h

theorem State.memWf.acknowledge {s : State} {k : Kept} {failed : Bool} (h : s.memWf) : (s.acknowledge k failed).memWf := by
  unfold State.acknowledge
  split
  · extract_lets at_
    split
    · exact h.failPuts
    · split
      · exact h.ackPuts
      · exact h
  · split
    · split
      · exact h.answerLane
      · exact h
    · exact h

theorem execPacketAcknowledged_memWf {dst seq : Nat} {failed : Bool} {s : State} (h : s.memWf) : (execPacketAcknowledged dst seq failed s).memWf := by
  unfold execPacketAcknowledged
  split
  · exact .next h.unkeep.acknowledge
  · exact .next h

theorem execPacketRetransmit_memWf {dst seq : Nat} {s : State} (h : s.memWf) : (execPacketRetransmit dst seq s).memWf := by
  unfold execPacketRetransmit
  split
  · refine .next ?_
    split
    · exact h.transmit
    · exact h
  · exact .next h

theorem State.memWf.dropUnreachable {s : State} (h : s.memWf) : s.dropUnreachable.memWf := h.foldl fun _ _ ht => ht.unkeep.acknowledge

theorem State.memWf.repath {s : State} {gone : Kept → List (Nat × Nat) → Bool} (h : s.memWf) : (s.repath gone).memWf := h

theorem execRouteRecompute_memWf {routes : List RouteEntry} {s : State} (h : s.memWf) : (execRouteRecompute routes s).memWf :=
  .next (.transmitAll (.dropUnreachable (.repath h)))

theorem State.memWf.remotePlaces {s : State} {part : Nat} {va : Dword} {n : Nat} {need : Need} {kind : Nat} (h : s.memWf) :
    (s.remotePlaces part va n need kind).1.memWf := by
  unfold State.remotePlaces
  split
  · exact h
  · split <;> rename_i e3 <;> exact h.engineSpan.of_pair e3

theorem State.memWf.writePieces {s : State} {by_ : Option SliceRef} {ps : List (Nat × Nat)} {xs : List (Byte × Bool)} (h : s.memWf) :
    (s.writePieces by_ ps xs).memWf := by
  induction ps generalizing s xs with
  | nil => exact h
  | cons p ps ih =>
    unfold State.writePieces
    exact ih h.writeMarked

theorem State.memWf.sendReply {s : State} {src : Nat} {r : SliceRef} {i tag : Nat} {data : List Byte} {poison ok : Bool} (h : s.memWf) :
    (s.sendReply src r i tag data poison ok).memWf := by
  unfold State.sendReply
  split
  · exact h.answerLane
  · exact h.send

theorem State.memWf.perform {s : State} {p : Packet} (h : s.memWf) : (s.perform p).1.memWf := by
  unfold State.perform
  split
  · split
    · rename_i e
      exact (h.remotePlaces.of_pair e).writePieces
    · rename_i e
      exact h.remotePlaces.of_pair e
  · split
    · exact h
    · split
      · rename_i e
        exact (h.remotePlaces.of_pair e).writePlace
      · rename_i e
        exact h.remotePlaces.of_pair e
      · rename_i e
        exact h.remotePlaces.of_pair e
  · split
    · exact h
    · split
      · rename_i e
        exact (h.remotePlaces.of_pair e).sendReply
      · rename_i e
        exact (h.remotePlaces.of_pair e).sendReply
      · rename_i e
        exact h.remotePlaces.of_pair e
  · exact h.answerLane
  · exact h
  · exact h.jobAnswer

theorem State.memWf.receive {s : State} {p : Packet} (h : s.memWf) : (s.receive p).memWf := by
  unfold State.receive
  extract_lets ack
  have hack : ∀ (t : State), t.memWf → ∀ (x : Bool), (ack t x).memWf := by
    unfold ack
    intro _ ht _
    split
    · split
      · exact ht.unkeep.acknowledge
      · exact ht
    · exact ht
  split
  · rename_i e
    exact hack _ (h.perform.of_pair e) _
  · rename_i e
    exact hack _ (h.perform.of_pair e) _
  · rename_i e
    exact (h.perform.of_pair e).frame rfl rfl rfl rfl

theorem State.memWf.setInflow {s : State} {x : Inflow} (h : s.memWf) : (s.setInflow x).memWf := h

theorem State.memWf.drainInflow {s : State} {src n : Nat} (h : s.memWf) : (s.drainInflow src n).memWf := by
  induction n generalizing s with
  | zero => exact h
  | succ n ih =>
    unfold State.drainInflow
    split
    · exact h
    · extract_lets x
      split
      · exact h
      · exact ih h.setInflow.receive

theorem State.memWf.retryPacket {s : State} {p : Packet} {b : Block} (h : s.memWf) : (s.retryPacket p b).memWf := by
  unfold State.retryPacket
  extract_lets part out fail full s1
  have hout : out.memWf := h.frame rfl rfl rfl rfl
  have hfail : ∀ (t : State), t.memWf → (fail t).memWf := by
    unfold fail
    intro _ ht
    split
    · exact ht.sendReply
    · exact ht
  have hs1 : s1.memWf := hfail _ hout
  split
  · exact h
  · split
    · split
      · split
        · exact hs1.unkeep.acknowledge
        · exact hs1
      · exact hs1
    · split
      · exact hout.receive
      · exact h

theorem execPacketArrival_memWf {p : Packet} {s : State} (h : s.memWf) : (execPacketArrival p s).memWf := by
  unfold execPacketArrival
  split
  · exact .next h
  · extract_lets drained x y
    have hdrained : ∀ (t : State), t.memWf → (drained t).memWf := fun _ ht => ht.drainInflow
    split
    · exact .next (hdrained _ h.retryPacket)
    · split
      · exact .next h
      · split
        · exact .next (hdrained _ h.setInflow)
        · exact .next (hdrained _ h.setInflow.receive)

theorem execFlitReceive_memWf {link : Nat} {flit : Flit} {s : State} (h : s.memWf) : (execFlitReceive link flit s).memWf := by
  unfold execFlitReceive
  extract_lets k k1
  split
  · exact .next h
  · split
    · exact .next h.modLink
    · split
      · exact .next h.modLink.transmitAll
      · exact .next h.modLink

theorem execLinkRetrain_memWf {link : Nat} {s : State} (h : s.memWf) : (execLinkRetrain link s).memWf := by
  unfold execLinkRetrain
  refine .next ?_
  split
  · exact h.modLink
  · exact h

theorem execRetrainComplete_memWf {link : Nat} {ok : Bool} {peer : Nat} {s : State} (h : s.memWf) : (execRetrainComplete link ok peer s).memWf := by
  unfold execRetrainComplete
  extract_lets k s1
  have hs1 : s1.memWf := h.modLink
  split
  · exact .next h
  · split
    · exact .next h.modLink.transmitAll
    · split
      · exact .next h.modLink
      · exact .next hs1.repath.transmitAll

theorem execLinkBringUp_memWf {link : Nat} {s : State} (h : s.memWf) : (execLinkBringUp link s).memWf := by
  unfold execLinkBringUp
  refine h.smivik fun _ ha => ?_
  extract_lets k x
  split
  · exact .next ha.reply
  · exact .next ha.modLink.reply

theorem State.memWf.holdPackets {s : State} (h : s.memWf) : s.holdPackets.memWf := h

theorem execUcieRetrain_memWf {link : Nat} {s : State} (h : s.memWf) : (execUcieRetrain link s).memWf := .next (.holdPackets h)

theorem execUcieRetrainEnd_memWf {link : Nat} {s : State} (h : s.memWf) : (execUcieRetrainEnd link s).memWf :=
  .next (.holdPackets ⟨h.mem, h.groups, h.dies, List.forall_mem_map.2 h.partitions⟩)

theorem execCxlMemRead_memWf {port pa bytes : Nat} {s : State} (h : s.memWf) : (execCxlMemRead port pa bytes s).memWf := by
  unfold execCxlMemRead
  split
  · exact .next h
  · exact .next (.reply (h.foldl fun _ _ ht => ht.recall.l2Touch))

theorem execCxlMemWrite_memWf {port pa : Nat} {data : List Byte} {poison : Bool} {s : State} (h : s.memWf) :
    (execCxlMemWrite port pa data poison s).memWf := by
  unfold execCxlMemWrite
  split
  · exact .next h
  · exact .next (.writePhys h)

theorem execBackInvalidateResponse_memWf {k : Nat} {s : State} (h : s.memWf) : (execBackInvalidateResponse k s).memWf := .next h

/-! ### Lanes across a gang -/

theorem gangWrite_memWf {put : Ctx → State → State} {cs : List Ctx} {s : State}
    (h : s.memWf) (hput : ∀ (c : Ctx) (t : State), t.memWf → (put c t).memWf) :
    (gangWrite put cs s).s.memWf := h.foldl fun _ _ ht => hput _ _ ht

theorem runLxch_memWf {cs : List Ctx} {s : State} (h : s.memWf) : (runLxch cs s).s.memWf := by
  unfold runLxch
  extract_lets ls part put
  have hput : ∀ (c' : Ctx) (t' : State), t'.memWf → (put c' t').memWf := by
    unfold put
    intro _ _ ht'
    extract_lets x n k t
    have ht : t.memWf := writeLanes_memWf ht'
    split
    · exact ht
    · exact writeMaskLanes_memWf ht
  exact gangWrite_memWf h hput

theorem runPoll_memWf {cs : List Ctx} {s : State} (h : s.memWf) : (runPoll cs s).s.memWf := gangWrite_memWf h fun _ _ ht => writeLanes_memWf ht

theorem runGfold_memWf {cs : List Ctx} {s : State} (h : s.memWf) : (runGfold cs s).s.memWf := by
  unfold runGfold
  split
  · exact h
  · exact gangWrite_memWf h fun _ _ ht => writeLanes_memWf ht

/-! ### Time and what waits -/

theorem Die.memWf.advance {d : Die} {nanos rate : Nat} (h : d.memWf) : (d.advance nanos rate).memWf := h

theorem Slice.memWf.elapse {n : Nat} {sl : Slice} (h : sl.memWf) : (Slice.elapse n sl).memWf := h

theorem Group.memWf.noteWait {clock : Nat} {g : Group} (h : g.memWf) : (Group.noteWait clock g).memWf := h

theorem State.memWf.passTime {s : State} (h : s.memWf) : s.passTime.memWf := by
  unfold State.passTime
  refine ⟨h.mem, ?_, ?_, h.partitions⟩
  · refine List.forall_mem_map.2 fun _ hx => ?_
    split
    · exact h.groups _ hx
    · refine ⟨(h.groups _ hx).scr, (h.groups _ hx).backing, ?_, (h.groups _ hx).shadows⟩
      refine forall_mem_mapIdx (h.groups _ hx).slices fun _ _ hx1 => ?_
      split
      · exact hx1.elapse
      · exact hx1
  · refine Bank.forall_mem_mapIdx h.dies fun _ _ hx => ?_
    split
    · exact hx
    · extract_lets x1
      have hx1 : x1.memWf := hx.advance
      exact hx1

theorem State.memWf.stopHead {s : State} {at_ : CoreRef} {gone : Nat → Bool} (h : s.memWf) : (s.stopHead at_ gone).memWf := by
  unfold State.stopHead
  extract_lets k
  split
  · split
    · extract_lets g
      split
      · exact h.modCore
      · exact h
    · exact h
  · exact h

theorem State.memWf.dropMatrix {s : State} {at_ : CoreRef} {gone : Nat → Bool} (h : s.memWf) : (s.dropMatrix at_ gone).memWf := by
  unfold State.dropMatrix
  extract_lets s1 cs s2
  have hs1 : s1.memWf := h.stopHead
  have hs2 : s2.memWf := hs1.modCore
  refine hs2.foldl fun _ _ ht => ?_
  split
  · exact ht.modSlice fun _ hsl => hsl.makeFullN
  · exact ht

theorem State.memWf.dropCopies {s : State} {at_ : CoreRef} {gone : Nat → Bool} (h : s.memWf) : (s.dropCopies at_ gone).memWf := h.modCore

theorem State.memWf.dropCancelled {s : State} (h : s.memWf) : s.dropCancelled.memWf := by
  unfold State.dropCancelled
  extract_lets uids cores
  split
  · exact h
  · exact h.foldl fun _ _ ht => ht.dropCopies.dropMatrix.dropMint

theorem State.memWf.tried {s : State} {r : SliceRef} {next : Dword} {a : Option (State × Fate)} (h : s.memWf) (ha : ∀ x ∈ a, x.1.memWf) :
    (s.tried r next a).memWf := by
  unfold State.tried
  split
  · extract_lets u
    have hu : u.memWf := (ha _ rfl).resume
    split
    · exact h
    · exact hu
  · exact h

theorem State.memWf.tryDrain {s : State} {r : SliceRef} {then_ : Option (Dword × Trap)} (h : s.memWf) : (s.tryDrain r then_).memWf := by
  unfold State.tryDrain
  split
  · exact h
  · split
    · exact h.resume
    · exact .divide (h.modSlice fun _ hsl => hsl)

theorem State.memWf.tryWait {s : State} {r : SliceRef} (h : s.memWf) : (s.tryWait r).memWf := by
  unfold State.tryWait
  extract_lets g sl
  generalize sl.wait = o
  cases o with
  | none => exact h
  | some w =>
    cases w with
    | bwait a t eff next =>
      dsimp only
      split
      · rename_i e
        exact h.absentAmong.of_pair e
      · rename_i e
        exact State.memWf.tried (h.absentAmong.of_pair e) (h.absentAmong.of_pair e).tryBwait
    | cseal d eff next => exact h.tried h.tryCseal
    | cwait n eff next => exact h.tried h.tryCwait
    | sppin a b t next =>
      dsimp only
      split
      · exact h.resume
      · exact h.refillPages
    | mbatch eff barrier d next => exact h.tried h.tryMbatch
    | mwait n eff next => exact h.tried h.tryMwait
    | mnwait eff next => exact h.tried h.tryMnwait
    | jwaitCounter a eff next => exact h.tried h.tryJwait
    | twait a tile d eff next => exact h.tried h.tryTwait
    | sigw a eq target d eff next => exact h.tried h.trySigw
    | release lines acquires next =>
      dsimp only
      split
      · exact h
      · split
        · exact h.acquire.resume
        · exact h.resume
    | leaseReq =>
      dsimp only
      split
      · exact h.resume
      · exact h
    | abortDrain t => exact h.tryDrain
    | restartDrain => exact h.tryDrain
    | _ => exact h

theorem State.memWf.tryRegang {s : State} {gid k : Nat} (h : s.memWf) : (s.tryRegang gid k).memWf := by
  unfold State.tryRegang
  extract_lets g ws s1
  have hs1 : s1.memWf := h.foldl fun _ _ ht => ht.modSlice fun _ hsl => hsl.frame rfl
  clear_value ws
  split
  · exact h
  · split
    · exact h
    · extract_lets x here info
      split
      · exact .modGang (h.foldl fun _ _ ht => ht.modSlice fun _ hsl => hsl.frame rfl)
      · exact hs1.foldl fun _ _ ht => ht.resume

theorem State.memWf.pushOne {s : State} {gid n : Nat} {is : List Nat} (h : s.memWf) : ∀ t ∈ s.pushOne gid n is, t.memWf := by
  induction is generalizing s with
  | nil => exact forall_mem_none
  | cons i is ih =>
    unfold State.pushOne
    split
    · split
      · rename_i e
        exact forall_mem_some (.resume (.modQueue (.of_pair_some h.tryPush_some e)))
      · rename_i e
        exact ih (h.tryPush.of_pair e)
    · exact ih h

theorem State.memWf.popOne {s : State} {gid n : Nat} (h : s.memWf) : ∀ x ∈ s.popOne gid n, x.memWf := by
  unfold State.popOne
  split
  · exact forall_mem_none
  · split
    · split
      · rename_i e
        exact forall_mem_some (.resume (.modQueue (.of_pair_some h.tryPop_some e)))
      · exact forall_mem_none
    · exact forall_mem_none

theorem State.memWf.serveQueue {gid n fuel : Nat} {s : State} (h : s.memWf) : (State.serveQueue gid n fuel s).memWf := by
  induction fuel generalizing s with
  | zero => exact h
  | succ fuel ih =>
    unfold State.serveQueue
    split
    · rename_i e
      exact ih (h.popOne _ e)
    · split
      · rename_i e
        exact ih (h.pushOne _ e)
      · exact h

theorem State.memWf.refillQueue {s : State} {gid n : Nat} (h : s.memWf) : (s.refillQueue gid n).memWf := by
  unfold State.refillQueue
  extract_lets q s1
  have hs1 : s1.memWf := by
    unfold s1
    split
    · exact h
    · exact h.absentAmong
  split
  · exact hs1
  · exact hs1.absentAmong

theorem State.memWf.serveQueues {s : State} {gid : Nat} (h : s.memWf) : (s.serveQueues gid).memWf := by
  unfold State.serveQueues
  refine h.foldl fun _ _ ht => ?_
  extract_lets q
  split
  · exact ht
  · exact ht.serveQueue.refillQueue

theorem State.memWf.tryGroup {s : State} {gid : Nat} (h : s.memWf) : (s.tryGroup gid).memWf := by
  unfold State.tryGroup
  extract_lets g s1
  have hs1 : s1.memWf := by
    unfold s1
    split
    · exact h.releaseGsync
    · exact h
  split
  · exact h
  · split
    · exact hs1.hbarTry
    · exact hs1

theorem State.memWf.tryWaits {s : State} (h : s.memWf) : s.tryWaits.memWf := by
  unfold State.tryWaits
  extract_lets s1 s2
  have hs1 : s1.memWf := h.foldl fun _ _ ht => ht.tryWait
  have hs2 : s2.memWf := hs1.foldl fun _ _ ht => .tryGroup (.serveQueues (ht.foldl fun _ _ ht1 => ht1.tryRegang))
  refine hs2.foldl fun _ _ ht => ?_
  split
  · exact ht.releaseJwait
  · exact ht

theorem State.memWf.tryGetrs {s : State} (h : s.memWf) : s.tryGetrs.memWf := by
  unfold State.tryGetrs
  refine h.foldl fun _ _ ht => ?_
  refine ht.foldl fun _ _ ht1 => ?_
  refine ht1.foldl fun _ _ ht2 => ?_
  extract_lets r now s1
  have hs1 : s1.memWf := by
    unfold s1
    split
    · split
      · exact ht2
      · exact ht2.sendGetr
    · exact ht2
  split
  · split
    · exact hs1
    · exact hs1.endGetr
  · exact hs1

theorem State.memWf.judgeAll {s : State} (h : s.memWf) : s.judgeAll.memWf :=
  h.foldl fun _ _ ht => ht.foldl fun _ _ ht1 => ht1.foldl fun _ _ ht2 => ht2.judgeMcast

theorem State.memWf.dropOwners {s : State} (h : s.memWf) : s.dropOwners.memWf := by
  unfold State.dropOwners
  refine h.foldl fun _ _ ht => ?_
  refine ht.foldl fun _ _ ht1 => ?_
  extract_lets k
  split
  · exact ht1.modCore
  · exact ht1

theorem State.memWf.noteWaits {s : State} (h : s.memWf) : s.noteWaits.memWf := by
  unfold State.noteWaits
  refine ⟨h.mem, ?_, h.dies, h.partitions⟩
  refine List.forall_mem_map.2 fun _ hx => ?_
  split
  · exact h.groups _ hx
  · exact (h.groups _ hx).noteWait

theorem State.memWf.settle {s : State} (h : s.memWf) : s.settle.memWf := by
  unfold State.settle
  extract_lets before s1 s2
  have hs1 : s1.memWf := by
    unfold s1
    refine .judgeAll ?_
    refine .tryGetrs ?_
    refine .dropCancelled ?_
    refine .sendAnswers ?_
    refine .transmitAll ?_
    refine .retryCounters ?_
    split
    · exact h
    · exact h.passTime
  have hs2 : s2.memWf := hs1.tryWaits.dropOwners.followShadows.finishSwaps.endRuns.noteWaits
  exact hs2.endTorn.finishRewrite.holdPackets.tick

end Sys2Proof.Machine
end

section
/-! Every instruction and event, and the step. -/

namespace Sys2Proof.Machine

theorem execCbr_memWf {p : List Prefix} {w : WForm} {s : State} (h : s.memWf) : (execCbr p w s).memWf := by
  refine issue_memWf h fun cs t ht => ?_
  split
  · exact runCbrGang_memWf ht
  · exact eachSlice_memWf (fun _ _ => actCbr_memWf) ht

theorem execElect_memWf {p : List Prefix} {w : WForm} {s : State} (h : s.memWf) : (execElect p w s).memWf := by
  refine issue_memWf h fun cs t ht => ?_
  split
  · exact runElectGang_memWf ht
  · exact eachSlice_memWf (fun _ _ => actElect_memWf) ht

theorem execIllegalInstructionGroup_memWf {g : RawGroup} {s : State} (h : s.memWf) :
    (execIllegalInstructionGroup g s).memWf := by
  unfold execIllegalInstructionGroup
  split
  · exact .fault _
  · exact .next h.issueRaw

/-- Each instruction is an issue whose action keeps the canonical form; each event has its own lemma. -/
theorem exec_memWf {i : Instr} {s : State} (h : s.memWf) : Outcome.memWf (exec i s) := by
  cases i with
  | nopC => exact issueEach_memWf h fun _ _ => actNop_memWf
  | nop => exact issueEach_memWf h fun _ _ => actNop_memWf
  | movC => exact issueEach_memWf h fun _ _ => actMov_memWf
  | mov => exact issueEach_memWf h fun _ _ => actMov_memWf
  | sel => exact issueEach_memWf h fun _ _ => actSel_memWf
  | iaddC => exact issueEach_memWf h fun _ _ => laneInt_memWf
  | iadd => exact issueEach_memWf h fun _ _ => laneInt_memWf
  | isubC => exact issueEach_memWf h fun _ _ => laneInt_memWf
  | isub => exact issueEach_memWf h fun _ _ => laneInt_memWf
  | imulC => exact issueEach_memWf h fun _ _ => laneInt_memWf
  | imul => exact issueEach_memWf h fun _ _ => laneInt_memWf
  | imulh => exact issueEach_memWf h fun _ _ => laneInt_memWf
  | imad => exact issueEach_memWf h fun _ _ => actImad_memWf
  | idiv => exact issueEach_memWf h fun _ _ => actDivide_memWf
  | irem => exact issueEach_memWf h fun _ _ => actDivide_memWf
  | iminC => exact issueEach_memWf h fun _ _ => laneInt_memWf
  | imin => exact issueEach_memWf h fun _ _ => laneInt_memWf
  | imaxC => exact issueEach_memWf h fun _ _ => laneInt_memWf
  | imax => exact issueEach_memWf h fun _ _ => laneInt_memWf
  | iabs => exact issueEach_memWf h fun _ _ => actIabs_memWf
  | icmp => exact issueEach_memWf h fun _ _ => actIcmp_memWf
  | andC => exact issueEach_memWf h fun _ _ => laneLogic_memWf
  | and => exact issueEach_memWf h fun _ _ => laneLogic_memWf
  | orC => exact issueEach_memWf h fun _ _ => laneLogic_memWf
  | or => exact issueEach_memWf h fun _ _ => laneLogic_memWf
  | xorC => exact issueEach_memWf h fun _ _ => laneLogic_memWf
  | xor => exact issueEach_memWf h fun _ _ => laneLogic_memWf
  | notC => exact issueEach_memWf h fun _ _ => actNot_memWf
  | not => exact issueEach_memWf h fun _ _ => actNot_memWf
  | shlC => exact issueEach_memWf h fun _ _ => laneShift_memWf
  | shl => exact issueEach_memWf h fun _ _ => laneShift_memWf
  | shrC => exact issueEach_memWf h fun _ _ => laneShift_memWf
  | shr => exact issueEach_memWf h fun _ _ => laneShift_memWf
  | sarC => exact issueEach_memWf h fun _ _ => laneShift_memWf
  | sar => exact issueEach_memWf h fun _ _ => laneShift_memWf
  | rot => exact issueEach_memWf h fun _ _ => laneShift_memWf
  | bfx => exact issueEach_memWf h fun _ _ => actBfx_memWf
  | bfi => exact issueEach_memWf h fun _ _ => actBfi_memWf
  | popc => exact issueEach_memWf h fun _ _ => actCount_memWf
  | clz => exact issueEach_memWf h fun _ _ => actCount_memWf
  | brev => exact issueEach_memWf h fun _ _ => actBrev_memWf
  | lea => exact issueEach_memWf h fun _ _ => actLea_memWf
  | lxch => exact issue_memWf h fun _ _ => runLxch_memWf
  | poll => exact issue_memWf h fun _ _ => runPoll_memWf
  | gfold => exact issue_memWf h fun _ _ => runGfold_memWf
  | bperm => exact issueEach_memWf h fun _ _ => actBperm_memWf
  | faddC => exact issueEach_memWf h fun _ _ => laneFloat_memWf
  | fadd => exact issueEach_memWf h fun _ _ => laneFloat_memWf
  | fsubC => exact issueEach_memWf h fun _ _ => laneFloat_memWf
  | fsub => exact issueEach_memWf h fun _ _ => laneFloat_memWf
  | fmulC => exact issueEach_memWf h fun _ _ => laneFloat_memWf
  | fmul => exact issueEach_memWf h fun _ _ => laneFloat_memWf
  | ffma => exact issueEach_memWf h fun _ _ => laneFloat_memWf
  | fminC => exact issueEach_memWf h fun _ _ => actChoose_memWf
  | fmin => exact issueEach_memWf h fun _ _ => actChoose_memWf
  | fmaxC => exact issueEach_memWf h fun _ _ => actChoose_memWf
  | fmax => exact issueEach_memWf h fun _ _ => actChoose_memWf
  | fdiv => exact issueEach_memWf h fun _ _ => laneFloat_memWf
  | fsqrt => exact issueEach_memWf h fun _ _ => laneFloat_memWf
  | frcp => exact issueEach_memWf h fun _ _ => laneFloat_memWf
  | frsq => exact issueEach_memWf h fun _ _ => laneFloat_memWf
  | fexp2 => exact issueEach_memWf h fun _ _ => laneFloat_memWf
  | flog2 => exact issueEach_memWf h fun _ _ => laneFloat_memWf
  | fsin => exact issueEach_memWf h fun _ _ => laneFloat_memWf
  | fcos => exact issueEach_memWf h fun _ _ => laneFloat_memWf
  | fcmp => exact issueEach_memWf h fun _ _ => actFcmp_memWf
  | fclass => exact issueEach_memWf h fun _ _ => actFclass_memWf
  | cvt => exact issueEach_memWf h fun _ _ => actCvt_memWf
  | cvtn => exact issueEach_memWf h fun _ _ => actCvtn_memWf
  | packbx => exact issueEach_memWf h fun _ _ => actPackbx_memWf
  | unpkbx => exact issueEach_memWf h fun _ _ => actUnpkbx_memWf
  | frnd => exact issueEach_memWf h fun _ _ => laneFloat_memWf
  | fscale => exact issueEach_memWf h fun _ _ => actFscale_memWf
  | fdot2 => exact issueEach_memWf h fun _ _ => actFdot_memWf
  | fdot4 => exact issueEach_memWf h fun _ _ => actFdot_memWf
  | idot4 => exact issueEach_memWf h fun _ _ => actIdot4_memWf
  | rsplit => exact issueEach_memWf h fun _ _ => actRsplit_memWf
  | rnext => exact issueEach_memWf h fun _ _ => actRnext_memWf
  | runif => exact issueEach_memWf h fun _ _ => actRunif_memWf
  | iaddx => exact issueEach_memWf h fun _ _ => actIaddx_memWf
  | bra => exact issueEach_memWf h fun _ _ => actBra_memWf
  | brx => exact issueEach_memWf h fun _ _ => actBrx_memWf
  | cbr => exact execCbr_memWf h
  | call => exact issueEach_memWf h fun _ _ => actCall_memWf
  | ret => exact issueEach_memWf h fun _ _ => actRet_memWf
  | split => exact issueEach_memWf h fun _ _ => actSplit_memWf
  | joinC => exact issue_memWf h fun _ _ => eachSlice_memWf fun _ _ => actJoin_memWf
  | join => exact issue_memWf h fun _ _ => eachSlice_memWf fun _ _ => actJoin_memWf
  | loop => exact issueEach_memWf h fun _ _ => actLoop_memWf
  | part => exact issueEach_memWf h fun _ _ => actPart_memWf
  | regang => exact issueEach_memWf h fun _ _ => actRegang_memWf
  | elect => exact execElect_memWf h
  | exitC => exact issueEach_memWf h fun _ _ => actExit_memWf
  | exit => exact issueEach_memWf h fun _ _ => actExit_memWf
  | trap => exact issueEach_memWf h fun _ _ => actTrap_memWf
  | bkpt => exact issueEach_memWf h fun _ _ => actTrap_memWf
  | srd => exact issueEach_memWf h fun _ _ => actSrd_memWf
  | swr => exact issue_memWf h fun _ _ => eachSlice_memWf fun _ _ => actSwr_memWf
  | setfmt => exact issueEach_memWf h fun _ _ => actSetfmt_memWf
  | region => exact issueEach_memWf h fun _ _ => actRegion_memWf
  | yieldC => exact issueEach_memWf h fun _ _ => actYield_memWf
  | yield => exact issueEach_memWf h fun _ _ => actYield_memWf
  | lease => exact issue_memWf h fun _ _ => runLease_memWf
  | leaseq => exact issue_memWf h fun _ _ => runLeaseq_memWf
  | ld => exact issueEach_memWf h fun _ _ => actLoad_memWf
  | st => exact issueEach_memWf h fun _ _ => actStore_memWf
  | ldw => exact issueEach_memWf h fun _ _ => actLoad_memWf
  | ldc => exact issueEach_memWf h fun _ _ => actLoad_memWf
  | stf => exact issueEach_memWf h fun _ _ => actStore_memWf
  | feq => exact issueEach_memWf h fun _ _ => actFeq_memWf
  | feset => exact issueEach_memWf h fun _ _ => actFeset_memWf
  | bwin => exact issueEach_memWf h fun _ _ => actBwin_memWf
  | bwrel => exact issueEach_memWf h fun _ _ => actBwrel_memWf
  | pref => exact issueEach_memWf h fun _ _ => actPref_memWf
  | fence => exact issueEach_memWf h fun _ _ => actFence_memWf
  | lds => exact issueEach_memWf h fun _ _ => actLoad_memWf
  | cpy => exact issueEach_memWf h fun _ _ => actCpy_memWf
  | cpyg => exact issueEach_memWf h fun _ _ => actCpyg_memWf
  | cpyr => exact issueEach_memWf h fun _ _ => actCpyr_memWf
  | cseal => exact issueEach_memWf h fun _ _ => actCseal_memWf
  | cwait => exact issueEach_memWf h fun _ _ => actCwait_memWf
  | qinit => exact issueEach_memWf h fun _ _ => actQinit_memWf
  | qpush => exact issue_memWf h fun _ _ => eachSlice_memWf fun _ _ => actQpush_memWf
  | qpop => exact issue_memWf h fun _ _ => eachSlice_memWf fun _ _ => actQpop_memWf
  | qpeek => exact issue_memWf h fun _ _ => eachSlice_memWf fun _ _ => actQpeek_memWf
  | binit => exact issueEach_memWf h fun _ _ => actBinit_memWf
  | bexp => exact issueEach_memWf h fun _ _ => actBexp_memWf
  | barv => exact issueEach_memWf h fun _ _ => actBarv_memWf
  | bwait => exact issueEach_memWf h fun _ _ => actBwait_memWf
  | gsyncC => exact issue_memWf h fun _ _ => runGsync_memWf
  | gsync => exact issue_memWf h fun _ _ => runGsync_memWf
  | sppin => exact issueEach_memWf h fun _ _ => actSppin_memWf
  | spunp => exact issueEach_memWf h fun _ _ => actSpunp_memWf
  | mcast => exact issueEach_memWf h fun _ _ => actMcast_memWf
  | hbar => exact issue_memWf h fun _ _ => runHbar_memWf
  | mlay => exact issuePost_memWf h fun _ _ => actMlay_memWf
  | mldb => exact issuePost_memWf h fun _ _ => actPost_memWf
  | mlda => exact issuePost_memWf h fun _ _ => actPost_memWf
  | mzero => exact issuePost_memWf h fun _ _ => actPost_memWf
  | mma => exact issuePost_memWf h fun _ _ => actPost_memWf
  | mmam => exact issuePost_memWf h fun _ _ => actMmam_memWf
  | mmask => exact issuePost_memWf h fun _ _ => actMmask_memWf
  | mst => exact issuePost_memWf h fun _ _ => actMst_memWf
  | mldc => exact issuePost_memWf h fun _ _ => actMldc_memWf
  | mtrans => exact issuePost_memWf h fun _ _ => actPost_memWf
  | mgather => exact issuePost_memWf h fun _ _ => actMgather_memWf
  | mbatch => exact issueEach_memWf h fun _ _ => actMbatch_memWf
  | mwait => exact issueEach_memWf h fun _ _ => actMwait_memWf
  | stc => exact issuePost_memWf h fun _ _ => actStc_memWf
  | maccr => exact issueEach_memWf h fun _ _ => actMaccr_memWf
  | mncpl => exact issueEach_memWf h fun _ _ => actMncpl_memWf
  | mnbias => exact issueEach_memWf h fun _ _ => actMnbias_memWf
  | mnclamp => exact issueEach_memWf h fun _ _ => actMnclamp_memWf
  | mnfree => exact issueEach_memWf h fun _ _ => actMnfree_memWf
  | mnbeta => exact issueEach_memWf h fun _ _ => actMnbeta_memWf
  | mnmode => exact issueEach_memWf h fun _ _ => actMnmode_memWf
  | mnsweep => exact issueEach_memWf h fun _ _ => postCount_memWf
  | mnpick => exact issueEach_memWf h fun _ _ => postCount_memWf
  | mnread => exact issueEach_memWf h fun _ _ => actMnread_memWf
  | mnstate => exact issueEach_memWf h fun _ _ => actMnstate_memWf
  | mnwait => exact issueEach_memWf h fun _ _ => actMnwait_memWf
  | mnreset => exact issueEach_memWf h fun _ _ ht => ht.postMint
  | atom => exact issue_memWf h fun _ _ ht => runAtomic_memWf ht fun _ _ => actAtom_memWf
  | atomr => exact issue_memWf h fun _ _ ht => runAtomic_memWf ht fun _ _ => actAtom_memWf
  | atomp => exact issue_memWf h fun _ _ ht => runAtomic_memWf ht fun _ _ => actAtomp_memWf
  | bfins => exact issue_memWf h fun _ _ ht => runAtomic_memWf ht fun _ _ => actBfins_memWf
  | bffcs => exact issue_memWf h fun _ _ ht => runAtomic_memWf ht fun _ _ => actBffcs_memWf
  | bfpls => exact issue_memWf h fun _ _ ht => runAtomic_memWf ht fun _ _ => actBfpls_memWf
  | txb => exact issueEach_memWf h fun _ _ => actTxb_memWf
  | txc => exact issueEach_memWf h fun _ _ => actTxc_memWf
  | txa => exact issueEach_memWf h fun _ _ => actTxa_memWf
  | atomw => exact issue_memWf h fun _ _ ht => runAtomic_memWf ht fun _ _ => actAtomw_memWf
  | spawn => exact issueEach_memWf h fun _ _ => actSpawn_memWf
  | jdec => exact issueEach_memWf h fun _ _ => actJdec_memWf
  | jwait => exact issueEach_memWf h fun _ _ => actJwait_memWf
  | launch => exact issueEach_memWf h fun _ _ => actLaunch_memWf
  | cancel => exact issueEach_memWf h fun _ _ => actCancel_memWf
  | tdone => exact issueEach_memWf h fun _ _ => actTdone_memWf
  | twait => exact issueEach_memWf h fun _ _ => actTwait_memWf
  | prio => exact issueEach_memWf h fun _ _ => actPrio_memWf
  | puts => exact issueEach_memWf h fun _ _ => actPuts_memWf
  | getr => exact issueEach_memWf h fun _ _ => actGetr_memWf
  | sigw => exact issueEach_memWf h fun _ _ => actSigw_memWf
  | illegalInstructionGroup => exact execIllegalInstructionGroup_memWf h
  | loadValueArrival => exact execLoadValueArrival_memWf h
  | feReissue => exact execFeReissue_memWf h
  | retryBudgetExhausted => exact execRetryBudgetExhausted_memWf h
  | faultReplay => exact execFaultReplay_memWf h
  | resolve => exact execResolve_memWf h
  | fail => exact execFail_memWf h
  | pageWalk => exact execPageWalk_memWf h
  | windowRetranslation => exact execWindowRetranslation_memWf h
  | migrationRequest => exact execMigrationRequest_memWf h
  | hostMigrationRequest => exact execHostMigrationRequest_memWf h
  | moveComplete => exact execMoveComplete_memWf h
  | pinExpiry => exact execPinExpiry_memWf h
  | pinnedRemoteService => exact execPinnedRemoteService_memWf h
  | map => exact execMap_memWf h
  | unmap => exact execUnmap_memWf h
  | protect => exact execProtect_memWf h
  | regionTableRewrite => exact execRegionTableRewrite_memWf h
  | rd => exact execRd_memWf h
  | wr => exact execWr_memWf h
  | wrm => exact execWrm_memWf h
  | rdr => exact execRdr_memWf h
  | wack => exact execWack_memWf h
  | scrub => exact execScrub_memWf h
  | copyLineLands => exact execCopyLineLands_memWf h
  | copyResume => exact execCopyResume_memWf h
  | refill => exact execRefill_memWf h
  | unpinWriteback => exact execUnpinWriteback_memWf h
  | matrixCommandExecute => exact execMatrixCommandExecute_memWf h
  | mintCommandExecute => exact execMintCommandExecute_memWf h
  | mintSweep => exact execMintSweep_memWf h
  | mintPickStep => exact execMintPickStep_memWf h
  | labelArrival => exact execLabelArrival_memWf h
  | subscription => exact execSubscription_memWf h
  | clearingTimeout => exact execClearingTimeout_memWf h
  | hbarSlotAdmit => exact execHbarSlotAdmit_memWf h
  | reservationLapse => exact execReservationLapse_memWf h
  | conflict => exact execConflict_memWf h
  | commit => exact execCommit_memWf h
  | leaseActivation => exact execLeaseActivation_memWf h
  | issueSelection => exact execIssueSelection_memWf h
  | gangIdle => exact execGangIdle_memWf h
  | leaseWindowEnd => exact execLeaseWindowEnd_memWf h
  | hostEnqueue => exact execHostEnqueue_memWf h
  | enqueueAreaWaitEnd => exact execEnqueueAreaWaitEnd_memWf h
  | placement => exact execPlacement_memWf h
  | groupCompletion => exact execGroupCompletion_memWf h
  | unitCompletion => exact execUnitCompletion_memWf h
  | tokenRound => exact execTokenRound_memWf h
  | cycleBudget => exact execCycleBudget_memWf h
  | cancelTaken => exact execCancelTaken_memWf h
  | hostCancel => exact execHostCancel_memWf h
  | partitionCreate => exact execPartitionCreate_memWf h
  | partitionTeardown => exact execPartitionTeardown_memWf h
  | preempt => exact execPreempt_memWf h
  | resume => exact execResume_memWf h
  | acq => exact execAcq_memWf h
  | rel => exact execRel_memWf h
  | portLinkReset => exact execPortLinkReset_memWf h
  | routineSlotLoad => exact execRoutineSlotLoad_memWf h
  | thrashParameters => exact execThrashParameters_memWf h
  | lctlWrite => exact execLctlWrite_memWf h
  | peerTableWrite => exact execPeerTableWrite_memWf h
  | registerWrite => exact execRegisterWrite_memWf h
  | timeRefresh => exact execTimeRefresh_memWf h
  | uncorrectableError => exact execUncorrectableError_memWf h
  | correctedError => exact execCorrectedError_memWf h
  | errorCountPoll => exact execErrorCountPoll_memWf h
  | dieReset => exact execDieReset_memWf h
  | controlDieReset => exact execControlDieReset_memWf h
  | recoveryBoot => exact execRecoveryBoot_memWf h
  | firmwareUpdate => exact execFirmwareUpdate_memWf h
  | firmwareCommit => exact execFirmwareCommit_memWf h
  | attestationReport => exact execAttestationReport_memWf h
  | moduleCap => exact execModuleCap_memWf h
  | stepControl => exact execStepControl_memWf h
  | baseDieThermal => exact execBaseDieThermal_memWf h
  | flitReceive => exact execFlitReceive_memWf h
  | linkRetrain => exact execLinkRetrain_memWf h
  | linkBringUp => exact execLinkBringUp_memWf h
  | ucieRetrain => exact execUcieRetrain_memWf h
  | routeRecompute => exact execRouteRecompute_memWf h
  | packetRetransmit => exact execPacketRetransmit_memWf h
  | packetArrival => exact execPacketArrival_memWf h
  | packetAcknowledged => exact execPacketAcknowledged_memWf h
  | jobBarrierMessage => exact execJobBarrierMessage_memWf h
  | cxlMemRead => exact execCxlMemRead_memWf h
  | cxlMemWrite => exact execCxlMemWrite_memWf h
  | retrainComplete => exact execRetrainComplete_memWf h
  | ucieRetrainEnd => exact execUcieRetrainEnd_memWf h
  | backInvalidateResponse => exact execBackInvalidateResponse_memWf h

theorem afterStep_memWf {s : State} {o : Outcome} (h : o.memWf) : (afterStep s o).memWf := by
  cases o with
  | next t => exact .next (h t rfl).followFrom.settle
  | fault r => exact .fault r
  | refused r => exact .refused r

theorem afterIssue_memWf {s : State} {o : Outcome} (h : o.memWf) : (afterIssue s o).memWf := by
  cases o with
  | next t =>
    have ht : { t with issuer := none }.memWf := (h t rfl).frame rfl rfl rfl rfl
    exact .next ht.followFrom.settle
  | fault r => exact .fault r
  | refused r => exact .refused r

theorem leaveTrail_memWf {s : State} {who : Issuer} {i : Instr} {o : Outcome} (h : s.memWf) (ho : o.memWf) : (leaveTrail s who i o).memWf := by
  cases o with
  | next t => exact .next (h.trapsCompared (State.memWf.trailIssue (ho t rfl)))
  | fault r => exact .fault r
  | refused r => exact .refused r

theorem leaveFetch_memWf {s : State} {who : Issuer} {t : State} (h : s.memWf) (ht : t.memWf) : (leaveFetch s who t).memWf :=
  .next (h.trapsCompared ht)

/-- What a step leaves of a state in canonical form, whichever of its four kinds the step is: a read answered, an event from outside, an issue, or an internal event. -/
theorem step_memWf {s : State} (h : s.memWf) : Outcome.memWf (step s) := by
  unfold step
  split
  · exact .next (State.memWf.serveRead (h.frame rfl rfl rfl rfl))
  · exact afterStep_memWf (exec_memWf (h.frame rfl rfl rfl rfl))
  · split
    · rename_i who _
      have hfetch : (s.fetchInstr who).1.memWf := h.fetchInstr
      split
      · exact afterIssue_memWf (.next (h.trailStep fun _ _ => exec_memWf))
      · split
        · rename_i e
          have ht := hfetch.of_pair e
          exact afterIssue_memWf (leaveTrail_memWf ht (exec_memWf ht))
        · rename_i e
          exact afterIssue_memWf (leaveFetch_memWf h (hfetch.of_pair e))
    · split
      · exact afterStep_memWf (exec_memWf h)
      · exact afterStep_memWf (.next h)

end Sys2Proof.Machine
end

/-- Settles O59: the canonical form is a property of the parts of the state, each of the model's operations keeps it, and a step is made of these. -/
theorem everyStepKeepsMemory : Obligations.EveryStepKeepsMemory := fun _ t h e => Sys2Proof.Machine.step_memWf h t e
